-- ==== Sys2Proof/Word.lean ====
section
/-! DEFINITION. The word types of the device: 64-bit registers (R8), bytes, 128-bit instruction words (R215), and the bytes of a structure. -/

namespace Sys2Proof

/-- A register of a register block, or a scalar register (R8, R216). -/
abbrev Word := BitVec 64

/-- One byte of any memory. -/
abbrev Byte := BitVec 8

/-- An instruction word of 16 bytes, little-endian (R215). -/
abbrev Insn := BitVec 128

/-- A structure as its bytes, the first at offset 0 (R7). -/
abbrev Bytes := List (BitVec 8)

end Sys2Proof
end

