-- ==== Sys2Proof/Syntax.lean ====
section
/-! DEFINITION. The commands of the block: one constructor of `Instr` per row of spec/opcode_table.json, with the operands the row's rule gives, and the types of those operands. -/

namespace Sys2Proof

/-- The two engines of a matrix core (R215). -/
inductive Eng where
  | fetch
  | exec
deriving DecidableEq, Repr

/-- What the checks of the structures that a command reads report (R375, Table 14.1): nothing, or the one that fails. A byte in flight has by then
been fetched again once. -/
inductive Check where
  | ok
  /-- An entry of instruction or descriptor memory failed parity and was reloaded from the program image. -/
  | reloaded
  /-- Such an entry failed, and the image read too. -/
  | imageLost
  /-- A scratchpad slot that the command reads. -/
  | spad
  /-- Accumulator memory. -/
  | acc
  /-- A partial or operand in the array. -/
  | partials
  /-- The expander's input buffer. -/
  | xbuf
  /-- The landing buffer, or the rim engine's forward path. -/
  | landing
  /-- An entry of the directory cache. -/
  | cache
  /-- The value of a sync object. -/
  | object
  /-- The ALLOC, PART or CSLOT field of a sync object. -/
  | owner
  /-- A router buffer. -/
  | buffer
  /-- Control SRAM. -/
  | control
  /-- The security unit's state. -/
  | security
deriving DecidableEq, Repr

/-- Whether a check is that of a sync object's word. -/
def Check.isObj (k : Check) : Bool := k = .object || k = .owner

/-- Which entry a command of the command interface is: its ring pair and its CMD_ID (R305), and what the checks of control SRAM and of the
security unit report while it is carried out (R375). -/
structure CmdHdr where
  ring  : Fin 64
  cmdId : BitVec 16
  chk   : Check := .ok
deriving DecidableEq, Repr

/-- A fabric packet: the 16-byte header of Table 9.6 field by field, and its payload (R256). -/
structure Packet where
  dst     : BitVec 16
  src     : BitVec 16
  pseq    : BitVec 16
  flags   : BitVec 16
  typ     : BitVec 8
  hops    : BitVec 8
  injTime : BitVec 16
  word    : BitVec 32
  payload : Bytes
deriving DecidableEq, Repr

/-- A HELLO control message (Table 9.9). -/
structure HelloMsg where
  link     : BitVec 8
  role     : BitVec 8
  caps     : BitVec 8
  serial   : BitVec 64
  twin     : BitVec 64
  endpoint : BitVec 16
  coord    : BitVec 16
deriving DecidableEq, Repr

/-- A fabric flit (Table 9.3). -/
structure Flit where
  header  : BitVec 32
  payload : Bytes
  tag     : BitVec 64
  crc     : BitVec 32
deriving DecidableEq, Repr

/-- A VCL flit as it arrives (Table 10.1). -/
structure VclFlit where
  header  : BitVec 32
  slots   : Bytes
  credits : BitVec 64
  crc     : BitVec 32
deriving DecidableEq, Repr

/-- A path to a time root, as a TIME_REQ advertises it (R269). -/
structure Advert where
  prio   : BitVec 8
  serial : BitVec 64
  dist   : Nat
deriving DecidableEq, Repr

/-- The end of an operation of a core on its memories: in `stall` cycles a requester lost a bank (R154), and what the checks report. -/
structure Ended where
  stall : Nat
  chk   : Check
deriving DecidableEq, Repr

/-- How an HBM line failed, as the controllers report it during a command (R377). -/
inductive LineKind where
  /-- The stack's ECC corrected the line. -/
  | corrected
  /-- The first read failed and the second did not: in byte parity alone if `parity`, else as uncorrectable; `corrected` if the stack's ECC corrected the
  line in the second. -/
  | reread (parity corrected : Bool)
  /-- The stack reported the line uncorrectable twice. -/
  | uncorrectable
  /-- The line failed byte parity twice, with no uncorrectable report. -/
  | parity
  /-- The stack reported the line uncorrectable in one of the two reads, and it failed byte parity in the other. -/
  | mixed
deriving DecidableEq, Repr

/-- One line error met while a command reads HBM (R377). -/
structure LineErr where
  dpa  : Nat
  kind : LineKind
deriving DecidableEq, Repr

/-- What a move of landed or stored plaits meets: what the check of the buffer reports, and the lines of HBM that fail (R375, R377). -/
structure MemRead where
  chk  : Check
  errs : List LineErr := []
deriving DecidableEq, Repr

/-- An OFFER as it arrives (R252): the partner's key, random value and certificate chain, and whether the chain verifies. -/
structure OfferRx where
  pub     : Bytes
  random  : Bytes
  chain   : Bytes
  chainOk : Bool
deriving DecidableEq, Repr

/-- A PROOF as it arrives (R252): the signature. -/
structure ProofRx where
  sig : Bytes
deriving DecidableEq, Repr

/-- What the read of an entry's buffer gives as the entry is taken: whether it could be read, and its first byte, which is the PART of a RIM_FORM
(Table 11.7). -/
structure BufRead where
  ok   : Bool
  part : BitVec 8
deriving DecidableEq, Repr

/-- The fields of SHARD_INGEST and EPOCH_STAGE (Table 11.4), and the epoch manifest at the start of the buffer. -/
structure IngestCmd where
  model  : BitVec 16
  epoch  : BitVec 8
  sflags : BitVec 8
  n      : BitVec 8
  k      : BitVec 8
  man    : Bytes
deriving DecidableEq, Repr

/-- A retained model package as a repair ingest reads it (R116). -/
structure Package where
  bytes : Bytes
deriving DecidableEq, Repr

/-- KEY_ENROLL's slot and record (Table 13.2). -/
structure KeyCmd where
  slot : BitVec 8
  buf  : Bytes
deriving DecidableEq, Repr

/-- MODEL_ENROLL's fields and manifest (Table 13.3). -/
structure ModelCmd where
  model : BitVec 16
  slot  : BitVec 8
  buf   : Bytes
deriving DecidableEq, Repr

/-- A seat-hold notice (R389): the seat's member index, and the endpoint that sent it. -/
structure SeatNotice where
  index : BitVec 8
  src   : BitVec 16
deriving DecidableEq, Repr

/-- The window sizes that the host names in CONFIG, by class of credits (R280, R281). -/
structure Windows where
  req : BitVec 16
  rsp : BitVec 16
  snp : BitVec 16
deriving DecidableEq, Repr

/-- One aperture range of REGION_SET (R317). -/
structure AptRange where
  base   : BitVec 18
  size   : BitVec 18
  access : BitVec 2
deriving DecidableEq, Repr

/-- REGION_SET's buffer (R317); `rsvd` tells that a reserved bit of a range is non-zero. -/
structure RegionArgs where
  slowerBase : BitVec 64
  slowerSize : BitVec 64
  ranges     : List AptRange
  rsvd       : Bool
deriving DecidableEq, Repr

/-- RIM_FORM's buffer (Table 11.7); `rsvd` tells that a reserved byte or bit is non-zero. -/
structure RimFormArgs where
  part     : BitVec 8
  n        : BitVec 8
  own      : BitVec 8
  cw       : BitVec 18
  ccw      : BitVec 18
  deadline : BitVec 32
  gap      : BitVec 16
  members  : List (BitVec 16)
  rsvd     : Bool
deriving DecidableEq, Repr

/-- PART_CONFIG's arguments (R316). -/
structure PartArgs where
  shape : BitVec 8
  ring0 : BitVec 16
  ring1 : BitVec 16
  ring2 : BitVec 16
  ring3 : BitVec 16
deriving DecidableEq, Repr

/-- KEY_ENROLL's record (Table 13.2) and the security unit's verdicts (R357). -/
structure KeyArgs where
  slot      : BitVec 8
  format    : BitVec 16
  action    : BitVec 8
  recSlot   : BitVec 8
  rsvd      : BitVec 32
  serial    : BitVec 64
  expiry    : BitVec 64
  /-- SHA-512 of 0x04 ‖ OPERATOR_PUB equals the fuse. -/
  rootOk    : Bool
  /-- SIG verifies under OPERATOR_PUB. -/
  sigOk     : Bool
  publisher : Bytes
  /-- PUBLISHER_PUB is a point on P-521. -/
  onCurve   : Bool
deriving DecidableEq, Repr

/-- The model manifest's fields (Table 13.3) with the security unit's verdicts on SIG, on EPH_PUB and on the integrity of the unwrap (R360). -/
structure ModelArgs where
  model    : BitVec 16
  slot     : BitVec 8
  format   : BitVec 16
  recModel : BitVec 16
  layers   : BitVec 16
  formats  : BitVec 8
  /-- A reserved byte of the manifest is non-zero. -/
  rsvd     : Bool
  commit   : Bytes
  ephPub   : Bytes
  wrapped  : Bytes
  sigOk    : Bool
  unwrapOk : Bool
deriving DecidableEq, Repr

/-- SHARD_INGEST's and EPOCH_STAGE's arguments (R319) and the entry of the epoch manifest they name (Table 13.4, R363). -/
structure IngestArgs where
  model      : BitVec 16
  epoch      : BitVec 8
  sflags     : BitVec 8
  n          : BitVec 8
  k          : BitVec 8
  format     : BitVec 16
  mModel     : BitVec 16
  mEpoch     : BitVec 8
  mN         : BitVec 8
  manLen     : BitVec 32
  checkCount : BitVec 32
  checkFirst : BitVec 32
  checkNum   : BitVec 32
  ctLen      : BitVec 64
  /-- A reserved or padding byte of the manifest is non-zero. -/
  rsvd       : Bool
  checks     : List Nat
  nonce      : Bytes
  digest     : Bytes
  sigOk      : Bool
deriving DecidableEq, Repr

/-- EPOCH_FLIP's arguments (Table 11.4). -/
structure FlipArgs where
  ctx   : BitVec 16
  epoch : BitVec 8
  pin   : BitVec 8
  step  : BitVec 64
deriving DecidableEq, Repr

/-- CTX_CREATE's arguments and its buffer of regions (R320). -/
structure CtxArgs where
  ctx       : BitVec 16
  part      : BitVec 8
  cls       : BitVec 8
  model     : BitVec 16
  epoch     : BitVec 8
  attr      : BitVec 32
  seed      : BitVec 64
  startStep : BitVec 64
  buf       : Bytes
deriving DecidableEq, Repr

/-- STEP_SUBMIT's arguments (R320). -/
structure StepArgs where
  ctx        : BitVec 16
  rows       : BitVec 16
  pinned     : BitVec 16
  sflags     : BitVec 8
  client     : BitVec 16
  step       : BitVec 64
  argblk     : BitVec 64
  switchTime : BitVec 64
deriving DecidableEq, Repr

/-- TASK_SUBMIT's arguments (Table 11.4). -/
structure TaskArgs where
  ctx    : BitVec 16
  client : BitVec 16
  argblk : BitVec 64
deriving DecidableEq, Repr

/-- One schedule slot of a schedule table (Table 12.6). -/
structure SchedEntry where
  start : BitVec 32
  ctx   : BitVec 16
  rsvd  : BitVec 16
deriving DecidableEq, Repr

/-- SCHED_TABLE_LOAD's table (Table 12.6); `rsvd` tells that a reserved byte of its header is non-zero. -/
structure SchedTable where
  period : BitVec 32
  slots  : BitVec 16
  rsvd   : Bool
  tab    : List SchedEntry
deriving DecidableEq, Repr

/-- One entry of a routing bank's port map (R322); `rsvd` tells that another bit is non-zero. -/
structure PortArg where
  links : BitVec 18
  dir   : BitVec 3
  valid : Bool
  rsvd  : Bool
deriving DecidableEq, Repr

/-- FAB_ROUTE_LOAD's buffer (R322). The endpoint table lists the entries that are not 0, by endpoint id. -/
structure RouteArgs where
  bank    : BitVec 8
  prio    : BitVec 8
  ownEp   : BitVec 16
  ownCoord : BitVec 16
  extX    : BitVec 8
  extY    : BitVec 8
  extZ    : BitVec 8
  pktMax  : BitVec 8
  rsvd    : Bool
  ports   : List PortArg
  table   : List (Nat × BitVec 16)
deriving DecidableEq, Repr

/-- A message between the members' Obinha instances (R97). Its layout is Obinha's own (Table 9.7): these are its meanings. -/
inductive RimMsg where
  /-- A member's run-start report, sent once the chosen half holds no references there: layer, number and stored bytes of its own
  plaits, frames under layer 0xFFF (R73, R107). -/
  | runReport (ctx : BitVec 16) (epoch : BitVec 8) (first : BitVec 64) (member : Nat) (layers : List (Nat × Nat × Nat))
  /-- The lead member's run map and combined plait table: half, first generations by slot offset; owner, layer, number and stored bytes (R73, R107). -/
  | runMap (ctx : BitVec 16) (epoch : BitVec 8) (first : BitVec 64) (half : Bool) (gens : List (BitVec 2)) (table : List (Nat × Nat × Nat × Nat))
  /-- A member's acceptance of EPOCH_FLIP for a context (R117). -/
  | flipReport (ctx : BitVec 16) (epoch : BitVec 8) (step : BitVec 64) (member : Nat)
  /-- The lead member's verdict on a flip: commit or cancel (R118). -/
  | flipVerdict (ctx : BitVec 16) (step : BitVec 64) (commit : Bool)
  /-- A member's pinned rows for a step (R120). -/
  | pinReport (ctx : BitVec 16) (step : BitVec 64) (member : Nat) (pinned : Nat)
  /-- The lead member's dual or single verdict for a step (R120). -/
  | pinVerdict (ctx : BitVec 16) (step : BitVec 64) (dual : Bool)
  /-- A member's highest armed step of the outgoing context (R336). -/
  | switchReport (ctx : BitVec 16) (member : Nat) (step : BitVec 64)
  /-- The lead member's switch verdict H (R336). -/
  | switchVerdict (ctx : BitVec 16) (step : BitVec 64)
  /-- A member's part of the combined table of a model and weight epoch: layer, number and stored bytes (R458). -/
  | tableReport (model : BitVec 16) (epoch : BitVec 8) (member : Nat) (layers : List (Nat × Nat × Nat))
  /-- The combined table of a model and weight epoch: by layer, the bytes of the owners other than the receiver, frames in layer 0 (R458). -/
  | combinedTable (model : BitVec 16) (epoch : BitVec 8) (layers : List (Nat × Nat))
  /-- A member's request for that table (R458). -/
  | tableRequest (model : BitVec 16) (epoch : BitVec 8) (member : Nat)
  /-- A member's blocked contexts with their blocked times, its contexts with a step in flight, and its runnable contexts (R346). -/
  | swapReport (member : Nat) (blocked : List (BitVec 16 × BitVec 64)) (inFlight runnable : List (BitVec 16))
  /-- The lead member's choice for an automatic swap with its instant (R346). -/
  | swapChoice (incoming : BitVec 16) (victim : Option (BitVec 16)) (at_ : BitVec 64)
  /-- An automatic swap given up: no victim qualifies, or a check fails on some member (R346). -/
  | swapFail
deriving DecidableEq, Repr

/-- A pair record sent by the twin (R383). -/
inductive PairRecord where
  | rim (part : Fin 4) (members : List (BitVec 16)) (own : BitVec 8) (cw ccw : BitVec 18) (digest : BitVec 32)
  | ctx (args : CtxArgs)
  | program (ctx : BitVec 16) (image : Bytes)
  | rimGone (part : Fin 4)
  | ctxGone (ctx : BitVec 16)
  /-- The twin ends the pairing (R395, mode 1). -/
  | unpair
  /-- The twin hands back a seat of a partition, whose rim record it has sent; `lead` is the rim's lead member (R395, mode 2). -/
  | handBack (part : Fin 4) (seat lead : BitVec 8)
deriving DecidableEq, Repr

/-- The twin's pairing request (R382). -/
structure PairRequest where
  serial  : BitVec 64
  named   : BitVec 64
  shape   : BitVec 8
  ctxs    : List (BitVec 16)
  regions : List (BitVec 64 × BitVec 64)
deriving DecidableEq, Repr

/-- One sample of sensors, power and rails (R404, R428): readings in tenths of a degree, `none` for no reading. -/
structure Sample where
  temps  : List (Option Int)
  powerW : BitVec 16
  rails  : BitVec 11
deriving DecidableEq, Repr

/-- A sync object whose word fails its check as a command meets it, and whether in its ALLOC, PART and CSLOT fields (Table 14.1). -/
abbrev ObjFail := Option (BitVec 14 × Bool)

/-- A packet at the sync unit. -/
structure SyncRx where
  pkt  : Packet
  fail : ObjFail
deriving DecidableEq, Repr

/-- The operations of a forced write (R211). -/
structure ForceArgs where
  index : BitVec 16
  op    : BitVec 8
  value : BitVec 32
  fail  : ObjFail
deriving DecidableEq, Repr

/-- How a bring-up stage ended (R436, R437), stage 2 also without a readable EEPROM chain (R356, R374). -/
inductive StageEnd where
  | ok
  | hbmTrainFail
  | chainUnreadable
deriving DecidableEq, Repr

/-- The commands: one constructor per row of the table of operations and events. -/
inductive Instr where
  -- instructions of the engines (08_instruction_set)
  | nop (c : Fin 16) (e : Eng) (w : Insn) (chk : Check)
  | halt (c : Fin 16) (e : Eng) (w : Insn) (chk : Check)
  | loop (c : Fin 16) (e : Eng) (w : Insn) (chk : Check)
  | branch (c : Fin 16) (e : Eng) (w : Insn) (chk : Check)
  | set (c : Fin 16) (e : Eng) (w : Insn) (chk : Check)
  | sadd (c : Fin 16) (e : Eng) (w : Insn) (chk : Check)
  | sload (c : Fin 16) (e : Eng) (w : Insn) (chk : Check)
  | stream (c : Fin 16) (w : Insn) (chk : Check)
  | gather (c : Fin 16) (w : Insn) (chk : Check)
  | put (c : Fin 16) (w : Insn) (chk : Check)
  | winOpen (c : Fin 16) (w : Insn) (chk : Check)
  | winClose (c : Fin 16) (w : Insn) (chk : Check)
  | weftBind (c : Fin 16) (w : Insn) (chk : Check)
  | hpush (c : Fin 16) (w : Insn) (chk : Check)
  | hpop (c : Fin 16) (w : Insn) (chk : Check)
  | fset (c : Fin 16) (e : Eng) (w : Insn) (chk : Check)
  | fclr (c : Fin 16) (e : Eng) (w : Insn) (chk : Check)
  | fwait (c : Fin 16) (e : Eng) (w : Insn) (chk : Check)
  | cwait (c : Fin 16) (w : Insn) (chk : Check)
  | consume (c : Fin 16) (w : Insn) (chk : Check)
  | rsignal (c : Fin 16) (w : Insn) (chk : Check)
  | barrier (c : Fin 16) (w : Insn) (chk : Check)
  | mma (c : Fin 16) (w : Insn) (chk : Check)
  | mmaDiag (c : Fin 16) (w : Insn) (chk : Check)
  | accRead (c : Fin 16) (w : Insn) (chk : Check)
  | tload (c : Fin 16) (w : Insn) (chk : Check)
  | vop (c : Fin 16) (w : Insn) (chk : Check)
  | vred (c : Fin 16) (w : Insn) (chk : Check)
  | vfun (c : Fin 16) (w : Insn) (chk : Check)
  -- events inside a core
  | vectorDone (c : Fin 16) (r : Ended)
  | lullEntry (c : Fin 16) (e : Eng)
  | runaheadPrefetch (c : Fin 16)
  | mmaStart (c : Fin 16) (bankWait : Nat) (chk : Check)
  | arrayRampStep (c : Fin 16)
  | arrayHoldExpiry (c : Fin 16)
  | blockContribution (c : Fin 16) (bank : Fin 2) (block : Nat) (pass : Fin 2) (chk : Check)
  | mmaBankComplete (c : Fin 16) (bank : Fin 2) (weftStall actStall : Nat) (r : Ended)
  | readoutStart (c : Fin 16) (bank : Fin 2)
  | readoutEnd (c : Fin 16) (bank : Fin 2) (r : Ended)
  | plaitInExpander (c : Fin 16) (plait : Bytes) (r : MemRead)
  | plaitDecodeDone (c : Fin 16) (chk : Check)
  | streamComplete (c : Fin 16) (id : Nat) (errs : List LineErr) (r : Ended)
  -- windows, signals, barriers across the fabric (06, 07)
  | putPacketRx (p : Packet)
  | putRetryTimer (dst pseq : BitVec 16)
  | rsignalRx (p : SyncRx)
  | rsigDoneRx (p : SyncRx)
  | barArriveRx (p : SyncRx)
  | barReleaseRx (p : SyncRx)
  | barBreakRx (p : SyncRx)
  | debugSyncForce (h : CmdHdr) (a : ForceArgs)
  | syncForce (a : ForceArgs)
  -- links and the fabric (09)
  | linkLossOfSignal (l : Fin 20)
  | linkRetryTimer (l : Fin 20)
  | linkTrainDone (l : Fin 20)
  | linkStateTimeout (l : Fin 20)
  | hello (l : Fin 20) (m : HelloMsg)
  | helloSendTimer (l : Fin 20)
  | offer (l : Fin 20) (m : OfferRx)
  | proof (l : Fin 20) (m : ProofRx)
  | flitRx (l : Fin 20) (f : Flit)
  | retry (l : Fin 20) (seq : BitVec 9)
  | rekeyStart (l : Fin 20)
  | rekey (l : Fin 20) (switchCount : BitVec 64)
  | timeReq (l : Fin 20) (t1 t2 t3 : BitVec 64) (adv : Advert)
  | timeReqTimer
  | timeResp (l : Fin 20) (t1 t2 t3 t4 : BitVec 64)
  | linkAdaptTick (l : Fin 21)
  | adapt (l : Fin 21) (up : Bool)
  | adaptEvaluate (l : Fin 21) (before after : Nat)
  | packetAtRouter (p : Packet) (input : Option (Fin 20))
  | packetOutputGrant (idx : Nat) (l : Fin 20) (stall : Nat) (chk : Check)
  | escapeTimeout (idx : Nat)
  | e2eRetransmitTimer (dst pseq : BitVec 16)
  | reasmEntryRelease (src : BitVec 16)
  | gustTick (port : Fin 8) (offNs : Nat) (samples : List (Fin 8 × Fin 8))
  | ack (p : SyncRx)
  | rimRereq (p : Packet)
  | rimAbort (p : Packet)
  | rimCtrl (part : Fin 4) (m : RimMsg)
  | hbmWrite (p : Packet)
  | fabEpochFlipAtT
  | bankRetire (b : Fin 2)
  | fabRouteLoad (h : CmdHdr) (buf : List (Nat × Byte))
  | fabEpochFlip (h : CmdHdr) (bank : BitVec 8) (t : BitVec 64)
  | discover (h : CmdHdr)
  -- the rim (04)
  | rimForm (h : CmdHdr) (buf : Bytes)
  | rimHelloTimer (p : Fin 4)
  | rimHelloFrame (l : Fin 20) (frame : Bytes)
  | rimFormTimeout (p : Fin 4)
  | rimGoodbyeFrame (l : Fin 20) (frame : Bytes)
  | rimDissolve (h : CmdHdr) (part : BitVec 8)
  | plaitFrame (l : Fin 20) (frame : Bytes) (busy : Nat) (chk : Check)
  | forwardResume (p : Fin 4) (idx : Nat) (l : Fin 20) (off : Nat) (r : MemRead)
  | plaitInject (p : Fin 4) (errs : List LineErr) (chk : Check)
  | repairIngestDone (p : Fin 4) (pkg : Option Package)
  | gapTimerExpiry (p : Fin 4) (owner layer : Nat)
  | shardDeadlineExpiry (p : Fin 4) (owner layer : Nat)
  | combinedTableTimeout (h : CmdHdr)
  -- weights (03, 13)
  | shardIngest (h : CmdHdr) (a : IngestCmd)
  | ingestPass1End (ct : Bytes) (readOk : Bool) (chk : Check)
  | ingestPass2End (errs : List LineErr)
  | epochStage (h : CmdHdr) (a : IngestCmd)
  | epochFlip (h : CmdHdr) (a : FlipArgs)
  | shardEvict (h : CmdHdr) (model : BitVec 16) (epoch mode : BitVec 8)
  | tierMoveDone (ok : Bool)
  | slowerTierReadDone (p : Fin 4) (ok : Bool) (chk : Check)
  -- the command interface (11)
  | sqDoorbell (r : Fin 64) (v : Word)
  | cqDoorbell (r : Fin 64) (v : Word)
  | ringEnable (r : Fin 64) (cfg : Word)
  | ringDrain (r : Fin 64) (cfg : Word)
  | entryTake (r : Fin 64) (readOk : Bool) (entry : BitVec 512) (buf : BufRead)
  | coalesceTimer (r : Fin 64)
  | cmdNop (h : CmdHdr)
  | query (h : CmdHdr)
  | regionSet (h : CmdHdr) (buf : Bytes)
  | partConfig (h : CmdHdr) (a : PartArgs)
  | keyEnroll (h : CmdHdr) (a : KeyCmd)
  | modelEnroll (h : CmdHdr) (a : ModelCmd)
  -- contexts and scheduling (12)
  | ctxCreate (h : CmdHdr) (a : CtxArgs)
  | ctxDestroy (h : CmdHdr) (ctx : BitVec 16)
  | ctxDestroyResume (ctx : BitVec 16)
  | ctxReside (h : CmdHdr) (ctx : BitVec 16) (imgOk : Bool)
  | ctxEvict (h : CmdHdr) (ctx : BitVec 16) (dest : BitVec 8)
  | ctxEvictResume (ctx : BitVec 16) (writeOk : Bool)
  | programLoad (h : CmdHdr) (ctx : BitVec 16) (image : Bytes)
  | stepSubmit (h : CmdHdr) (a : StepArgs)
  | taskSubmit (h : CmdHdr) (a : TaskArgs)
  | schedTableLoad (h : CmdHdr) (part : BitVec 8) (buf : Bytes)
  | schedMode (h : CmdHdr) (part mode : BitVec 8) (start : BitVec 64)
  | schedModeEffect (p : Fin 4)
  | stepArm (p : Fin 4)
  | stepComplete (p : Fin 4)
  | switchTimeReached (p : Fin 4)
  | enginesStart (p : Fin 4)
  | schedSlotStart (p : Fin 4)
  | cyclicEngineStart (p : Fin 4)
  | blockedGraceExpiry (p : Fin 4)
  | autoSwapInstant (p : Fin 4) (imgOk : Bool)
  | taskStart (p : Fin 4)
  -- the twin (14)
  | twinPair (h : CmdHdr) (serial : BitVec 64)
  | pairingRequestRx (r : PairRequest)
  | twinPairTimeout
  | twinDetach (h : CmdHdr) (mode : BitVec 8)
  | checkpointCfg (h : CmdHdr) (ctx interval : BitVec 16)
  | pairRecordRx (r : PairRecord)
  | shadowRx (key : BitVec 64) (stored : Bytes)
  | ckptCommit (ctx : BitVec 16) (step : BitVec 64) (bad : Bool) (sync : List (BitVec 64)) (queues : List (List (BitVec 64))) (pages : List Nat)
  | heartbeatTimer
  | heartbeatRx (l : Fin 2)
  | heartbeatTimeout
  | departureRx
  | seatHoldNoticeRx (p : Fin 4) (m : SeatNotice)
  | seatHoldExpiry (p : Fin 4)
  -- firmware, attestation, keys (13)
  | fwLoadHost (src len : BitVec 64)
  | fwVerifyDone (u : Unit)
  | spdmGo (reqLen : BitVec 13)
  | spdmMessage (req : Bytes)
  | entropyHealthFail
  -- the host link (10)
  | vclLossOfSignal
  | vclRetryTimer
  | vclTrainDone (x8 : Bool) (half : Bool)
  | vclConfigDone (got : Option Windows)
  | vclStateTimeout
  | vclFlitRx (f : VclFlit)
  | vclRetry (seq : BitVec 10)
  | mmioRd (win : Fin 3) (offset : BitVec 38) (log2 : Fin 7) (tag : BitVec 12)
  | mmioWr (win : Fin 3) (offset : BitVec 38) (log2 : Fin 7) (data : Bytes)
  | snpInv (addr : BitVec 64) (tag : BitVec 12)
  | snpData (addr : BitVec 64) (tag : BitVec 12)
  | data (tag : BitVec 12) (status : BitVec 8) (first : Nat) (lines : Bytes) (parityBad : Bool)
  | wrDone (tag : BitVec 12) (status : BitVec 8)
  | vclReqTimeout (tag : BitVec 12)
  | msiUnmask (v : Fin 128) (ctl : Word)
  | pwrCfgWrite (v : Word)
  | powerSet (capW mhz : BitVec 16)
  | registerWrite (block : Fin 32) (offset : BitVec 16) (v : Word)
  -- housekeeping and management (15)
  | sensorSample (x : Sample)
  | throttleFall
  | barometerLatch (powerMw : BitVec 32) (temps : List Int)
  | telemetryCfg (h : CmdHdr) (period : BitVec 16)
  | ageingTick (temps : List Int) (volts : List Nat)
  | almanacHourly
  | almanacHoldExpiry
  | almanacWriteDone (ok : Bool)
  | almanacRead (h : CmdHdr)
  | scrubBlock (errs : List LineErr)
  | timeSet (h : CmdHdr) (utc at_ : BitVec 64)
  | timeSetM (utc : BitVec 64)
  | getStatus
  | fwBegin (len : BitVec 32)
  | fwData (offset : BitVec 32) (bytes : Bytes)
  | fwEnd
  | svnRaise (svn : BitVec 32) (serial : BitVec 64) (sig : Bytes)
  | almanacGet (idx : BitVec 8)
  | baroGet (idx : BitVec 8)
  | regRead (block : BitVec 8) (offset : BitVec 16)
  | pldmRequest (typ : BitVec 8) (req : Bytes)
  | mctpControl (req : Bytes) (eid : Option (BitVec 8))
  | entdaa (addr : BitVec 7)
  | smbusFallbackTimer
  | smbusArp (addr : BitVec 7)
  -- power, clock, reset, bring-up (16)
  | standbyPowerOn
  | pwrOkRise
  | pwrOkFall
  | rstNFall
  | rstNRise (twinPresentN : Bool)
  | trstN
  | refclkLoss
  | pwrReset (v : Word)
  | mainResetEffect
  | bringupStageEnd (r : StageEnd)
  | timeSyncTimeout
  | standbyResetRelease
  | refclkPresent
  | mctpUnknownType (typ : BitVec 8)
  | standbyPowerOff
deriving DecidableEq, Repr

end Sys2Proof
end

