-- ==== Sys2Proof/Config.lean ====
section
/-! DEFINITION. What the spec leaves to an implementation or does not state: opaque constants, so that no proof can lean on a value of them. -/

namespace Sys2Proof.Config

/-- A fresh value each time it is applied to a new count (the model's own field State.freeN).
DESIGN CHOICE, log entry 3: used where the spec states no value and the device goes on. -/
opaque freeValue : Nat → BitVec 64

/-- An element byte of an MXQ block that holds a NaN or an infinity (R50), from the output type, the block's values and the element's
place. The spec gives such a block its scale and no elements. DESIGN CHOICE, log entry 3: a function of the operands alone, since a
replay of a step gives the same bits (R55). -/
opaque mxqOpen : Nat → List (BitVec 32) → Nat → BitVec 8

/-- The bytes of an SPDM, PLDM or MCTP answer whose layout a published standard fixes and the spec does not repeat
(R366, R420), from the responder's requests so far with this one last, what the spec says they state (measurement blocks, capabilities and chain, or the rows of
Table 15.6), and a fresh count. DESIGN CHOICE, log entry 10. -/
opaque standardAnswer : List (List (BitVec 8)) → List (List (BitVec 8)) → Nat → List (BitVec 8)

/-- The UDID that the management port shows under SMBus ARP, built from the serial (R419): the spec does not say how. DESIGN CHOICE, log entry 111. -/
opaque smbusUdid : BitVec 64 → List (BitVec 8)

/-- The bytes over which the digest of a measurement block is taken, by its index and contents (Table 13.6): the spec gives the layout of block 6 alone.
DESIGN CHOICE, log entry 10. -/
opaque measureBytes : Nat → List Nat → List (BitVec 8)

/-- The boot ROM's version (Table 13.6). -/
opaque romVersion : BitVec 32

/-- Which of the six HBM controllers serves an aligned block of 512 B, by block number.
The spec does not say how addresses spread over the controllers. DESIGN CHOICE, log entry 11. -/
opaque hbmController : Nat → Fin 6

/-- The slots of a control flit on VCL or a control flit's payload on a link, from its name and arguments: the spec gives their layout for none
of VCL's control flits (R278, R281). DESIGN CHOICE, log entry 58. -/
opaque controlBytes : String → List Nat → List (BitVec 8)

/-- The bytes of a part of a context image whose layout the spec does not give, from the part (0 an engine, 1 bindings and staging, 2 the array queue,
3 the windows, 4 the header) and what it holds (Table 8.16, R333). DESIGN CHOICE, log entry 24. -/
opaque recordBytes : Nat → List Nat → List (BitVec 8)

/-- The window sizes that the device names in CONFIG, in 64-byte buffers by class (R280, Table 10.2). The spec gives no number.
DESIGN CHOICE, log entry 58. -/
opaque vclWindow : Nat → BitVec 16

/-! Cryptographic primitives (R83, R251, R252, R355, R359): published standards give them, and the spec names them without repeating them. They are
opaque functions of all their inputs. DESIGN CHOICE, log entry 92. -/

/-- A byte of the key stream of AES-256-GCM, from the key, the 96-bit nonce and the place of the byte. -/
opaque keystream : List (BitVec 8) → List (BitVec 8) → Nat → BitVec 8

/-- A byte of the 16-byte tag of AES-256-GCM, from the key, the nonce, the additional data, the ciphertext and its place. -/
opaque gcmTag : List (BitVec 8) → List (BitVec 8) → List (BitVec 8) → List (BitVec 8) → Nat → BitVec 8

/-- A byte of SHA-512. -/
opaque sha512 : List (BitVec 8) → Nat → BitVec 8

/-- A byte of HKDF with SHA-512: salt, input key, info, place. -/
opaque hkdf : List (BitVec 8) → List (BitVec 8) → List (BitVec 8) → Nat → BitVec 8

/-- A byte of a P-521 private key of 96 random bytes, of the public point of a private key, and of the x-coordinate of the product of a private key and
a point. -/
opaque p521Private : List (BitVec 8) → Nat → BitVec 8
opaque p521Public : List (BitVec 8) → Nat → BitVec 8
opaque p521Dh : List (BitVec 8) → List (BitVec 8) → Nat → BitVec 8

/-- A byte of the wrapped form of a 32-byte key, from the wrapping key and the key (RFC 3394, default IV). -/
opaque aesWrap : List (BitVec 8) → List (BitVec 8) → Nat → BitVec 8

/-- A byte of the ECDSA signature over P-521 with SHA-512 that belongs to a public key, a message and a per-signature secret number, and the number that
the device draws to sign a message with a private key. -/
opaque ecdsaSignature : List (BitVec 8) → List (BitVec 8) → Nat → Nat → BitVec 8
opaque ecdsaNonce : List (BitVec 8) → List (BitVec 8) → Nat

/-- The public identity key that a device certificate chain names (R252, R356). -/
opaque chainSubject : List (BitVec 8) → List (BitVec 8)

/-- The part of an alias certificate that DevID signs, from the alias public key and the firmware measurement (R356): X.509 gives its bytes. -/
opaque aliasBody : List (BitVec 8) → List (BitVec 8) → List (BitVec 8)

/-- A byte of HKDF-Expand with SHA-512: key, info, place. -/
opaque hkdfExpand : List (BitVec 8) → List (BitVec 8) → Nat → BitVec 8

/-- The info string of a link direction's key: it names the direction, from the lower serial or not, and the rekey index (R252); the spec gives no bytes. -/
opaque linkInfo : Bool → Nat → List (BitVec 8)

/-- The bytes of the public keys whose hashes are fused or in the boot ROM: the operator root, and the firmware keys by number (Table 13.1). -/
opaque operatorKey : Nat → BitVec 8
opaque firmwareKey : Nat → Nat → BitVec 8

/-- The device secret fused at manufacture, the constant in its place on a debug part (Table 13.1, R365), and the certificate chain of the EEPROM
(R356). -/
opaque deviceSecret : List (BitVec 8)
opaque debugSecret : List (BitVec 8)
opaque certChain : List (BitVec 8)

/-- The coordinate of an endpoint id, by which the escape path routes (R263). The spec gives no table from endpoint ids to
coordinates. DESIGN CHOICE, log entry 13. -/
opaque endpointCoord : BitVec 16 → BitVec 16

end Sys2Proof.Config
end

