-- ==== Sys2Proof/Machine/Bits.lean ====
section
/-! DEFINITION. Bit fields, little-endian bytes, the CRC-32C of plaits and flits, and the sparse maps that hold memories: sorted lists of key and value with a default for every unlisted key. -/

namespace Sys2Proof.Machine

/-- The field of `len` bits whose lowest bit is `lo`, as a number (bit 0 is the least significant, 00_scope). -/
def fld {n : Nat} (w : BitVec n) (lo len : Nat) : Nat := (w.toNat >>> lo) % 2 ^ len

/-- Bit `i` of a word. -/
def bit {n : Nat} (w : BitVec n) (i : Nat) : Bool := w.getLsbD i

/-- A number whose low `len` bits, moved up by `lo`, make a field. -/
def put (v lo len : Nat) : Nat := (v % 2 ^ len) <<< lo

/-- 1 for true, 0 for false. -/
def b2n (b : Bool) : Nat := if b then 1 else 0

/-- A number of `len` bits read as two's complement. -/
def signed (v len : Nat) : Int := if v < 2 ^ (len - 1) then (v : Int) else (v : Int) - 2 ^ len

/-- Bytes as a little-endian number (R6). -/
def leNat : Bytes → Nat
  | [] => 0
  | b :: bs => b.toNat + 256 * leNat bs

/-- `k` bytes of a number, little-endian (R6). -/
def toLe : Nat → Nat → Bytes
  | 0, _ => []
  | k + 1, n => BitVec.ofNat 8 n :: toLe k (n / 256)

/-- The number held in the `len` bytes at offset `o` of a structure. -/
def leAt (bs : Bytes) (o len : Nat) : Nat := leNat ((bs.drop o).take len)

/-- Whether every byte of a part of a structure is 0. -/
def zeroAt (bs : Bytes) (o len : Nat) : Bool := ((bs.drop o).take len).all (· == 0)

/-- A byte of a structure, 0 past its end. -/
def byteAt (bs : Bytes) (o : Nat) : Byte := bs.getD o 0

/-- One byte into a CRC-32C register (polynomial 0x1EDC_6F41, reflected). -/
def crcByte (c : BitVec 32) (b : Byte) : BitVec 32 :=
  let rec go : Nat → BitVec 32 → BitVec 32
    | 0, c => c
    | k + 1, c => go k (if c.getLsbD 0 then (c >>> 1) ^^^ 0x82F63B78#32 else c >>> 1)
  go 8 (c ^^^ b.setWidth 32)

/-- CRC-32C of a string of bytes. -/
def crc32c (bs : Bytes) : BitVec 32 := ~~~ (bs.foldl crcByte 0xFFFFFFFF#32)

/-! Sparse maps -/

/-- What a list of pairs lists at a key. -/
def look {α : Type} : List (Nat × α) → Nat → Option α
  | [], _ => none
  | (k', v) :: r, k => if k = k' then some v else look r k

/-- The list with a key's value set, in rising order of keys. -/
def insertAt {α : Type} : List (Nat × α) → Nat → α → List (Nat × α)
  | [], k, v => [(k, v)]
  | (k', v') :: r, k, v =>
    if k = k' then (k, v) :: r
    else if k < k' then (k, v) :: (k', v') :: r
    else (k', v') :: insertAt r k v

/-- The list without a key. -/
def erase {α : Type} : List (Nat × α) → Nat → List (Nat × α)
  | [], _ => []
  | (k', v') :: r, k => if k = k' then erase r k else (k', v') :: erase r k

/-- A sparse map's value at a key, the default where it lists none. -/
def mget {α : Type} (d : Nat → α) (m : List (Nat × α)) (k : Nat) : α := (look m k).getD (d k)

/-- A sparse map with a value set: writing the default removes the entry, so that equal maps are equal lists. -/
def mset {α : Type} [DecidableEq α] (d : Nat → α) (m : List (Nat × α)) (k : Nat) (v : α) : List (Nat × α) :=
  if v = d k then erase m k else insertAt m k v

/-- Keys strictly rising above a bound. -/
def risingFrom {α : Type} : Nat → List (Nat × α) → Bool
  | _, [] => true
  | b, (k, _) :: r => decide (b ≤ k) && risingFrom (k + 1) r

/-- The canonical form of a sparse map: keys strictly rising, no entry equal to the default. -/
def canonical {α : Type} [DecidableEq α] (d : Nat → α) (m : List (Nat × α)) : Bool :=
  risingFrom 0 m && m.all (fun p => decide (p.2 ≠ d p.1))

/-- A byte array's bytes from a key on. -/
def getBytes (m : List (Nat × Byte)) : Nat → Nat → Bytes
  | _, 0 => []
  | a, n + 1 => mget (fun _ => 0) m a :: getBytes m (a + 1) n

/-- A byte array with bytes written from a key on. -/
def setBytes (m : List (Nat × Byte)) : Nat → Bytes → List (Nat × Byte)
  | _, [] => m
  | a, b :: bs => setBytes (mset (fun _ => 0) m a b) (a + 1) bs

/-- `Nat` minimum and maximum of a list with a default for the empty one. -/
def maxOf (l : List Nat) : Nat := l.foldl Nat.max 0

/-- ⌈log2⌉-free length of a number in bits: 0 for 0. -/
def bitLen (n : Nat) : Nat := if n = 0 then 0 else Nat.log2 n + 1

/-- The integer square root, bit by bit. -/
def isqrt (n : Nat) : Nat :=
  let rec go : Nat → Nat → Nat
    | 0, r => r
    | k + 1, r => if (r + 2 ^ k) * (r + 2 ^ k) ≤ n then go k (r + 2 ^ k) else go k r
  go (bitLen n / 2 + 1) 0

/-- The least of a list by a key, the earliest among equals. -/
def minBy {α : Type} (f : α → Nat) : List α → Option α
  | [] => none
  | a :: r => some (r.foldl (fun b c => if f c < f b then c else b) a)

/-- The first element that a test takes, and the list without it. -/
def pull {α : Type} (f : α → Bool) : List α → Option (α × List α)
  | [] => none
  | a :: r => if f a then some (a, r) else (pull f r).map (fun p => (p.1, a :: p.2))

/-- The least number below a bound that meets a test. -/
def findBelow (f : Nat → Bool) : Nat → Option Nat
  | 0 => none
  | n + 1 => match findBelow f n with
    | some k => some k
    | none => if f n then some n else none

/-- Saturating 64-bit addition, as every counter keeps it (R396). -/
def satAdd (w : Word) (n : Nat) : Word := if w.toNat + n < 2 ^ 64 then BitVec.ofNat 64 (w.toNat + n) else BitVec.allOnes 64

end Sys2Proof.Machine
end

