-- ==== Sys2Proof/Machine/Crypto.lean ====
section
/-! DEFINITION. Encryption as the spec uses it: AES-256-GCM for links and the slower tier (R83, R251), and the keys derived from the device secret (Table 13.1, R359). -/

namespace Sys2Proof.Machine

/-! AES-256-GCM -/

/-- Encryption and decryption: the key stream added to the bytes. -/
def gcmCrypt (key nonce bs : Bytes) : Bytes := bs.zipIdx.map (fun b => b.1 ^^^ Config.keystream key nonce b.2)

/-- The tag of a ciphertext and its additional data. -/
def gcmTag (key nonce aad ct : Bytes) : Bytes := (List.range 16).map (Config.gcmTag key nonce aad ct)

/-- A ciphertext followed by its tag. -/
def gcmSeal (key nonce aad bs : Bytes) : Bytes :=
  let ct := gcmCrypt key nonce bs
  ct ++ gcmTag key nonce aad ct

/-- The plaintext of a ciphertext followed by its tag, none where the tag fails. -/
def gcmOpen (key nonce aad bs : Bytes) : Option Bytes :=
  let ct := bs.take (bs.length - 16)
  if bs.drop (bs.length - 16) = gcmTag key nonce aad ct then some (gcmCrypt key nonce ct) else none

/-! Hashes, keys and signatures, with their lengths in bytes (13_security_loading, "Byte order") -/

def sha512 (bs : Bytes) : Bytes := (List.range 64).map (Config.sha512 bs)
def hkdf (salt ikm info : Bytes) (n : Nat) : Bytes := (List.range n).map (Config.hkdf salt ikm info)
def hkdfExpand (key info : Bytes) (n : Nat) : Bytes := (List.range n).map (Config.hkdfExpand key info)
def p521Private (random : Bytes) : Bytes := (List.range 66).map (Config.p521Private random)
def p521Public (key : Bytes) : Bytes := (List.range 132).map (Config.p521Public key)
def p521Dh (key pub : Bytes) : Bytes := (List.range 66).map (Config.p521Dh key pub)
def aesWrap (kek key : Bytes) : Bytes := (List.range 40).map (Config.aesWrap kek key)

/-- The key that an unwrap recovers, none where its integrity check fails: a wrapped key of some 32 bytes, and no other bytes, passes it. -/
def aesUnwrap (kek wrapped : Bytes) : Option Bytes :=
  (findBelow (fun n => decide (wrapped = aesWrap kek (toLe 32 n))) (2 ^ 256)).map (toLe 32)

/-- A private number as the 66 bytes of its big-endian form. -/
def be66 (n : Nat) : Bytes := (toLe 66 n).reverse

/-- Whether a public key field holds a point on P-521: every such point is a private number's. -/
def onCurve (pub : Bytes) : Bool := decide (∃ n, n < 2 ^ 521 ∧ pub = p521Public (be66 n))

/-- A signature under the private key of a public one with a per-signature number, the device's own, and whether a signature verifies: it is the one of
some number. -/
def ecdsaWith (pub msg : Bytes) (n : Nat) : Bytes := (List.range 132).map (Config.ecdsaSignature pub msg n)
def ecdsaSign (key msg : Bytes) : Bytes := ecdsaWith (p521Public key) msg (Config.ecdsaNonce key msg)
def ecdsaOk (pub msg sig : Bytes) : Bool := decide (∃ n, n < 2 ^ 521 ∧ sig = ecdsaWith pub msg n)

/-! Keys (R355, R359) -/

/-- The bytes of a label. -/
def ascii (t : String) : Bytes := t.toList.map (fun c => BitVec.ofNat 8 c.toNat)

/-- A P-521 private key derived from the device secret with a salt and a label (Table 13.1). -/
def derivedKey (secret salt : Bytes) (label : String) : Bytes := p521Private (hkdf salt secret (ascii label) 96)

/-- The storage key of a boot, from 32 random bytes (Table 13.1). -/
def storageKeyOf (secret random : Bytes) : Bytes := hkdf random secret (ascii "vpz-store") 32

/-- The content key of a model from its wrapped form (R359), none where the unwrap fails. -/
def contentKey (secret : Bytes) (model : Nat) (serial : BitVec 64) (ephPub wrapped : Bytes) : Option Bytes :=
  let dka := derivedKey secret [] "vpz-dka"
  let z := p521Dh dka ephPub
  let kek := hkdf (ephPub ++ p521Public dka) z (ascii "vpz-ck" ++ toLe 2 model ++ toLe 8 serial.toNat) 32
  aesUnwrap kek wrapped

/-- The alias certificate that the security unit issues under DevID, with the firmware measurement (R356). -/
def aliasCertOf (secret digest : Bytes) : Bytes :=
  let devId := derivedKey secret [] "vpz-devid"
  let body := Config.aliasBody (p521Public (derivedKey secret digest "vpz-alias")) digest
  body ++ ecdsaSign devId body

/-- A public key's point of 133 bytes, uncompressed, as its hash is fused (Table 13.1). -/
def pointHash (pub : Bytes) : Bytes := sha512 (0x04 :: pub)

/-- The operator root and the firmware keys, and the hashes of their points in the fuses and the boot ROM (Table 13.1). -/
def operatorKey : Bytes := (List.range 132).map Config.operatorKey
def firmwareKey (i : Nat) : Bytes := (List.range 132).map (Config.firmwareKey i)
def rootHash : Bytes := pointHash operatorKey
def romHash (i : Nat) : Bytes := pointHash (firmwareKey i)

/-- The commitment to a content key (R359, Table 13.3). -/
def keyCommit (ck : Bytes) : Bytes := (sha512 (ascii "vpz-commit" ++ ck)).take 32

end Sys2Proof.Machine
end

