-- ==== Sys2Proof/Machine/Plait.lean ====
section
/-! DEFINITION. Plaits, table frames and the code inside them (03_weft_format): the header, the check values, the three forms of a substream, the length-limited canonical code, the encoder's stored form, strand records, and directory keys. -/

namespace Sys2Proof.Machine

/-- A plait or table frame header (Table 3.1). -/
structure PHdr where
  check   : Nat
  model   : Nat
  layer   : Nat
  part    : Nat
  strand  : Nat
  format  : Nat
  segment : Nat
  owner   : Nat
  epoch   : Nat
  tslot   : Nat
  tgen    : Nat
  kind    : Nat
  hop     : Nat
  dir     : Bool
  step16  : Nat
  plen    : Nat
  raw     : Bool
  zero    : Bool
  last    : Bool
  repair  : Bool
deriving DecidableEq, Repr

/-- The header's fields, little-endian at the offsets of Table 3.1. -/
def hdrOf (p : Bytes) : PHdr :=
  let lp := leAt p 6 2
  let sf := leAt p 8 2
  let so := leAt p 10 2
  let tk := leAt p 14 1
  let hd := leAt p 15 1
  let fl := byteAt p 20
  { check := leAt p 0 4, model := leAt p 4 2, layer := lp % 4096, part := lp / 4096, strand := sf % 4096,
    format := (sf / 4096) % 8, segment := so % 1024, owner := so / 1024, epoch := leAt p 12 1, tslot := leAt p 13 1,
    tgen := tk % 4, kind := (tk / 4) % 4, hop := hd % 64, dir := (hd / 64) % 2 = 1, step16 := leAt p 16 2,
    plen := leAt p 18 2, raw := bit fl 0, zero := bit fl 1, last := bit fl 2, repair := bit fl 3 }

/-- The plait's index in its strand, p = 16 × SEGMENT + PART; a table frame counts as 0 (04_rim). -/
def PHdr.p (h : PHdr) : Nat := if h.kind = 1 then 0 else 16 * h.segment + h.part

/-- Bytes with one byte replaced. -/
def setByte (p : Bytes) (o : Nat) (b : Nat) : Bytes := p.set o (BitVec.ofNat 8 b)

/-- CHECK of a plait or frame: bytes 0 to 3 and 15 taken as zero (R64). -/
def checkOf (p : Bytes) : Nat := (crc32c (setByte ([0, 0, 0, 0] ++ p.drop 4) 15 0)).toNat

/-- Whether CHECK matches (R64). -/
def checkPasses (p : Bytes) : Bool := leAt p 0 4 == checkOf p

/-- The plait with CHECK written over its present bytes. -/
def withCheck (p : Bytes) : Bytes := toLe 4 (checkOf p) ++ p.drop 4

/-- The injected form (R65, R101): step, decode-table slot, generation, REPAIR, CHECK, then hop count and direction. -/
def stamped (p : Bytes) (step16 tslot tgen : Nat) (repair : Bool) (hop : Nat) (ccw : Bool) : Bytes :=
  let kind := (leAt p 14 1) / 4 * 4
  let fl := leAt p 20 1
  let p := setByte (setByte p 13 tslot) 14 (kind + tgen % 4)
  let p := setByte (setByte p 16 (step16 % 256)) 17 (step16 / 256 % 256)
  let p := setByte p 20 (if repair then fl ||| 8 else fl)
  setByte (withCheck p) 15 (hop % 64 + if ccw then 64 else 0)

/-- The hop count written into a header at a hop (R101). -/
def withHop (p : Bytes) (hop : Nat) : Bytes := setByte p 15 ((leAt p 15 1) / 64 * 64 + hop % 64)

/-- Whether two copies are of one plait as injected: they agree in all but the hop count and direction (R65, R101). -/
def samePlait (a b : Bytes) : Bool := setByte a 15 0 == setByte b 15 0

/-- Bits of an element of a weight format. -/
def fmtBits (fmt : Nat) : Nat := if fmt ≤ 1 then 4 else if fmt ≤ 3 then 6 else 8

/-- The raw size of a substream of 1,024 elements (R60). -/
def rawSize (fmt : Nat) : Nat := 128 * fmtBits fmt

/-- Elements packed as R25 gives: element j in bits [wj+w−1:wj] of the little-endian value. -/
def packElems (w : Nat) (l : List Nat) : Bytes :=
  toLe (w * l.length / 8) (l.reverse.foldl (fun n s => n * 2 ^ w + s % 2 ^ w) 0)

/-- `n` elements unpacked from bytes (R25). -/
def unpackElems (w n : Nat) (bs : Bytes) : List Nat :=
  let v := leNat bs
  (List.range n).map (fun j => (v >>> (w * j)) % 2 ^ w)

/-- The code lengths of a table with their symbols, by length and then symbol (R69). -/
def codeOrder (lens : List Nat) : List (Nat × Nat) :=
  (List.range 13).flatMap (fun l => if l = 0 then [] else
    (lens.zipIdx.filter (fun p => p.1 = l)).map (fun p => (p.2, l)))

/-- Canonical codes: (symbol, code, length) (R69). -/
def canonCodes (lens : List Nat) : List (Nat × Nat × Nat) :=
  let rec go : Nat → Nat → List (Nat × Nat) → List (Nat × Nat × Nat)
    | _, _, [] => []
    | code, prev, (s, l) :: r =>
      let c := code <<< (l - prev)
      (s, c, l) :: go (c + 1) l r
  go 0 0 (codeOrder lens)

/-- The symbol of a code, if it is one. -/
def codeSym (tbl : List (Nat × Nat × Nat)) (code len : Nat) : Option Nat :=
  (tbl.find? (fun t => t.2.1 = code && t.2.2 = len)).map (·.1)

/-- The bits of a byte, bit 7 first (R60). -/
def byteBits (b : Byte) : List Bool := (List.range 8).map (fun i => bit b (7 - i))

/-- `need` symbols from a stream of code bits; fewer than 8 zero bits may be left over (R60, R62). -/
def decodeBits (tbl : List (Nat × Nat × Nat)) : List Bool → Nat → Nat → Nat → Option (List Nat)
  | bits, _, _, 0 => if bits.length < 8 && bits.all (· == false) then some [] else none
  | [], _, _, _ + 1 => none
  | b :: bs, code, len, n + 1 =>
    let code := 2 * code + b2n b
    let len := len + 1
    match codeSym tbl code len with
    | some s => (decodeBits tbl bs 0 0 n).map (s :: ·)
    | none => if 12 ≤ len then none else decodeBits tbl bs code len (n + 1)

/-- The substream offset table: (END, RAW_S) (R58). -/
def offsets (p : Bytes) : List (Nat × Bool) :=
  (List.range 16).map (fun g => let v := leAt p (32 + 2 * g) 2; (v % 2 ^ 15, decide (2 ^ 15 ≤ v)))

/-- The bytes and the RAW_S bit of each substream. -/
def substreams (p : Bytes) : List (Bytes × Bool) :=
  let offs := offsets p
  (List.range 16).map (fun g =>
    let lo := if g = 0 then 0 else (offs.getD (g - 1) (0, false)).1
    let e := offs.getD g (0, false)
    ((p.drop (576 + lo)).take (e.1 - lo), e.2))

/-- One substream decoded to its 1,024 symbols (R60). -/
def decodeSub (fmt : Nat) (tbl : List (Nat × Nat × Nat)) (s : Bytes × Bool) : Option (List Nat) :=
  if s.2 then (if s.1.length = rawSize fmt then some (unpackElems (fmtBits fmt) 1024 s.1) else none)
  else if s.1.isEmpty then some (List.replicate 1024 0)
  else decodeBits tbl (s.1.flatMap byteBits) 0 0 1024

/-- Whether the END values never fall. -/
def nonDecreasing : List Nat → Bool
  | a :: b :: r => decide (a ≤ b) && nonDecreasing (b :: r)
  | _ => true

/-- A decoded plait: its format, index, scale rows and the symbols of its 16 substreams. -/
structure Decoded where
  format : Nat
  p      : Nat
  scales : Bytes
  subs   : List (List Nat)
deriving DecidableEq, Repr

/-- The symbol at K-row `r` (0 to 63) and column `c` (0 to 255): substream c/16, index 16r + c mod 16. -/
def Decoded.sym (d : Decoded) (r c : Nat) : Nat := (d.subs.getD (c / 16) []).getD (16 * r + c % 16) 0

/-- A plait decoded with a table's code lengths, none where it is malformed (R62). -/
def decodePlait (lens : List Nat) (p : Bytes) : Option Decoded :=
  let h := hdrOf p
  let offs := offsets p
  let subs := substreams p
  let tbl := canonCodes lens
  if h.kind = 0 && h.format ≤ 6 && nonDecreasing (offs.map (·.1))
      && h.plen = 544 + (offs.getD 15 (0, false)).1 && p.length = 32 + h.plen
      && h.raw == offs.all (·.2) && h.zero == subs.all (fun s => s.1.isEmpty && !s.2)
      && subs.all (fun s => !(s.1.isEmpty && s.2)) then
    (subs.mapM (decodeSub h.format tbl)).map (fun l => ⟨h.format, h.p, (p.drop 64).take 512, l⟩)
  else none

/-- The symbols of a format. -/
def symCount (fmt : Nat) : Nat := 2 ^ fmtBits fmt

/-- The Kraft sum of code lengths in units of 2^−12. -/
def kraft (lens : List Nat) : Nat := (lens.map (fun l => if l = 0 then 0 else 2 ^ (12 - l))).sum

/-- The code lengths a table frame holds, none where it is refused (R70). A frame of FORMAT 7 is taken as one of an 8-bit format with 256 symbols (DESIGN
CHOICE, log entry 97). -/
def frameTable (p : Bytes) : Option (List Nat) :=
  let h := hdrOf p
  let lens := (p.drop 32).map (·.toNat)
  let used := lens.filter (· != 0)
  if lens.length = h.plen && h.plen = symCount h.format && lens.all (· ≤ 12) && !used.isEmpty
      && (kraft lens = 4096 || used == [1]) then some lens else none

/-! The encoder -/

/-- An item of package-merge: its weight and the symbols it covers (R68). -/
abbrev PkItem := Nat × List Nat

/-- A package put after every item of no greater weight. -/
def insPkg (p : PkItem) : List PkItem → List PkItem
  | [] => [p]
  | x :: xs => if p.1 < x.1 then p :: x :: xs else x :: insPkg p xs

/-- Neighbouring items paired; an odd last item is dropped. -/
def pairItems : List PkItem → List PkItem
  | a :: b :: r => (a.1 + b.1, a.2 ++ b.2) :: pairItems r
  | _ => []

/-- The used symbols, by count and then symbol, ascending. -/
def singletons (hist : List Nat) : List PkItem :=
  (hist.zipIdx.filter (fun p => p.1 != 0)).foldl (fun l p => insPkg (p.1, [p.2]) l) []

/-- Code lengths by package-merge with a limit of 12 bits (R68). -/
def codeLengths (hist : List Nat) : List Nat :=
  let base := singletons hist
  let n := base.length
  if n = 0 then hist.map (fun _ => 0)
  else if n = 1 then hist.map (fun c => if c = 0 then 0 else 1)
  else
    let rec go : Nat → List PkItem → List PkItem
      | 0, cur => cur
      | k + 1, cur => go k ((pairItems cur).foldl (fun l p => insPkg p l) base)
    let syms := ((go 11 base).take (2 * n - 2)).flatMap (·.2)
    hist.zipIdx.map (fun p => syms.count p.2)

/-- The code bits of a code, most significant first. -/
def codeBits (code len : Nat) : List Bool := (List.range len).map (fun i => (code >>> (len - 1 - i)) % 2 = 1)

/-- Bits packed into bytes from bit 7 down, the last byte completed with 0 (R60). -/
def packBits (l : List Bool) : Bytes :=
  let rec go : Nat → List Bool → Bytes
    | 0, _ => []
    | k + 1, l => BitVec.ofNat 8 ((List.range 8).foldl (fun n i => 2 * n + b2n (l.getD i false)) 0) :: go k (l.drop 8)
  go ((l.length + 7) / 8) l

/-- One substream in the form R61 chooses. -/
def encodeSub (fmt : Nat) (tbl : List (Nat × Nat × Nat)) (syms : List Nat) : Bytes × Bool :=
  if syms.all (· == 0) then ([], false)
  else
    let coded := packBits (syms.flatMap (fun s => match tbl.find? (fun t => t.1 = s) with
      | some t => codeBits t.2.1 t.2.2
      | none => []))
    if 94 * rawSize fmt < 100 * coded.length then (packElems (fmtBits fmt) syms, true) else (coded, false)

/-- A raw block of a strand record: 512 B of scale rows, then 64 K-rows of 256 elements (R87). -/
def blockBytes (fmt : Nat) : Nat := 512 + 2048 * fmtBits fmt

/-- The symbols of a raw block, row by row. -/
def blockSyms (fmt : Nat) (blk : Bytes) : List Nat := unpackElems (fmtBits fmt) 16384 (blk.drop 512)

/-- The symbols of substream g in index order (element 16r + c of columns 16g to 16g + 15). -/
def subSyms (syms : List Nat) (g : Nat) : List Nat :=
  (List.range 1024).map (fun i => syms.getD (256 * (i / 16) + 16 * g + i % 16) 0)

/-- A raw block as the decoded form that a plait of it gives. -/
def blockDecoded (fmt p : Nat) (blk : Bytes) : Decoded :=
  let s := blockSyms fmt blk
  ⟨fmt, p, blk.take 512, (List.range 16).map (subSyms s)⟩

/-- A header's bytes in the stored form (Table 3.1, R65), CHECK not yet written. -/
def storedHdr (model layer part strand fmt segment owner epoch kind plen flags : Nat) : Bytes :=
  [0, 0, 0, 0] ++ toLe 2 model ++ toLe 2 (layer % 4096 + 4096 * part) ++ toLe 2 (strand % 4096 + 4096 * fmt)
    ++ toLe 2 (segment % 1024 + 1024 * owner) ++ toLe 1 epoch ++ [0] ++ toLe 1 (4 * kind) ++ [0] ++ [0, 0]
    ++ toLe 2 plen ++ toLe 1 flags ++ List.replicate 11 0

/-- The stored plait of a raw block (R57 to R61). -/
def encodePlait (model layer strand fmt owner epoch p : Nat) (last : Bool) (lens : List Nat) (blk : Bytes) : Bytes :=
  let tbl := canonCodes lens
  let syms := blockSyms fmt blk
  let subs := (List.range 16).map (fun g => encodeSub fmt tbl (subSyms syms g))
  let ends := (List.range 16).map (fun g => ((subs.take (g + 1)).map (fun s => s.1.length)).sum)
  let offs := (List.zipWith (fun e (s : Bytes × Bool) => toLe 2 (e + if s.2 then 2 ^ 15 else 0)) ends subs).flatten
  let area := (subs.map (·.1)).flatten
  let flags := b2n (subs.all (·.2)) + 2 * b2n (subs.all (fun s => s.1.isEmpty)) + 4 * b2n last
  withCheck (storedHdr model layer (p % 16) strand fmt (p / 16) owner epoch 0 (544 + area.length) flags
    ++ offs ++ blk.take 512 ++ area)

/-- The stored table frame of a coding group (R70). -/
def encodeFrame (model fmt owner epoch : Nat) (lens : List Nat) : Bytes :=
  withCheck (storedHdr model 0xFFF 0 0 fmt 0 owner epoch 1 (symCount fmt) 0 ++ lens.map (BitVec.ofNat 8))

/-- Zero bytes up to a multiple. -/
def padTo (n : Nat) (p : Bytes) : Bytes := p ++ List.replicate ((n - p.length % n) % n) 0

/-- A stored segment: its plaits, each starting on a 64 B boundary (03_weft_format, Weft store). -/
def segBytes : List Bytes → Bytes
  | [] => []
  | [p] => p
  | p :: r => padTo 64 p ++ segBytes r

/-- A segment check or table check: the CRC-32C of the stored CHECK words (R66). -/
def segCheck (ps : List Bytes) : Nat := (crc32c (ps.flatMap (·.take 4))).toNat

/-- The plaits of a stored segment, split by their lengths. -/
def splitSeg : Nat → Bytes → List Bytes
  | 0, _ => []
  | k + 1, bs =>
    let n := 32 + leAt bs 18 2
    bs.take n :: splitSeg k (bs.drop ((n + 63) / 64 * 64))

/-! Strand records (R87, R88) -/

/-- One strand record of a shard's plaintext: its layer, strand, format and blocks. -/
structure StrandRec where
  layer  : Nat
  strand : Nat
  format : Nat
  blocks : List Bytes
deriving DecidableEq, Repr

/-- Fixed-size pieces of a string of bytes. -/
def pieces (size : Nat) : Nat → Bytes → List Bytes
  | 0, _ => []
  | k + 1, bs => bs.take size :: pieces size k (bs.drop size)

/-- The records of a plaintext, none where R88 refuses the shard for N and owner k. -/
def parseShard (n k : Nat) (bs : Bytes) : Option (List StrandRec) :=
  let rec go : Nat → Option (Nat × Nat) → Bytes → Option (List StrandRec)
    | 0, _, bs => if bs.isEmpty then some [] else none
    | fuel + 1, prev, bs =>
      if bs.isEmpty then some []
      else
        let layer := leAt bs 0 2 % 4096
        let strand := leAt bs 2 2 % 4096
        let fmt := leAt bs 4 1 % 8
        let plaits := leAt bs 6 2
        let body := blockBytes fmt * plaits
        let after := match prev with
          | none => true
          | some (l, s) => decide (l < layer ∨ (l = layer ∧ s < strand))
        if bs.length < 32 || layer = 4095 || fmt = 7 || plaits = 0 || 16384 < plaits || n = 0 || strand % n ≠ k || !after || bs.length < 32 + body then none
        else
          (go fuel (some (layer, strand)) (bs.drop (32 + body))).map
            (⟨layer, strand, fmt, pieces (blockBytes fmt) plaits (bs.drop 32)⟩ :: ·)
  go (bs.length + 1) none bs

/-- The histogram of a coding group: every element of every substream that is not a zero run (R67). -/
def groupHist (fmt : Nat) (recs : List StrandRec) : List Nat :=
  let syms := (recs.filter (fun r => r.format = fmt)).flatMap (fun r => r.blocks.flatMap (fun b =>
    let s := blockSyms fmt b
    (List.range 16).flatMap (fun g => let l := subSyms s g; if l.all (· == 0) then [] else l)))
  (List.range (symCount fmt)).map (fun s => syms.count s)

/-- A directory key: MODEL | LAYER << 16 | STRAND << 28 | SEGMENT << 40 | EPOCH << 50 (R78). -/
def dirKey (model layer strand segment epoch : Nat) : Nat :=
  model % 2 ^ 16 + put layer 16 12 + put strand 28 12 + put segment 40 10 + put epoch 50 8

/-- h of a key: the CRC-32C of its 8 little-endian bytes (R79). -/
def keyHash (key : Nat) : Nat := (crc32c (toLe 8 key)).toNat

def setA (key : Nat) : Nat := keyHash key % 2 ^ 17
def setB (key : Nat) : Nat :=
  let a := setA key
  let b := keyHash key >>> 15
  if b = a then a ^^^ 1 else b

end Sys2Proof.Machine
end

