-- ==== Sys2Proof/Machine/State.lean ====
section
/-! DEFINITION. The state of the device as plain data: every register, memory, queue and table the spec names, the queue of waiting commands, and the state right after reset. -/

namespace Sys2Proof.Machine

/-- Why a step can stop with a fault. No command of this model raises one: the spec gives every command an effect. -/
inductive Fault where
  /-- An access to a device physical address that Table 17.1 does not list, where no rule gives an effect.
  Raised by nobody at present; safe. -/
  | unmapped (dpa : Nat)
deriving DecidableEq, Repr

/-- Why a step can be refused. -/
inductive Refusal where
  /-- The command has no meaning in the model yet. Raised by its arm of `exec` only; safe. -/
  | notModelled (mnemonic : String)
deriving DecidableEq, Repr

/-- A sparse memory or table: sorted pairs of key and value, unlisted keys at a default. -/
abbrev SMap (α : Type) := List (Nat × α)

/-! The matrix core -/

/-- What an engine is doing (Table 5.6). -/
inductive EState where
  | halted
  | running
  | runAhead
  | waitQueue
  | lull
  | waitArray
  | faulted
deriving DecidableEq, Repr

/-- An active loop (R223): first and last instruction of the body, iterations, the iteration in progress, its index register. -/
structure Loop where
  start  : Nat
  last   : Nat
  count  : Nat
  iter   : Nat
  idxReg : Nat
deriving DecidableEq, Repr

/-- One engine of a core (R215, R216, R223). `popped` is the handle that the waiting instruction has already popped (R220), `got` the bytes
that a waiting PUT has already read (R153). -/
structure Engine where
  pc     : BitVec 12 := 0
  st     : EState := .halted
  sregs  : Vector Word 16 := Vector.replicate 16 0
  loops  : List Loop := []
  popped : Option Word := none
  got    : Bytes := []
  lost   : List Nat := []
deriving DecidableEq, Repr

/-- A place of a local queue: reserved by a transfer in flight, or an entry with its deferred fault (R140, R145). -/
inductive QSlot where
  | reserved (id : Nat)
  | entry (handle : Word) (fault : Nat) (pc : BitVec 12)
deriving DecidableEq, Repr

/-- A push an execute instruction owes to a queue, in issue order; `handle` is there once the instruction is complete (R221). -/
structure Push where
  id     : Nat
  handle : Option Word
deriving DecidableEq, Repr

/-- A local queue (R139 to R141): direction, depth and limit less 1, its places, and the pushes owed to it. -/
structure LQueue where
  exeToFet : Bool := false
  limitM1  : BitVec 5 := 0
  depthM1  : BitVec 6 := 0
  slots    : List QSlot := []
  pushes   : List Push := []
deriving DecidableEq, Repr

/-- The state of an accumulator bank (Table 2.9). -/
inductive BState where
  | idle
  | accumulating
  | readout
  | held
deriving DecidableEq, Repr

/-- An accumulator bank (R31 to R37): `cols` is the word that initialisation gave each column, `words` the words changed
since, keyed 256 × row + column. -/
structure Bank where
  st     : BState := .idle
  anchor : BitVec 10 := 0
  count  : Nat := 0
  cols   : List (BitVec 128) := []
  words  : SMap (BitVec 128) := []
deriving DecidableEq, Repr

/-- A strand bound in the expander (R229). -/
structure Binding where
  layer    : Nat
  strand   : Nat
  sel      : Bool
  deadline : Nat
deriving DecidableEq, Repr

/-- A staging that TLOAD holds (R234). `taken` tells that an MMA uses it. -/
structure Staging where
  wfmt   : Nat
  blocks : Nat
  slot   : Nat
  tag    : Nat
  taken  : Bool
deriving DecidableEq, Repr

/-- A matrix instruction in the array queue with its operands resolved at issue (R232, R235). `fed` holds its decoded plaits,
`halves` what it has read of each block of 32 K-rows of a staging (R153), `done` the (block, pass) pairs added, `finished` the plaits marked
finished. -/
structure Job where
  id       : Nat
  diag     : Bool
  bank     : Fin 2
  clear    : Bool
  biasEn   : Bool
  biasSlot : Nat
  actSlot  : Nat
  ySlot    : Nat
  k0       : Nat
  k        : Nat
  m        : Nat
  anchor   : BitVec 10
  wfmt     : Nat
  afmt     : Nat
  staged   : Bool
  bind     : Option Binding
  popped   : Option Word
  push     : Option (Fin 8)
  pc       : BitVec 12
  started  : Bool
  fed      : List Decoded
  halves   : List (Nat × Bytes)
  done     : List (Nat × Nat)
  finished : List Nat
deriving DecidableEq, Repr

/-- A readout that ACC_READ queued (R236). `left` holds, once the outputs are converted, the pieces that are not written yet, none
of them across a slot's end (R153). -/
structure Readout where
  id      : Nat
  bank    : Fin 2
  row0    : Nat
  m       : Nat
  site    : Nat
  base    : Nat
  rkey    : Nat
  dst     : Nat
  fill    : Bool
  diag    : Bool
  alayout : Bool
  keep    : Bool
  sr      : Bool
  ofmt    : Nat
  push    : Option (Fin 8)
  pc      : BitVec 12
  started : Bool
  left    : Option (List (Nat × Bytes))
deriving DecidableEq, Repr

/-- Which vector instruction a vector job is. -/
inductive VKind where
  | vop
  | vred
  | vfun
deriving DecidableEq, Repr

/-- A vector instruction held by the vector unit (R237, R238): `got` the slots it has read so far, `left` the pieces of its results
that are not written yet (R153). -/
structure VecJob where
  id     : Nat
  kind   : VKind
  fn     : Nat
  itype  : Nat
  otype  : Nat
  n      : Nat
  sa     : Nat
  sb     : Nat
  sc     : Nat
  segs   : Nat
  stride : Nat
  dst    : Nat
  srcTag : Nat
  fill   : Bool
  bcastB : Bool
  bcastC : Bool
  push   : Option (Fin 8)
  got    : SMap Bytes
  left   : Option (List (Nat × Bytes))
deriving DecidableEq, Repr

/-- A stream descriptor's fields (Table 6.2). -/
structure Desc where
  src      : Nat
  dst      : Nat
  len      : Nat
  cnt1     : Nat
  cnt2     : Nat
  cnt3     : Nat
  elem     : Nat
  queue    : Nat
  qen      : Bool
  flag     : Nat
  flagEn   : Bool
  srcTag   : Nat
  dstTag   : Nat
  transp   : Bool
  idxEn    : Bool
  tagOnly  : Bool
  tagFull  : Bool
  sstr1    : Int
  sstr2    : Int
  sstr3    : Int
  dstr1    : Int
  dstr2    : Int
  dstr3    : Int
  deadline : Nat
  idx      : Nat
deriving DecidableEq, Repr

/-- An issued stream not yet complete (R157, R166), with its index descriptor for a gather. `due` is the pod time of its deadline,
`moved` the runs moved so far, `bytes` the bytes written, `code` the deferred fault found (Table 5.10). Of the run in progress, `buf`
holds the bytes read so far, `miss` the parts that cannot be read, `put` the number of pieces written (R153). `inds` holds the index
values read so far, `irun` the index runs read, `ibuf` the bytes of the index run in progress. `todo` holds the requests of host memory
not yet sent, `asked` the blocks of host memory asked for, `lost` the parts of host memory whose request failed, `ahead` the blocks of
HBM that run-ahead has read already (R144). -/
structure Stream where
  id     : Nat
  num    : Nat
  d      : Desc
  idx    : Option Desc
  pc     : BitVec 12
  due    : Option Word
  moved  : Nat := 0
  bytes  : Nat := 0
  code   : Nat := 0
  buf    : Bytes := []
  miss   : List (Nat × Nat) := []
  put    : Nat := 0
  inds   : List (Option Nat) := []
  irun   : Nat := 0
  ibuf   : Bytes := []
  imiss  : List (Nat × Nat) := []
  todo   : List (Bool × Nat × Nat) := []
  asked  : List (Nat × Nat) := []
  lost   : List (Nat × Nat) := []
  ahead  : List (Nat × Nat) := []
deriving DecidableEq, Repr

/-- A PUT whose packets are not all answered (R174, R177): and the code of a refusal so far. -/
structure PutJob where
  id    : Nat
  dst   : BitVec 16
  win   : Nat
  queue : Option (Fin 8)
  flag  : Option Nat
  slot  : Nat
  lines : Nat
  code  : Nat
  pc    : BitVec 12
  fault : Nat := 0
deriving DecidableEq, Repr

/-- A read started by run-ahead (R142): its address and length, and whether it went over VCL. -/
structure Prefetch where
  dpa  : Nat
  len  : Nat
  host : Bool
deriving DecidableEq, Repr

/-- A remote window (R171). -/
structure Window where
  opened : Bool := false
  base   : BitVec 14 := 0
  len    : BitVec 14 := 0
  gen    : BitVec 8 := 0
  count  : BitVec 32 := 0
deriving DecidableEq, Repr

/-- The operations an engine posts to the sync unit (R192, R195, R201). -/
inductive SyncOp where
  | set
  | clear
  | arrive
deriving DecidableEq, Repr

/-- A posted operation of the execute engine that waits for the work issued before it (R191, R230). -/
structure Posted where
  deps : List Nat
  op   : SyncOp
  idx  : Nat
deriving DecidableEq, Repr

/-- What a core runs: the running context's step, or a side task of a context (R328, R347). -/
structure CoreRun where
  ctx  : Nat
  task : Option Nat
deriving DecidableEq, Repr

/-- The array's row gating (R138). -/
inductive Gate where
  | gated
  | rampUp
  | enabled
  | rampDown
deriving DecidableEq, Repr

/-- A plait in an expander's input buffer (R71, R76): its bytes, whether it is the member's own, and the decode-table slot whose
reference it counts by itself (a landed plait's reference counts with its landing). -/
structure Buffered where
  bytes : Bytes
  own   : Bool
  ref   : Option Nat
deriving DecidableEq, Repr

/-- A matrix core (05_matrix_core, 06_scratchpad_streams, 08_instruction_set). `full` lists the full scratchpad slots,
`xbuf` the verified plaits in the expander's buffer, `grants` and `lastFree` count the stream engine's grants and name the stream without
deadline served last (R166), `leaving` names the context for which the side task on the core
is being pre-empted (R146, R348). -/
structure Core where
  fet       : Engine := {}
  exe       : Engine := {}
  imemF     : SMap Insn := []
  imemE     : SMap Insn := []
  desc      : SMap (BitVec 512) := []
  queues    : Vector LQueue 8 := Vector.replicate 8 {}
  banks     : Vector Bank 2 := Vector.replicate 2 {}
  arrayQ    : List Job := []
  gate      : Gate := .gated
  groups    : Nat := 0
  readouts  : List Readout := []
  vecQ      : List VecJob := []
  bindQ     : List Binding := []
  bind      : Option Binding := none
  staging   : Option Staging := none
  xbuf      : List Buffered := []
  streams   : List Stream := []
  puts      : List PutJob := []
  prefetch  : List Prefetch := []
  spad      : SMap Byte := []
  full      : SMap Bool := []
  wins      : Vector Window 16 := Vector.replicate 16 {}
  posted    : List Posted := []
  nextId    : Nat := 0
  grants    : Nat := 0
  lastFree  : Nat := 0
  run       : Option CoreRun := none
  leaving   : Option Nat := none
deriving DecidableEq, Repr

/-! The sync unit -/

/-- What a registered wait waits for (R194, R197, R201). -/
inductive WaitKind where
  | flagTake (idx : Nat)
  | flagTest (idx : Nat)
  | counter (idx : Nat) (thr : BitVec 32)
  | window (win : Fin 16) (thr : BitVec 32)
  | barrier (idx : Nat) (phase : Bool)
deriving DecidableEq, Repr

/-- A wait registered in the sync unit (R199). -/
structure SyncWait where
  core : Fin 16
  eng  : Eng
  kind : WaitKind
deriving DecidableEq, Repr

/-- A held count-gated signal (R204, R205). `met` tells that its gate was met while its context was not resident (R332), `kept` that it did not
fire on acceptance. -/
structure Held where
  core   : Fin 16
  win    : Fin 16
  gen    : BitVec 8
  gate   : BitVec 32
  arrive : Bool
  target : Nat
  ctx    : Nat
  src    : BitVec 16
  pseq   : BitVec 16
  tok    : BitVec 32
  met    : Bool
  kept   : Bool := false
deriving DecidableEq, Repr

/-- An entry of the parked table (R181). -/
structure Parked where
  core  : Fin 16
  win   : Fin 16
  ctx   : Nat
  gen   : BitVec 8
  count : BitVec 32
  len   : BitVec 14
  base  : BitVec 14
deriving DecidableEq, Repr

/-- A global handle queue (R170). -/
structure Ghq where
  owner   : Option Nat := none
  entries : List Word := []
deriving DecidableEq, Repr

/-- The sync unit (07_synchronisation). -/
structure Syn where
  objs     : SMap Word := []
  waits    : List SyncWait := []
  held     : List Held := []
  heldPeak : Nat := 0
  parked   : List Parked := []
  ghq      : Vector Ghq 64 := Vector.replicate 64 {}
deriving DecidableEq, Repr

/-! Contexts and partitions -/

/-- A loaded program image (Table 8.15). -/
structure Program where
  fet    : List Insn
  exe    : List Insn
  descs  : List (BitVec 512)
  cflags : Nat
  ctrs   : Nat
  bars   : List (BitVec 64)
  ghqs   : Nat
  qcfg   : List (BitVec 16)
deriving DecidableEq, Repr

/-- Where a unit of work stands. -/
inductive WState where
  | queued
  | armed
  | running
  | preempted
deriving DecidableEq, Repr

/-- A queued step or side task (R320, R347). -/
structure Work where
  cmd      : Nat
  task     : Bool
  step     : Word
  rows     : Nat
  pinned   : Nat
  client   : Nat
  argblk   : Word
  st       : WState
  core     : Nat
  late     : Bool
  lost     : Bool
  swapped  : Bool
  expired  : Bool
deriving DecidableEq, Repr

/-- Where a context's image is (Table 12.11). -/
inductive ImgAt where
  | none
  | hbm
  | host
deriving DecidableEq, Repr

/-- A saved context image (R333): its cores with their pipeline flags, the sync values and handle queues in binding order,
and the waits registered when it was saved. -/
structure Image where
  cores : List (Core × List Word) := []
  sync  : List Word := []
  ghqs  : List (List Word) := []
  waits : List SyncWait := []
deriving DecidableEq, Repr

/-- The state of a context id (Table 12.2); an id in state None is not listed. -/
inductive CState where
  | created
  | resident
  | running
  | faulted
deriving DecidableEq, Repr

/-- A context (12_contexts_scheduling). `imgBase` is the place of its image in the image area of HBM, 0 for none, `imgBuf` the host buffer that an
evicted image lies in. -/
structure Ctx where
  st        : CState
  part      : Fin 4
  be        : Bool
  model     : Nat
  epoch     : Nat
  oldEpoch  : Option Nat
  pinUntil  : Word
  pinFrom   : Option Word := none
  attr      : BitVec 6
  seed      : Word
  startStep : Word
  nextStep  : Word
  armed     : Option Word
  regions   : List (Nat × Nat)
  prog      : Option Program
  queue     : List Work
  imgAt     : ImgAt
  img       : Option Image
  imgBase   : Nat := 0
  imgBuf    : Nat := 0
  cslot     : Fin 8
  cflagBase : Nat
  ctrBase   : Nat
  barBase   : Nat
  ghqs      : List Nat
  interval  : BitVec 16
  since     : Word
  met       : Bool := false
  asks      : List (Nat × Word × Bool) := []
  partner   : Option Nat
  replay    : Option Word
  pwrCfg    : Option Word
  cause     : Nat
deriving DecidableEq, Repr

/-- A partition's mode (Table 12.9). -/
inductive PMode where
  | demand
  | cyclic
deriving DecidableEq, Repr

/-- A switch in progress (R335 to R338): none, waiting for a boundary verdict, running the outgoing context through step H,
or moving the images. -/
inductive Switch where
  | idle
  | awaiting (incoming : Option Nat) (reports : List (Nat × Word))
  | through (incoming : Option Nat) (h : Word)
  | moving (incoming : Option Nat)
deriving DecidableEq, Repr

/-- A SCHED_MODE that waits for its START (R341). -/
structure ModeChange where
  cyclic : Bool
  start  : Word
  cmd    : Nat
deriving DecidableEq, Repr

/-- A partition (R328); `cores` is 0 for one the shape lacks, `early` the switch reports (context, member, step) that came before the switch
began here, `held` whether another context's step was pre-empted when the schedule slot began (R344). -/
structure Part where
  first    : Nat := 0
  cores    : Nat := 0
  ringMib  : Nat := 0
  running  : Option Nat := none
  preempt  : Option Nat := none
  outgoing : Option Nat := none
  mode     : PMode := .demand
  change   : Option ModeChange := none
  switch   : Switch := .idle
  next     : Option Nat := none
  table    : Option SchedTable := none
  period0  : Word := 0
  periods  : Nat := 0
  slot     : Nat := 0
  slotAt   : Word := 0
  held     : Bool := false
  swapAt   : Option (Nat × Option Nat × Word) := none
  swapReps : List (Nat × List (BitVec 16) × List (BitVec 16)) := []
  early    : List (Nat × Nat × Word) := []
deriving DecidableEq, Repr

/-! The weft -/

/-- A decode-table slot of a partition (Table 3.3). -/
structure TSlot where
  gen    : BitVec 2 := 0
  loaded : Bool := false
  refs   : Nat := 0
  format : Nat := 0
  lens   : List Nat := []
deriving DecidableEq, Repr

/-- A directory entry in one of its key's two sets, with its place there (R78, R79). -/
structure DirEntry where
  set      : Nat
  way      : Nat
  key      : Nat
  countM1  : Nat
  format   : Nat
  slower   : Bool
  length   : Nat
  location : Nat
  check    : Nat
  salt     : Nat
deriving DecidableEq, Repr

/-- A shard held or being ingested (R319, R330): its model, weight epoch, rim size, owner index and retained buffer. -/
structure Shard where
  model  : Nat
  epoch  : Nat
  n      : Nat
  k      : Nat
  retain : Option (Nat × Nat)
  slower : Bool
deriving DecidableEq, Repr

/-- An enrolled model (R360). -/
structure Model where
  id      : Nat
  slot    : Nat
  layers  : Nat
  formats : BitVec 8
  commit  : Bytes
deriving DecidableEq, Repr

/-- An operation of the encoder (Table 3.14). -/
inductive EncPhase where
  | pass1
  | pass2
  | copyOut
  | copyIn
deriving DecidableEq, Repr

/-- The encoder's operation in progress: its phase, command, arguments, what the manifest gives for the shard (Table 13.4) and, in pass 2, the
records that pass 1 staged. -/
structure EncOp where
  phase   : EncPhase
  cmd     : Nat
  opcode  : BitVec 8
  model   : Nat
  epoch   : Nat
  n       : Nat
  k       : Nat
  retain  : Option (Nat × Nat)
  ctLen   : Nat
  checks  : List Nat
  nonce   : Bytes
  digest  : Bytes
  records : List StrandRec
deriving DecidableEq, Repr

/-- The encoder, directory and shards (03_weft_format). `ops` holds the operations in the order of their acceptance, the first in progress. -/
structure Enc where
  dir    : List DirEntry := []
  cache  : List (Nat × Nat) := []
  salt   : BitVec 32 := 0
  ops    : List EncOp := []
  shards : List Shard := []
  models : List Model := []
deriving DecidableEq, Repr

/-! The rim -/

/-- The state of a partition's rim (Table 4.8). -/
inductive RimPhase where
  | none
  | forming
  | formed
  | dissolving
deriving DecidableEq, Repr

/-- A landed plait (R103, R106): its bytes, the copies still to forward (the outbound direction), whether it is kept, whether it counts a
reference, whether it lies in the ring, whether this member's cores and those of a seat taken still need it (R390),
and its place in the ring. -/
structure Landed where
  bytes   : Bytes
  forward : Bool
  ccw     : Bool
  kept    : Bool
  refs    : Bool
  inRing  : Bool
  mine    : Bool := true
  seat    : Bool := false
  place   : Nat := 0
deriving DecidableEq, Repr

/-- The number of plaits that one owner has in one layer of a model's weight epoch; frames count in layer 0xFFF (R107). -/
structure PairCount where
  model : Nat
  epoch : Nat
  owner : Nat
  layer : Nat
  count : Nat
deriving DecidableEq, Repr

/-- The identity of a plait in a step (R107), as this member has it or as a seat taken has it (R390). A table frame, whose strand is 0, is told apart
by its format (log entry 12). -/
structure Ident where
  step   : Word
  model  : Nat
  owner  : Nat
  layer  : Nat
  strand : Nat
  p      : Nat
  epoch  : Nat
  seat   : Bool := false
deriving DecidableEq, Repr

/-- A re-request sent for a pair in a direction, and when (R113). -/
structure Asked where
  owner : Nat
  layer : Nat
  ccw   : Bool
  at_   : Word
deriving DecidableEq, Repr

/-- A run in force (R73): its context and weight epoch, the half of the decode-table slots, first generations by slot offset, whether
the member's run-start report was sent and whether the run map is in place, and the run's first step. -/
structure Run where
  ctx    : Nat
  epoch  : Nat
  half   : Bool
  gens   : List (BitVec 2)
  sent   : Bool
  ready  : Bool
  first  : Word
deriving DecidableEq, Repr

/-- A pending weight-epoch flip (R117 to R120). -/
structure Flip where
  ctx     : Nat
  epoch   : Nat
  step    : Word
  pin     : Nat
  cmd     : Nat
  verdict : Option Bool
  reports : List Nat
deriving DecidableEq, Repr

/-- A repair being injected (R115): its layer, step, direction, the owner it is injected for, the next plait to send as 16 × segment + part, and
whether it is marked and counted as a repair. -/
structure Repair where
  layer : Nat
  step  : Word
  ccw   : Bool
  owner : Nat
  next  : Nat
  flag  : Bool
deriving DecidableEq, Repr

/-- A member's report of its part of the combined table of a model and weight epoch (R458): number and stored bytes of its plaits by
layer, frames under layer 0xFFF. -/
structure TableRep where
  model  : Nat
  epoch  : Nat
  member : Nat
  layers : List (Nat × Nat × Nat)
deriving DecidableEq, Repr

/-- A rim engine's state for one partition (04_rim). `tables` holds the bytes by layer that the other owners have for a model and weight epoch,
`tabReps` and `tabAsked` the reports and requests that the lead member has (R458), `runReps` the members whose run-start reports it has by context,
weight epoch and first step, `injAt` the context and step that `injLayer` is of, `waiting` the commands that wait for a table, with whether a saved image can be read, `early` the members' acceptances (context, weight epoch, flip
step, member) of a flip that this member has not accepted, `lastCw` and
`lastCcw` the link each port used last, `slowSeg` a segment read from the slower tier, by its key. -/
structure Rim where
  phase    : RimPhase := .none
  n        : Nat := 0
  own      : Nat := 0
  lead     : Nat := 0
  members  : List (BitVec 16) := []
  cw       : BitVec 18 := 0
  ccw      : BitVec 18 := 0
  deadline : Nat := 0
  gap      : Nat := 0
  digest   : BitVec 32 := 0
  heard    : BitVec 18 := 0
  cmd      : Option Nat := none
  landed   : List Landed := []
  ringUsed : Nat := 0
  ringPeak : Nat := 0
  counts   : List PairCount := []
  tables   : List ((Nat × Nat) × List (Nat × Nat)) := []
  tabReps  : List TableRep := []
  tabAsked : List (Nat × Nat × Nat) := []
  kept     : List Ident := []
  run      : Option Run := none
  prev     : Option Run := none
  heldRun  : Option Run := none
  injected : List Ident := []
  runReps  : List ((Nat × Nat × Word) × Nat) := []
  consLayer : Nat := 0
  injLayer : Nat := 0
  injAt    : Option (Nat × Word) := none
  step     : Word := 0
  decoded  : List Ident := []
  timers   : List (Nat × Nat) := []
  gapSent  : List Asked := []
  repairs  : List Repair := []
  reread   : List Nat := []
  mended   : List Nat := []
  failed   : List Nat := []
  fixing   : List Nat := []
  flips    : List Flip := []
  pins     : List (Nat × Word × Nat × Nat) := []
  duals    : List (Nat × Word × Bool) := []
  paused   : Bool := false
  waiting  : List (Nat × Bool) := []
  early    : List (Nat × Nat × Word × Nat) := []
  lastCw   : Nat := 17
  lastCcw  : Nat := 17
  slowSeg  : Option (Nat × Bytes) := none
deriving DecidableEq, Repr

/-! The command interface -/

/-- The state of a ring pair (Table 11.11). -/
inductive RingSt where
  | disabled
  | active
  | draining
  | error
deriving DecidableEq, Repr

/-- A ring pair (R299 to R304, R313). `unsent` counts the CQ entries visible since the ring's last interrupt, `stalled` is the context whose full
queue holds a step or task at the ring's head (R311). -/
structure Ring where
  st        : RingSt := .disabled
  cfgStatus : BitVec 8 := 0
  err       : BitVec 4 := 0
  sqHead    : Nat := 0
  sqTail    : Nat := 0
  cqHead    : Nat := 0
  cqTail    : Nat := 0
  phase     : Bool := true
  unsent    : Nat := 0
  stalled   : Option Nat := none
deriving DecidableEq, Repr

/-- A taken command that has not completed (R302, R310), in acceptance order. `id` is the device's own number for it: CMD_ID is never
interpreted (R305); `part` is the first byte of its buffer. -/
structure Taken where
  ring   : Fin 64
  cmdId  : BitVec 16
  opcode : BitVec 8
  fence  : Bool
  quiet  : Bool
  begun  : Bool
  buf    : Word
  bufLen : BitVec 32
  args   : BitVec 384
  part   : Nat
  id     : Nat
deriving DecidableEq, Repr

/-! The fabric -/

/-- Who sent a packet, and whom its failure is reported to (R264). -/
inductive Agent where
  | put (core : Fin 16) (id : Nat)
  | rsignal (core : Fin 16) (win : Nat) (flag : Option Nat)
  | sync
  | rim (part : Fin 4)
  | obinha
deriving DecidableEq, Repr

/-- A packet awaiting its ACK (R264): its header and payload, how often it was sent and when last (0 while it waits to be injected), its sender and its context,
whether the last answer was RETRY_LATER, and the place of its retained copy in the retransmit region. -/
structure OutPkt where
  pkt    : Packet
  sends  : Nat
  lastAt : Word
  agent  : Agent
  ctx    : Option Nat
  retry  : Bool
  slot   : Nat
deriving DecidableEq, Repr

/-- An RSIGNAL whose final answer has not come (R207). -/
structure RsigOut where
  core : Fin 16
  ctx  : Nat
  dst  : BitVec 16
  pseq : BitVec 16
  win  : Nat
  flag : Option Nat
deriving DecidableEq, Repr

/-- A reassembly entry of one source (R265): LOW, the answers given by sequence number, and when its last packet came. -/
structure Reasm where
  src    : BitVec 16
  low    : BitVec 16
  done   : List (BitVec 16 × Nat)
  lastAt : Word
deriving DecidableEq, Repr

/-- An entry of a bank's port map (R258). -/
structure PortEnt where
  links : BitVec 18 := 0
  dir   : BitVec 3 := 0
  valid : Bool := false
deriving DecidableEq, Repr

/-- A routing bank (R258). `table` lists the endpoint-table entries that are not 0. -/
structure RBank where
  live     : Bool := false
  used     : Bool := false
  table    : SMap (BitVec 16) := []
  ports    : List PortEnt := []
  ownEp    : BitVec 16 := 0xFFFF
  ownCoord : BitVec 16 := 0
  extX     : Nat := 1
  extY     : Nat := 1
  extZ     : Nat := 1
  pktMaxM1 : BitVec 6 := 15
  prio     : BitVec 8 := 255
deriving DecidableEq, Repr

/-- A packet in the router (R260 to R263): where it came from, and the KIND whose input buffer holds it (R262). -/
structure Routed where
  pkt   : Packet
  input : Option (Fin 20)
  kind  : Nat
deriving DecidableEq, Repr

/-- What the device has sent: the model's own record. -/
inductive OutMsg where
  /-- A packet given to an output link, or delivered to this device itself. -/
  | packet (p : Packet)
  /-- A completion entry written at an index of a ring's CQ. -/
  | cq (ring : Fin 64) (index : Nat) (entry : Bytes)
  /-- A message interrupt: its vector, target address and data. -/
  | msi (vector : Nat) (addr : Word) (data : BitVec 32)
  /-- A rim frame or plait on a link. -/
  | rim (link : Nat) (bytes : Bytes)
  /-- A control flit or control message on a link, by name. -/
  | ctl (link : Nat) (name : String) (args : List Nat)
  /-- A flit of a link, as it leaves (Table 9.3). -/
  | flit (link : Nat) (f : Flit)
  /-- A VCL request, response or control message, by name. -/
  | vcl (name : String) (args : List Nat) (bytes : Bytes)
  /-- A VCL flit, as it leaves (Table 10.1). -/
  | vclFlit (f : VclFlit)
  /-- A message between Obinha instances, to an endpoint. -/
  | obinha (dst : BitVec 16) (m : RimMsg)
  /-- A seat-hold notice to a member: rim digest, partition there unknown, and the seat's index (R389). -/
  | seatHold (dst : BitVec 16) (digest : BitVec 32) (index : Nat)
  /-- An answer on the management port. -/
  | mgt (status : Nat) (bytes : Bytes)
  /-- The identity that the management port shows while it is given an address: the provisioned ID, or the UDID (R419). -/
  | identity (smbus : Bool) (bytes : Bytes)
  /-- A signal of a pending event: an in-band interrupt, or SMB_ALERT_N driven low (R419). -/
  | alert (smbus : Bool)
  /-- A PLDM event of state sensor 40: the receiver, the state before and the state now (R420). -/
  | event (receiver : BitVec 8) (before now : Nat)
deriving DecidableEq, Repr


/-- A pending routing flip (R259). -/
structure FabFlip where
  bank  : Fin 2
  at_   : Word
  cmd   : Nat
deriving DecidableEq, Repr

/-- The fabric's delivery and routing state (09_fabric). `inject` holds the packets this device has sent that the router has
not taken, `queue` those that wait in the router, `waiting` those held back by the limits of R264; `busyAt` is when a packet with a bank's bit last
left this device's buffers or its wait for an ACK (R259), `lastPort` and `lastLink` the port taken last and the link taken last on each port (R261). -/
structure Fab where
  banks    : Vector RBank 2 := (Vector.replicate 2 {}).set 0
    { live := true, used := true, ports := [⟨0x04000, 0, true⟩, ⟨0x08000, 1, true⟩, ⟨0x10000, 2, true⟩, ⟨0x20000, 3, true⟩] }
  inj      : Fin 2 := 0
  flip     : Option FabFlip := none
  flippedAt : Word := 0
  pseq     : SMap (BitVec 16) := []
  outst    : List OutPkt := []
  waiting  : List (Packet × Agent × Option Nat) := []
  rsigs    : List RsigOut := []
  reasm    : List Reasm := []
  inject   : List Packet := []
  queue    : List Routed := []
  busyAt   : Vector Word 2 := Vector.replicate 2 0
  lastPort : Nat := 7
  lastLink : SMap Nat := []
deriving DecidableEq, Repr

/-! The host link -/

/-- Whom a device request over VCL belongs to (R294): `fw` is the firmware load, `bulk` an engine whose transfer one command stands for, with its rank in
R293's order (0 Obinha's buffers, 1 the slower tier, 2 images, 3 ingest). -/
inductive ReqWho where
  | cqEntry (ring : Fin 64)
  | stream (core : Fin 16) (id : Nat)
  | prefetch (core : Fin 16)
  | snapshot
  | snapHead
  | cmd (id : Nat)
  | fw
  | bulk (rank : Nat)
deriving DecidableEq, Repr

/-- A device request awaiting its answer (R283, R294): a read, a read for ownership or a write; `sent` tells that it has left, `got` lists
the lines that have come. -/
structure VclReq where
  tag     : BitVec 12
  write   : Bool
  own     : Bool
  who     : ReqWho
  dpa     : Nat
  len     : Nat
  retried : Bool
  sent    : Bool
  got     : List Nat
deriving DecidableEq, Repr

/-- A message of the transaction layer (Tables 10.3 and 10.4): its class of credits (R280: 0 requests, 1 responses, 2 snoops with MMIO), what
it is, its data, and the slots it takes in flits. -/
structure VclMsg where
  cls   : Fin 3
  name  : String
  args  : List Nat
  bytes : Bytes
  slots : Bytes
deriving DecidableEq, Repr

/-- A request of Obinha's that has no tag yet. -/
structure ObReq where
  who   : ReqWho
  write : Bool
  own   : Bool
  dpa   : Nat
  len   : Nat
deriving DecidableEq, Repr

/-- The state of VCL (Table 10.8). -/
inductive VclSt where
  | down
  | train
  | config
  | up
deriving DecidableEq, Repr

/-- The host link (10_host_link): its replay buffer of flits not covered by an ACK, the resends in a row, whether a RETRY is out; `credits`
are the host's buffers that messages may still use and `owed` the device's own to be returned, by class (R280); `outQ` holds the messages that
leave in the next flits, `rspQ` the answers that wait for credits, `obReqs` Obinha's requests that wait for a tag, `bulkQ` those of the other engines,
`sinceIngest` the issues since ingest's last while it waits (R293), `retryDue` whether a RETRY waits for room (R279), `owned` the host lines the
device owns (R284). -/
structure Vcl where
  st       : VclSt := .down
  x8       : Bool := false
  half     : Bool := false
  retrains : BitVec 8 := 0
  txSeq    : BitVec 10 := 0
  rxSeq    : BitVec 10 := 0
  replay   : List VclFlit := []
  resends  : Nat := 0
  badRun   : Bool := false
  credits  : Vector Nat 3 := Vector.replicate 3 0
  owed     : Vector Nat 3 := Vector.replicate 3 0
  outQ     : List VclMsg := []
  rspQ     : List VclMsg := []
  nextTag  : BitVec 12 := 0
  reqs     : List VclReq := []
  obReqs   : List ObReq := []
  bulkQ    : List ObReq := []
  sinceIngest : Nat := 0
  retryDue : Bool := false
  owned    : List (Nat × Bytes) := []
  apt      : Vector Word 16 := Vector.replicate 16 0
  boot     : Bool := true
deriving DecidableEq, Repr

/-! Links -/

/-- The states of a link (Table 9.2, Table 9.13). -/
inductive LinkSt where
  | down
  | train
  | hello
  | keyx
  | up
  | disabled
deriving DecidableEq, Repr

/-- The keys of a direction of a link (R251 to R253): key and salt, the rekey index, the flit count at which the key began, and the switch count with
the next key and salt of a rekey under way. -/
structure DirKeys where
  key   : Bytes := []
  salt  : Bytes := []
  index : Nat := 0
  since : Nat := 0
  next  : Option (Nat × Bytes × Bytes) := none
deriving DecidableEq, Repr

/-- An OFFER of the encryption handshake (R252): ephemeral public key, random value, certificate chain. -/
structure Offer where
  pub    : Bytes
  random : Bytes
  chain  : Bytes
deriving DecidableEq, Repr

/-- Bytes of a frame or packet that wait on a link: whether it has begun, and whether it is a multicast copy. -/
structure Piece where
  begun : Bool
  mcast : Bool
  bytes : Bytes
deriving DecidableEq, Repr

/-- A link (R245 to R253, R268). `returned` tells that it has returned to DOWN since the
reset (R436), `partner` is the last HELLO and `helloAt` when it came; `ephKey` and `own` are the ephemeral private key and the OFFER of
this device, `peer` the partner's OFFER once it has passed, `secret` the link secret, `lower` tells that this device has the lower serial;
`txFlits` and `rxFlits` count the numbered flits since the handshake, `replay` holds the flits that no ACK covers with the multicast copies that end in
each, `ctlQ` the control messages that wait, a RETRY marked, a REKEY without bytes, `shown` the FC and ACK last sent, `ctlGap` the flits since the last control flit, `txQ` the frames and packets that wait by
KIND, `fcIn` the KINDs the partner shows ON, `fcOut` those this device shows ON, `rxStream` the decrypted bytes received by KIND that nothing has
taken yet. -/
structure Link where
  st       : LinkSt := .down
  returned : Bool := false
  retrains : BitVec 8 := 0
  partner  : Option HelloMsg := none
  helloAt  : Word := 0
  ephKey   : Bytes := []
  own      : Option Offer := none
  peer     : Option Offer := none
  secret   : Bytes := []
  lower    : Bool := false
  tx       : DirKeys := {}
  rx       : DirKeys := {}
  txSeq    : BitVec 9 := 0
  rxSeq    : BitVec 9 := 0
  replay   : List (Flit × Nat) := []
  ctlQ     : List (Bool × Option Bytes) := []
  shown    : Option (BitVec 5 × BitVec 9) := none
  ctlGap   : Nat := 2047
  lastKind : Nat := 7
  txQ      : SMap (List Piece) := []
  resends  : Nat := 0
  badRun   : Bool := false
  tagFails : List Word := []
  txFlits  : Nat := 0
  rxFlits  : Nat := 0
  fcIn     : BitVec 5 := 0
  fcOut    : BitVec 5 := 0
  rxStream : SMap Bytes := []
deriving DecidableEq, Repr

/-- The time tree (R269, R270): the advertisement last heard on each link, whether this device is root, its parent, the lock
and its counts of consecutive exchanges, whether the one step before lock was made or lock has been reached, the last offset and delay, and the part of a
nanosecond that the rate adjustment has gathered, in parts per 10^9. -/
structure TimeTree where
  adverts  : SMap (Advert × Word) := []
  root     : Bool := false
  parent   : Option (Fin 20) := none
  rootSerial : Word := 0
  prio     : BitVec 8 := 255
  depth    : Nat := 0xFF
  locked   : Bool := false
  stepped  : Bool := false
  good     : Nat := 0
  bad      : Nat := 0
  rate     : Int := 0
  offset   : Int := 0
  delay    : Int := 0
  frac     : Int := 0
deriving DecidableEq, Repr

/-! Security -/

/-- What manufacture fused (R2 to R4, R365, R372): log entry 5. -/
structure Fuses where
  binL     : Bool := false
  stepping : BitVec 16 := 0xB0
  serial   : Word := 1
  minSvn   : BitVec 8 := 0
  revoked  : BitVec 4 := 0
  debug    : Bool := false
  rootSet  : Bool := true
deriving DecidableEq, Repr

/-- The security unit (13_security_loading): publisher keys by slot, content keys by model, this boot's alias key with its certificate and storage key, empty
where there is none, whether the boot ROM is in recovery (R371), the digest and key number of the firmware image as loaded, and what each of the two SPDM responders was asked (R366). -/
structure Sec where
  boot       : Nat := 0
  recovery   : Bool := false
  result     : BitVec 8 := 0xFF
  svn        : BitVec 8 := 0
  version    : BitVec 32 := 0
  chainBad   : Bool := false
  publishers : SMap Bytes := []
  contentKeys : SMap Bytes := []
  aliasKey   : Bytes := []
  aliasCert  : Bytes := []
  storageKey : Bytes := []
  fwDigest   : Bytes := []
  fwKey      : Nat := 0
  spdmVcl    : List Bytes := []
  spdmMgt    : List Bytes := []
deriving DecidableEq, Repr

/-- A firmware load under way (R369): from the management port or the host, its length, the bytes the management controller has
sent in order, whether every byte is in place, and whether a read of the source failed. -/
structure FwLoad where
  mgt   : Bool
  len   : Nat
  bytes : Bytes
  ended : Bool
  failed : Bool := false
deriving DecidableEq, Repr

/-! Housekeeping, management, power -/

/-- The ring that TELEMETRY_CFG set (R411), whether a copy into it is under way, and the snapshots that wait for it. -/
structure BaroRing where
  base    : Nat
  entries : Nat
  period  : Nat
  since   : Nat
  written : Nat
  busy    : Bool := false
  waiting : List Bytes := []
deriving DecidableEq, Repr

/-- The totals of R413, kept across main resets. -/
structure Totals where
  powerOnS : Nat := 0
  cycles   : Nat := 0
  linkErrs : Nat := 0
  fwLoads  : Nat := 0
  dFaults  : Nat := 0
  peak     : Int := 0
deriving DecidableEq, Repr

/-- An almanac write under way (R415): its reason, record and position, the failures in a row, and the positions it has tried before. -/
structure AlmWrite where
  reason : Nat
  record : Bytes
  pos    : Nat
  fails  : Nat
  tried  : List Nat := []
deriving DecidableEq, Repr

/-- The housekeeping island (15_housekeeping_management): throttle and thermal control, barometer, almanac, ageing, calendar.
Readings are in tenths of a degree, `hotC` and the peak in degrees; `hottest` is the sensor with the highest reading; `newRing` is a TELEMETRY_CFG under way
with its ring, none where copying stops, `overCap`, `riseWait` and `calm` count samples; `sumW`, `maxT` and `nW` gather the samples since the last
snapshot, `sumT` and `nT` those since the last ageing tick; `age` is in units of 2^-32 s; `almHot` tells that the 10 s after an almanac write have not
ended, `almNow` that a fall of PWR_OK waits for the write under way. -/
structure Hkp where
  level    : Nat := 0
  overCap  : Nat := 0
  riseWait : Nat := 0
  calm     : Nat := 0
  therm    : Bool := false
  temps    : List Int := []
  hottest  : Nat := 0
  hotC     : Int := 0
  powerW   : Nat := 0
  railBad  : BitVec 11 := 0
  wasHot   : Bool := false
  snaps    : List Bytes := []
  seq      : Nat := 0
  latched  : List Nat := []
  ring     : Option BaroRing := none
  newRing  : Option (Nat × Option BaroRing) := none
  sumW     : Nat := 0
  nW       : Nat := 0
  maxT     : List Int := []
  sumT     : List Int := []
  nT       : Nat := 0
  alm      : SMap Bytes := []
  almPos   : Nat := 511
  almSeq   : Nat := 0
  almUtc   : Nat := 0
  almHot   : Bool := false
  almHeld  : Option Nat := none
  almNow   : Bool := false
  almWrite : Option AlmWrite := none
  totals   : Totals := {}
  age      : Vector Nat 28 := Vector.replicate 28 0
  cal      : Option (Word × Word) := none
  scrub    : Nat := 0
deriving DecidableEq, Repr

/-- The management port (R419, R420): mode, address, MCTP endpoint id, whether it signals a pending event, the endpoint id that SetEventReceiver named,
and the state that state sensor 40 last showed (Table 15.6). -/
structure Mgt where
  smbus     : Bool := false
  addressed : Bool := false
  addr      : BitVec 7 := 0
  eid       : BitVec 8 := 0
  alert     : Bool := false
  receiver  : Option (BitVec 8) := none
  seen      : Nat := 6
deriving DecidableEq, Repr

/-- Why a main reset happens (PWR_RESET_CAUSE.LAST). -/
inductive ResetCause where
  | standby
  | pwrOk
  | rstN
  | pwrReset
deriving DecidableEq, Repr

/-- Power, reset and bring-up (16_bringup_package): the pins' levels (log entry 7; `twinN` is TWIN_PRESENT_N, `twinAbsent` its sample at the last
release, `tap` tells that the TAP controller is in reset), the reset being entered, whether a main reset is
held, whether a PWR_RESET write asked for the one being entered, the bring-up stage (0 while held) and when the release was. -/
structure Pwr where
  stby      : Bool := true
  pwrOk     : Bool := false
  rstN      : Bool := true
  trstN     : Bool := false
  tap       : Bool := true
  twinN     : Bool := false
  twinAbsent : Bool := false
  refclk    : Bool := false
  stbyHeld  : Bool := true
  stbyClock : Bool := false
  entering  : Option (ResetCause × Word) := none
  asked     : Bool := false
  held      : Bool := true
  stage     : Nat := 0
  vclDone   : Bool := false
  linksDone : Bool := false
  released  : Word := 0
  timePending : Bool := false
deriving DecidableEq, Repr

/-! Twins -/

/-- TWN_STATUS.STATE (Table 14.9). -/
inductive TwinSt where
  | unpaired
  | pairing
  | paired
  | departed
  | handedOver
deriving DecidableEq, Repr

/-- A checkpoint committed or held for the twin (R385 to R387). -/
structure Ckpt where
  ctx  : Nat
  step : Word
  held : Bool
  sync : List Word
  ghqs : List (List Word)
deriving DecidableEq, Repr

/-- What the device knows of its twin's rim (R383). -/
structure TwinRim where
  part    : Fin 4
  members : List (BitVec 16)
  own     : Nat
  cw      : BitVec 18
  ccw     : BitVec 18
  digest  : BitVec 32
deriving DecidableEq, Repr

/-- A segment or table frame of the twin in the slower tier (R383): its place and length, the number of its plaits and its salt. -/
structure Shadow where
  place : Nat
  len   : Nat
  count : Nat
  salt  : Nat
deriving DecidableEq, Repr

/-- A checkpoint being sent (R385, R387): ranges of pages marked, each a first page and a count; the place in the outgoing area of each page copied
before its first write, and whether one of them could not be read; the values of the sync objects and the handle queues at its step's end. -/
structure Outgoing where
  marked : List (Nat × Nat)
  copies : SMap Nat := []
  bad    : Bool := false
  sync   : List Word := []
  ghqs   : List (List Word) := []
deriving DecidableEq, Repr

/-- The twin port (14_reliability_twin). By context: `dirty` the pages of 4 KiB written since its last checkpoint, `outgoing` the one being sent,
`firsts` the contexts whose first checkpoint is due, `whole` those whose next one contains every page. `hold` lists the partitions that hold a seat with the seat's index and the end of the hold,
`notices` the seat holds that others announced, `seated` the seats taken, `halved` the
partitions whose cores are divided between the two seats (R390, R391). -/
structure Twin where
  st       : TwinSt := .unpaired
  partner  : Word := 0
  cmd      : Option Nat := none
  deadline : Word := 0
  target   : Word := 0
  request  : Option (PairRequest × Word) := none
  lastHb   : Word := 0
  rims     : List TwinRim := []
  ctxs     : SMap CtxArgs := []
  progs    : SMap Bytes := []
  shadow   : SMap Shadow := []
  ckpts    : List Ckpt := []
  sending  : List (Nat × Word) := []
  deferred : List Nat := []
  firsts   : List Nat := []
  whole    : List Nat := []
  dirty    : SMap (List Nat) := []
  outgoing : SMap Outgoing := []
  hold     : List (Fin 4 × Nat × Word) := []
  notices  : List (Fin 4 × Nat × Word) := []
  seated   : List (Fin 4 × Nat) := []
  halved   : List (Fin 4) := []
  detach   : Option (Nat × Nat) := none
deriving DecidableEq, Repr

/-! Link adaptation and the gust limiter -/

/-- The state of background work on links (R267, R403): the gust limiter's level, quiet time and injection opportunities, and each link's equaliser
setting and the change under evaluation. -/
structure Tune where
  gust      : Nat := 0
  quiet     : Nat := 0
  turns     : Nat := 0
  setting   : SMap Int := []
  trial     : SMap Int := []
deriving DecidableEq, Repr


/-- The state of the device. `regs` holds the registers and counters that no typed field gives, `pending` the commands that
wait, first in, first out, `accepted` the entries taken so far, which number them, `served` the ring served last and
`turn` the entries its turn has taken (R309), `replies` the results of commands whose output buffers are being written, `out` what the device has sent, `freeN` how many free values were drawn. -/
structure State where
  cores   : Vector Core 16 := Vector.replicate 16 {}
  syn     : Syn := {}
  ctxs    : SMap Ctx := []
  parts   : Vector Part 4 := (Vector.replicate 4 {}).set 0 { cores := 16, ringMib := 2048 }
  shape   : BitVec 2 := 0
  tslots  : Vector (SMap TSlot) 4 := Vector.replicate 4 []
  enc     : Enc := {}
  rims    : Vector Rim 4 := Vector.replicate 4 {}
  fab     : Fab := {}
  vcl     : Vcl := {}
  links   : Vector Link 20 := Vector.replicate 20 {}
  time    : TimeTree := {}
  fuses   : Fuses := {}
  sec     : Sec := {}
  fwLoad  : Option FwLoad := none
  spdm    : SMap Byte := []
  hkp     : Hkp := {}
  mgt     : Mgt := {}
  pwr     : Pwr := {}
  twin    : Twin := {}
  tune    : Tune := {}
  rings   : Vector Ring 64 := Vector.replicate 64 {}
  taken   : List Taken := []
  accepted : Nat := 0
  replies : List (Nat × Nat × Nat) := []
  served  : Fin 64 := 63
  turn    : Nat := 8
  slowerBase : Word := 0
  slowerSize : Word := 0
  clients : SMap (Word × Word × Word) := []
  regs    : SMap Word := []
  mem     : List Host.Cell := []
  bad     : List (Nat × LineKind) := []
  podTime : Word := 0
  stopped : Bool := false
  out     : List OutMsg := []
  heldOut : List OutMsg := []
  freeN   : Nat := 0
  pending : List Instr := []
deriving DecidableEq, Repr

/-- The state right after reset. -/
def State.reset : State := {}

end Sys2Proof.Machine
end

