-- ==== Sys2Proof/Machine/Ops.lean ====
section
/-! DEFINITION. Operations every family shares: reading and writing the plain registers, sticky bits, saturating counters, the error registers (R380), free values, bytes of memory, access to cores, contexts and partitions. -/

namespace Sys2Proof.Machine

/-! Register blocks (Table 17.3) -/

def blkCTL : Nat := 0x00
def blkSEC : Nat := 0x01
def blkSYN : Nat := 0x02
def blkFAB : Nat := 0x03
def blkRIM : Nat := 0x04
def blkWEF : Nat := 0x05
def blkENC : Nat := 0x06
def blkHBM : Nat := 0x07
def blkVCL : Nat := 0x08
def blkTWN : Nat := 0x09
def blkHKP : Nat := 0x0A
def blkMGT : Nat := 0x0B
def blkPWR : Nat := 0x0C
def blkCore (c : Fin 16) : Nat := 0x10 + c.val

/-- The key of a register in `State.regs`: the entry a selector names, the block and the offset. -/
def rkey (blk off idx : Nat) : Nat := idx * 2 ^ 32 + blk * 2 ^ 16 + off

/-- The reset value of a register kept in `State.regs`: CTL_PART_GRACE 500, VCL_MSI_CTL masked, HKP_SCRUB_CFG 3,600,
PWR_RESET_CAUSE.LAST standby, 0 elsewhere. -/
def regReset (k : Nat) : Word :=
  if k % 2 ^ 32 = rkey blkCTL 0x0510 0 then 500
  else if k % 2 ^ 32 = rkey blkVCL 0x0228 0 then 0x100000000
  else if k = rkey blkHKP 0x0200 0 then 3600 else if k = rkey blkPWR 0x0230 0 then 0x10000 else 0

/-- A register's value. -/
def State.reg (s : State) (blk off : Nat) (idx : Nat := 0) : Word := mget regReset s.regs (rkey blk off idx)

/-- The state with a register's value set. -/
def State.setReg (s : State) (blk off : Nat) (v : Word) (idx : Nat := 0) : State :=
  { s with regs := mset regReset s.regs (rkey blk off idx) v }

/-- Bits of a sticky register set (W1C bits, Table 0.3). -/
def State.stick (s : State) (blk off bits : Nat) (idx : Nat := 0) : State :=
  s.setReg blk off (s.reg blk off idx ||| BitVec.ofNat 64 bits) idx

/-- A counter raised, saturating at 2^64 − 1 (R396). -/
def State.count (s : State) (blk off : Nat) (n : Nat := 1) (idx : Nat := 0) : State :=
  s.setReg blk off (satAdd (s.reg blk off idx) n) idx

/-! The array clock (R2, R405, R408) -/

/-- The bin's maximum array clock, MHz. -/
def State.binMHz (s : State) : Nat := if s.fuses.binL then 700 else 800

/-- The effective array clock: the lower of the throttle level's and PWR_CFG's, 0 there meaning the bin's maximum. -/
def State.coreMHz (s : State) : Nat :=
  let top := s.binMHz
  let cfg := fld (s.reg blkPWR 0x0200) 16 16
  min (max (top - 100 * s.hkp.level) 100) (if cfg = 0 then top else cfg)

/-- ARRAY_MHZ as software sees it: the clock in effect, 0 until the PLLs have locked (Table 15.9, R436; log entry 109). -/
def State.arrayMHz (s : State) : Nat := if s.pwr.stage < 3 then 0 else s.coreMHz

/-! Free values (log entry 3) -/

/-- A fresh free value and the state that has drawn it. -/
def State.draw (s : State) : Word × State := (Config.freeValue s.freeN, { s with freeN := s.freeN + 1 })

/-! Cores, contexts, partitions -/

def State.modCore (s : State) (c : Fin 16) (f : Core → Core) : State := { s with cores := s.cores.set c (f s.cores[c]) }
def State.modRim (s : State) (p : Fin 4) (f : Rim → Rim) : State := { s with rims := s.rims.set p (f s.rims[p]) }
def State.modPart (s : State) (p : Fin 4) (f : Part → Part) : State := { s with parts := s.parts.set p (f s.parts[p]) }
def State.modRing (s : State) (r : Fin 64) (f : Ring → Ring) : State := { s with rings := s.rings.set r (f s.rings[r]) }
def State.ctx? (s : State) (x : Nat) : Option Ctx := look s.ctxs x
def State.setCtx (s : State) (x : Nat) (c : Ctx) : State := { s with ctxs := insertAt s.ctxs x c }
def State.modCtx (s : State) (x : Nat) (f : Ctx → Ctx) : State :=
  match s.ctx? x with
  | some c => s.setCtx x (f c)
  | none => s

/-- Repeats an update for each element of a list, in order. -/
def forAll {α : Type} (l : List α) (f : α → State → State) (s : State) : State := l.foldl (fun s a => f a s) s

/-- The core numbers of the device. -/
def allCores : List (Fin 16) := List.finRange 16

/-- The partition that holds a core. -/
def State.partOf (s : State) (c : Fin 16) : Fin 4 :=
  ((List.finRange 4).find? (fun p => (s.parts[p].first ≤ c.val) && (c.val < s.parts[p].first + s.parts[p].cores))).getD 0

/-- The cores of a partition, in ascending order. -/
def State.coresOf (s : State) (p : Fin 4) : List (Fin 16) :=
  allCores.filter (fun c => decide (s.parts[p].first ≤ c.val) && decide (c.val < s.parts[p].first + s.parts[p].cores))

/-- The context that runs on a core, if any. -/
def State.ctxOn (s : State) (c : Fin 16) : Option Nat := (s.cores[c].run).map (·.ctx)

/-- The secret from which the device's keys are derived: a public constant on an A0 part with the DEBUG fuse blown (R365). -/
def Fuses.secret (f : Fuses) : Bytes := if f.debug && f.stepping = 0xA0 then Config.debugSecret else Config.deviceSecret

/-- The contents of the measurement blocks 5 to 7 (Table 13.6). -/
def State.measBlocks (s : State) : List (List Nat) :=
  [s.shape.toNat :: s.slowerBase.toNat :: s.slowerSize.toNat :: (s.parts.toList.map (·.ringMib) ++ s.vcl.apt.toList.map (·.toNat)
      ++ s.fab.banks.toList.map (·.ownEp.toNat)),
   s.sec.publishers.flatMap (fun k => k.1 :: k.2.map (·.toNat)),
   s.enc.models.flatMap (fun m => m.id :: m.slot :: m.commit.map (·.toNat))]

/-! Errors (R378 to R381) -/

/-- The class of an error, by its code in ERR_FIRST (Table 14.4). -/
inductive EClass where
  | c
  | k
  | p
  | d
  | none
deriving DecidableEq, Repr

def EClass.code : EClass → Nat
  | .c => 0
  | .k => 1
  | .p => 2
  | .d => 3
  | .none => 4

/-- ERR_FIRST's value for an error (Table 14.4). -/
def errFirst (cls : EClass) (cause : Nat) (x : Option (Nat × Nat)) : Word :=
  BitVec.ofNat 64 (2 ^ 63 + put cls.code 55 3 + cause % 2 ^ 16 +
    (match x with
     | some (p, c) => put p 53 2 + put c 43 10 + 2 ^ 42
     | Option.none => 0))

/-- An error recorded in a block (R380): its class bit, the count, and the first capture with its pod time. The device-wide counts by
class, from which snapshots are made (R410), stand at an offset that no register has. -/
def State.record (s : State) (blk : Nat) (cls : EClass) (cause : Nat) (x : Option (Nat × Nat) := Option.none) : State :=
  let s := s.stick blk 0x0100 (2 ^ cls.code)
  let s := s.count blk 0x0110
  let s := s.count blkHKP 0xF000 1 cls.code
  if bit (s.reg blk 0x0108) 63 then s
  else (s.setReg blk 0x0108 (errFirst cls cause x)).setReg blk 0x0118 s.podTime

/-- The partition and id of a context, as ERR_FIRST names them. -/
def State.errCtx (s : State) (x : Option Nat) : Option (Nat × Nat) :=
  match x with
  | some c => (s.ctx? c).map (fun k => (k.part.val, c))
  | Option.none => Option.none

/-! Memory (17_address_map) -/

/-- What a byte of memory that nothing has written reads as (log entry 2). -/
def memDefault (_ : Nat) : Byte := 0

/-- One byte of the device physical address space. -/
def State.peek (s : State) (a : Nat) : Byte := mget memDefault s.mem a

/-- Bytes from an address on. -/
def State.peekN (s : State) (a n : Nat) : Bytes := getBytes s.mem a n

/-- Bytes written from an address on. -/
def State.pokeN (s : State) (a : Nat) (bs : Bytes) : State := { s with mem := setBytes s.mem a bs }

/-- The canonical form of memory: addresses strictly rising, no byte at the default. -/
def Memory.wf (m : List Host.Cell) : Bool := canonical memDefault m

/-- 216 GiB of HBM (Table 17.1). -/
def hbmEnd : Nat := 0x3600000000
/-- The base of host memory (Table 17.1). -/
def hostBase : Nat := 0x800000000000
/-- The end of the 48-bit address space. -/
def dpaEnd : Nat := 0x1000000000000

/-- Wholly inside HBM. -/
def inHbm (a n : Nat) : Bool := a + n ≤ hbmEnd
/-- Wholly inside host memory. -/
def inHost (a n : Nat) : Bool := decide (hostBase ≤ a) && decide (a + n ≤ dpaEnd)

/-- HBM's regions of Table 17.2. -/
def dirBase : Nat := 0x3B000000
def retxBase : Nat := 0x3F000000
def stagingBase : Nat := 0x40000000
def stagingSize : Nat := 0x100000000
def landingBase : Nat := 0x140000000
def imagesBase : Nat := 0x340000000
def ckptBase : Nat := 0x3C0000000
def ckptSize : Nat := 0xC00000000
def storeBase : Nat := 0xFC0000000
def storeSize : Nat := 0x2000000000
def hostUseBase : Nat := 0x2FC0000000
def hostUseSize : Nat := 26843545600

/-! What the device sends -/

/-! HBM traffic (R168, R397) -/

/-- The aligned blocks of 512 B that a range touches. -/
def blocksOf (a n : Nat) : List Nat := if n = 0 then [] else List.range' (a / 512) ((a + n - 1) / 512 - a / 512 + 1)

/-- Blocks of 512 B counted at the controllers that serve them. -/
def State.countBlocks (s : State) (write : Bool) (bs : List Nat) : State :=
  forAll bs (fun b s => s.count blkHBM (if write then 0x0220 else 0x0218) 512 (Config.hbmController b).val) s

/-- Bytes counted at the controllers for a run: every aligned block of 512 B it touches, in full. -/
def State.countHbm (s : State) (write : Bool) (a n : Nat) : State := s.countBlocks write (blocksOf a n)

/-! Sending -/

/-- A message added to what the device has sent. -/
def State.send (s : State) (m : OutMsg) : State := { s with out := s.out ++ [m] }

/-! The state that the management port shows (R420) -/

/-- Whether the standby domain runs. -/
def State.stbyOn (s : State) : Bool := s.pwr.stby && !s.pwr.stbyHeld

/-- State sensor 40 (Table 15.6): 1 awaiting image, 2 recovery, 3 bring-up, 4 ready, 5 class D, 6 main power off. A held main reset shows bring-up (R434); which
of two states that hold together it shows is a choice (log entry 111). -/
def State.stateSensor (s : State) : Nat :=
  if !s.pwr.pwrOk then 6
  else if s.pwr.held then 3
  else if s.stopped then 5
  else if s.sec.recovery then 2
  else if s.sec.boot = 0 && decide (3 ≤ s.pwr.stage) then 1
  else if s.pwr.stage = 10 then 4
  else 3

/-- A change of state sensor 40, if there is one: an event for the receiver that SetEventReceiver named (R420), signalled as the port's mode lays down
(R419). -/
def State.stateEvent (s : State) : State :=
  let n := s.stateSensor
  if n = s.mgt.seen then s
  else
    let before := s.mgt.seen
    match s.mgt.receiver with
    | some r =>
      if s.stbyOn && s.mgt.addressed then
        (({ s with mgt := { s.mgt with seen := n, alert := true } } : State).send (.alert s.mgt.smbus)).send (.event r before n)
      else { s with mgt := { s.mgt with seen := n } }
    | none => { s with mgt := { s.mgt with seen := n } }

end Sys2Proof.Machine
end

