-- ==== Sys2Proof/Machine/Requests.lean ====
section
/-! DEFINITION. The device's side of VCL as a sender: flits and credits (R278 to R280), its requests with their tags (R283, R291), the order in which they share the link (R293), completion entries, and interrupt vectors (R292). -/

namespace Sys2Proof.Machine

/-! The host link's transmitter (R278 to R280, R283, R291) -/

/-- SEQ of a VCL flit, and its CRC over the 252 bytes before it (Table 10.1). -/
def vclSeq (f : VclFlit) : BitVec 10 := BitVec.ofNat 10 (fld f.header 2 10)
def vclCrc (f : VclFlit) : BitVec 32 := crc32c (toLe 4 f.header.toNat ++ f.slots ++ toLe 8 f.credits.toNat)

/-- Bytes filled up with zeros to a length. -/
def fillTo (n : Nat) (bs : Bytes) : Bytes := bs ++ List.replicate (n - bs.length) 0

/-- Bytes cut into pieces of a length, the last one shorter. -/
def chunks (n : Nat) (bs : Bytes) : List Bytes := (List.range ((bs.length + n - 1) / n)).map (fun i => (bs.drop (n * i)).take n)

/-- Bytes filled up to whole slots of 16 B. -/
def inSlots (bs : Bytes) : Bytes := padTo 16 bs

/-- A transaction header (Table 10.4). -/
def vclHdr (op status tag word addr : Nat) : Bytes := toLe 1 op ++ toLe 1 status ++ toLe 2 (tag % 4096) ++ toLe 4 word ++ toLe 8 addr

/-- The 64-byte buffers that a message takes at its receiver (R280). -/
def buffersOf (slots : Nat) : Nat := (slots + 3) / 4

/-- A flit of a KIND with the next SEQ, the ACK of the last flit received in order and the credits owed (Table 10.1). Before any has been received the ACK is
1,023, which covers none (DESIGN CHOICE, log entry 112). -/
def State.formFlit (s : State) (kind first : Nat) (slots : Bytes) : VclFlit :=
  let v := s.vcl
  let f : VclFlit := {
    header := BitVec.ofNat 32 (kind + put v.txSeq.toNat 2 10 + put (v.rxSeq - 1).toNat 12 10 + put first 22 4)
    slots := fillTo 240 slots
    credits := BitVec.ofNat 64 (put v.owed[0] 0 16 + put v.owed[1] 16 16 + put v.owed[2] 32 16)
    crc := 0 }
  { f with crc := vclCrc f }

/-- A numbered flit sent and kept until an ACK covers it (R278, R279). -/
def State.sendNumbered (s : State) (kind first : Nat) (slots : Bytes) : State :=
  let f := s.formFlit kind first slots
  let s : State := { s with vcl := { s.vcl with txSeq := s.vcl.txSeq + 1, replay := s.vcl.replay ++ [f], owed := Vector.replicate 3 0 } }
  (s.count blkVCL 0x0240).send (.vclFlit f)

/-- A control flit, if the replay buffer has room for it (R279). -/
def State.vclControl (s : State) (name : String) (args : List Nat) : State :=
  if s.vcl.replay.length < 512 then (s.send (.vcl name args [])).sendNumbered 1 15 (Config.controlBytes name args) else s

/-- The credits owed returned at once by an idle flit, which is not numbered (R278, R280). -/
def State.returnCredits (s : State) : State :=
  if s.vcl.owed.toList.all (· = 0) then s
  else ({ s with vcl := { s.vcl with owed := Vector.replicate 3 0 } } : State).send (.vclFlit (s.formFlit 2 15 []))

/-- A message received in some slots: its buffers are free again (R280). -/
def State.vclHeard (s : State) (cls : Fin 3) (slots : Nat) : State :=
  { s with vcl := { s.vcl with owed := s.vcl.owed.set cls (s.vcl.owed[cls] + buffersOf slots) } }

/-- The slots of the messages that leave next. -/
def State.outSlots (s : State) : Nat := (s.vcl.outQ.map (fun m => m.slots.length / 16)).sum

/-- Whether a message may leave: the link is UP, its class has credits, and the replay buffer has room for its flits (R279, R280). -/
def State.maySend (s : State) (m : VclMsg) : Bool :=
  let n := m.slots.length / 16
  s.vcl.st = .up && decide (buffersOf n ≤ s.vcl.credits[m.cls]) && decide (s.vcl.replay.length + (s.outSlots + n + 14) / 15 ≤ 512)

/-- A message that leaves in the next flits, its credits used. -/
def State.vclPost (s : State) (m : VclMsg) : State :=
  { s with vcl := { s.vcl with outQ := s.vcl.outQ ++ [m], credits := s.vcl.credits.set m.cls (s.vcl.credits[m.cls] - buffersOf (m.slots.length / 16)) } }

/-- The posted messages sent in data flits of 15 slots each, without gaps between them; FIRST names the first slot of a flit that begins a
header (R278). -/
def State.emit (s : State) : State :=
  let ms := s.vcl.outQ
  let all := ms.flatMap (·.slots)
  let starts := (ms.foldl (fun (a : Nat × List Nat) m => (a.1 + m.slots.length / 16, a.2 ++ [a.1])) (0, [])).2
  let s := forAll ms (fun m s => s.send (.vcl m.name m.args m.bytes)) { s with vcl := { s.vcl with outQ := [] } }
  forAll (List.range ((all.length + 239) / 240)) (fun i s =>
    s.sendNumbered 0 (((starts.find? (fun h => decide (15 * i ≤ h) && decide (h < 15 * i + 15))).map (· - 15 * i)).getD 15)
      ((all.drop (240 * i)).take 240)) s

/-- An answer to the host: it leaves at once, or when the host's credits and the replay buffer let it. -/
def State.answer (s : State) (name : String) (args : List Nat) (bytes : Bytes) (hdr : Bytes) : State :=
  let m : VclMsg := ⟨1, name, args, bytes, inSlots (hdr ++ bytes)⟩
  if s.maySend m && s.vcl.rspQ.isEmpty then (s.vclPost m).emit else { s with vcl := { s.vcl with rspQ := s.vcl.rspQ ++ [m] } }

/-- The answers that waited posted, in order, while they may leave. -/
def State.pumpAnswers (s : State) : State :=
  let rec go : Nat → State → State
    | 0, s => s
    | n + 1, s => match s.vcl.rspQ with
      | m :: r => if s.maySend m then go n (({ s with vcl := { s.vcl with rspQ := r } } : State).vclPost m) else s
      | [] => s
  go s.vcl.rspQ.length s

/-- The message of a request (Table 10.3): a read of lines, full lines written back, or one line with its byte mask. -/
def State.reqMsg (s : State) (q : VclReq) : VclMsg :=
  let t := q.tag.toNat
  let a := q.dpa - hostBase
  let lines := (q.len / 64 - 1) % 64
  if !q.write then ⟨0, if q.own then "RD_OWN" else "RD_SHARED", [t, a, q.len / 64], [], vclHdr (if q.own then 2 else 1) 0 t lines a⟩
  else
    let d := s.peekN q.dpa q.len
    if q.len % 64 = 0 ∧ a % 64 = 0 then ⟨0, "WR_BACK", [t, a], d, vclHdr 3 0 t lines a ++ d⟩
    else ⟨0, "WR_MASKED", [t, a], d, inSlots (vclHdr 4 0 t 0 (a / 64 * 64) ++ toLe 8 ((2 ^ q.len - 1) <<< (a % 64)))
      ++ fillTo 64 (List.replicate (a % 64) 0 ++ d)⟩

/-- The first tag from the next one on that no outstanding request has (R283). -/
def State.freeTag (s : State) : BitVec 12 :=
  let rec go : Nat → BitVec 12 → BitVec 12
    | 0, t => t
    | n + 1, t => if s.vcl.reqs.any (fun q => q.tag = t) then go n (t + 1) else t
  go 4095 s.vcl.nextTag

/-- Whether the device may hold one more request: 4,096 at most, one per tag (R283). -/
def State.tagFree (s : State) : Bool := decide (s.vcl.reqs.length < 4096)

/-- A request with a tag of its own, not sent yet. -/
def State.newReq (s : State) (who : ReqWho) (write own : Bool) (a n : Nat) : VclReq := ⟨s.freeTag, write, own, who, a, n, false, false, []⟩

/-- Whether a read of lines must wait for an outstanding write to one of them (R291). -/
def State.writeAhead (s : State) (q : VclReq) : Bool :=
  !q.write && s.vcl.reqs.any (fun w => w.write && decide (w.dpa / 64 * 64 < q.dpa + q.len) && decide (q.dpa < (w.dpa + w.len + 63) / 64 * 64))

/-- Whether a request may leave now. -/
def State.reqFits (s : State) (q : VclReq) : Bool := s.maySend (s.reqMsg q) && !s.writeAhead q

/-- A request given to the flits that leave next: outstanding until its answer; the bytes that a write sends are counted, of a masked line
the enabled ones (DESIGN CHOICE, log entry 112). -/
def State.postReq1 (s : State) (q : VclReq) : State :=
  let s := s.vclPost (s.reqMsg q)
  let s : State := { s with vcl := { s.vcl with nextTag := q.tag + 1, reqs := s.vcl.reqs.filter (fun o => o.tag ≠ q.tag) ++ [{ q with sent := true }] } }
  if q.write then s.count blkVCL 0x0268 q.len else s

/-- The rank of ingest reads in R293's order, as the lists of waiting requests count it. -/
def ingestRank : Nat := 3

/-- The first waiting request of a rank, and the rest. -/
def State.takeBulk (s : State) (rank : Nat) : Option (ObReq × List ObReq) := pull (fun (q : ObReq) => q.who = .bulk rank) s.vcl.bulkQ

/-- The first waiting request of a rank posted, if it may leave. -/
def State.postBulk (s : State) (rank : Nat) : Option State :=
  match s.takeBulk rank with
  | some (q, r) =>
    let w := s.newReq q.who q.write q.own q.dpa q.len
    if s.tagFree && s.reqFits w then some (({ s with vcl := { s.vcl with bulkQ := r, sinceIngest := if rank = ingestRank then 0 else s.vcl.sinceIngest } } : State).postReq1 w) else none
  | none => none

/-- One issue in eight goes to ingest while it waits (R293). -/
def State.ingestTurn (s : State) : State :=
  if (s.takeBulk ingestRank).isNone then { s with vcl := { s.vcl with sinceIngest := 0 } }
  else if s.vcl.sinceIngest < 6 then { s with vcl := { s.vcl with sinceIngest := s.vcl.sinceIngest + 1 } }
  else match s.postBulk ingestRank with
    | some t => t
    | none => s

/-- A request that leaves. -/
def State.postReq (s : State) (q : VclReq) : State := (s.postReq1 q).ingestTurn

/-- A new request posted, if a tag, the credits and the writes before it let it. -/
def State.tryReq (s : State) (who : ReqWho) (write : Bool) (a n : Nat) : Option State :=
  let q := s.newReq who write false a n
  if s.tagFree && s.reqFits q then some (s.postReq q) else none

/-- A request that failed, of an engine whose requests one command stands for: counted and recorded (R294, R297). -/
def State.hostFailed (s : State) : State := ((s.count blkVCL 0x0280).stick blkVCL 0x0208 4).record blkVCL .none 0x0803

/-- Whether a request is one of Obinha's own. -/
def ReqWho.obinha : ReqWho → Bool
  | .cqEntry _ => true
  | .snapshot => true
  | .snapHead => true
  | .cmd .. => true
  | .fw => true
  | .bulk rank => rank = 0
  | .stream .. => false
  | .prefetch _ => false

/-- Whether a write of Obinha's awaits its WR_DONE: an interrupt leaves only after it (R291). -/
def State.writesOut (s : State) : Bool := s.vcl.reqs.any (fun q => q.write && q.who.obinha) || s.vcl.obReqs.any (·.write)

/-- The message of an interrupt (R292, Table 10.4). -/
def msiMsg (v : Nat) (a : Word) (d : BitVec 32) : VclMsg := ⟨0, "MSG_INT", [v, a.toNat, d.toNat], [], vclHdr 5 0 0 d.toNat a.toNat⟩

/-- A completion entry written to its ring, or an interrupt sent, if it may leave now; a completion entry does not wait for Obinha's other
writes, an interrupt does (R291). -/
def State.putOut (s : State) (m : OutMsg) : Option State :=
  match m with
  | .cq r i e =>
    let a := hostBase + 4096 * fld (s.reg blkCTL 0x0410 r.val) 12 52 + 32 * i
    let t := (s.send m).pokeN a e
    t.tryReq (.cqEntry r) true a e.length
  | .msi v a d => if !s.writesOut && s.maySend (msiMsg v a d) then some ((s.send m).vclPost (msiMsg v a d)) else none
  | _ => some (s.send m)

/-- Obinha's requests get tags in order; those that may leave do. -/
def State.pumpObinha (s : State) : State :=
  let rec go : Nat → State → State
    | 0, s => s
    | n + 1, s => match s.vcl.obReqs with
      | q :: r =>
        let w := s.newReq q.who q.write q.own q.dpa q.len
        if s.tagFree && s.reqFits w then go n (({ s with vcl := { s.vcl with obReqs := r } } : State).postReq w) else s
      | [] => s
  go s.vcl.obReqs.length s

/-- Requests that wait to be sent once more leave when they may (R294). -/
def State.pumpAgain (s : State) (obinha : Bool) : State :=
  forAll (s.vcl.reqs.filter (fun q => !q.sent && q.who.obinha = obinha)) (fun q s => if s.reqFits q then s.postReq q else s) s

/-- Answers go first; then Obinha's requests, completion entries and interrupts in order, while VCL is UP (R291, R293, R295). -/
def State.flushOut (s : State) : State :=
  let rec go : Nat → State → State
    | 0, s => s
    | n + 1, s =>
      match s.heldOut with
      | m :: r => if s.vcl.st = .up then
          (match ({ s with heldOut := r } : State).putOut m with
           | some t => go n t
           | none => s) else s
      | [] => s
  let s := (s.pumpAnswers.pumpAgain true).pumpObinha
  (go s.heldOut.length s).emit

/-! Host memory (R283) -/

/-- The 4,096 B blocks of host lines that a byte range touches, as address and length of whole lines. -/
def hostBlocks (a n : Nat) : List (Nat × Nat) :=
  let lo := a / 64 * 64
  let hi := (a + n + 63) / 64 * 64
  let rec go : Nat → Nat → List (Nat × Nat)
    | 0, _ => []
    | k + 1, x =>
      if hi ≤ x then []
      else
        let y := min hi (x / 4096 * 4096 + 4096)
        (x, y - x) :: go k y
  if n = 0 then [] else go ((hi - lo) / 64) lo

/-- The writes of a byte range: full lines in groups of at most 16, a partial line alone (R284). -/
def hostWrites (a n : Nat) : List (Nat × Nat) :=
  let rec go : Nat → Nat → List (Nat × Nat)
    | 0, _ => []
    | k + 1, x =>
      if a + n ≤ x then []
      else if x % 64 ≠ 0 ∨ a + n < x + 64 then
        let y := min (a + n) (x / 64 * 64 + 64)
        (x, y - x) :: go k y
      else
        let y := min ((a + n) / 64 * 64) (x + 1024)
        (x, y - x) :: go k y
  go (n / 64 + 2) a

/-! The other ranks (R166, R293) -/

/-- The waiting requests of a rank posted in order while they may leave. -/
def State.pumpBulk (s : State) (rank : Nat) : State :=
  let rec go : Nat → State → State
    | 0, s => s
    | n + 1, s => match s.postBulk rank with
      | some t => go n t.ingestTurn
      | none => s
  go s.vcl.bulkQ.length s

def State.modStream (s : State) (c : Fin 16) (id : Nat) (f : Stream → Stream) : State :=
  s.modCore c (fun k => { k with streams := k.streams.map (fun t => if t.id = id then f t else t) })

/-- A deadline as it orders streams: the time left, none last. -/
def State.timeLeft (s : State) (t : Stream) : Int := (t.due.map (fun d => (d - s.podTime).toInt)).getD (2 ^ 63)

/-- The stream of a core that its engine grants next (R166): the earliest deadline, among equals the lower descriptor number and then the earlier issue;
streams without one in turn, and the oldest of them at every 16th grant. -/
def State.nextStream (s : State) (c : Fin 16) (skip : List (Fin 16 × Nat)) : Option Stream :=
  let k := s.cores[c]
  let w := k.streams.filter (fun t => !t.todo.isEmpty && !skip.contains (c, t.id))
  let free := w.filter (fun t => t.due.isNone)
  let oldest := minBy (fun (t : Stream) => t.id) free
  let first := fun (a b : Stream) =>
    s.timeLeft a < s.timeLeft b || (s.timeLeft a = s.timeLeft b && (a.num < b.num || (a.num = b.num && a.id < b.id)))
  let dl := (w.filter (fun t => t.due.isSome)).foldl (fun (m : Option Stream) t => match m with
    | some x => if first t x then some t else m
    | none => some t) none
  let inTurn := (minBy (fun (t : Stream) => t.id) (free.filter (fun t => decide (k.lastFree < t.id)))).orElse (fun _ => oldest)
  if k.grants % 16 = 15 then oldest.orElse (fun _ => dl) else dl.orElse (fun _ => inTurn)

/-- A stream's grant noted. -/
def State.granted (s : State) (c : Fin 16) (t : Stream) : State :=
  s.modCore c (fun k => { k with grants := (k.grants + 1) % 16, lastFree := if t.due.isNone then t.id else k.lastFree })

/-- The streams' requests sent while they may leave: of what the cores' engines grant, the earliest deadline first, and of equal ones the lower
core's. -/
def State.pumpStreams (s : State) : State :=
  let rec go : Nat → List (Fin 16 × Nat) → State → State
    | 0, _, s => s
    | n + 1, skip, s =>
      let c := allCores.foldl (fun (m : Option (Fin 16 × Stream)) c => match m, s.nextStream c skip with
        | some x, some t => if s.timeLeft t < s.timeLeft x.2 then some (c, t) else m
        | none, some t => some (c, t)
        | m, none => m) none
      match c with
      | some (c, t) =>
        match t.todo with
        | q :: r =>
          (match s.tryReq (.stream c t.id) q.1 q.2.1 q.2.2 with
           | some u => go n skip ((u.modStream c t.id (fun t => { t with todo := r })).granted c t)
           | none => go n ((c, t.id) :: skip) s)
        | [] => s
      | none => s
  go ((allCores.map (fun c => (s.cores[c].streams.map (fun t => t.todo.length + 1)).sum)).sum) [] s

/-- Whether a request waits for a tag, credits or the replay buffer, and not only for the writes before it. -/
def State.wantsLink (s : State) (q : VclReq) : Bool := !(s.tagFree && s.maySend (s.reqMsg q))

/-- Whether a request of Obinha's, a completion entry or an interrupt waits for the link; then no other rank may use it (R293). -/
def State.obinhaWaits (s : State) : Bool :=
  ((s.vcl.obReqs.head?.map (fun q => s.wantsLink (s.newReq q.who q.write q.own q.dpa q.len))).getD false)
    || (match s.heldOut.head? with
        | some (.cq r i e) => s.wantsLink (s.newReq (.cqEntry r) true false (hostBase + 4096 * fld (s.reg blkCTL 0x0410 r.val) 12 52 + 32 * i) e.length)
        | some (.msi v a d) => !s.writesOut && !s.maySend (msiMsg v a d)
        | _ => false)

/-- Whether a request of a rank waits for the link. -/
def State.bulkWaits (s : State) (rank : Nat) : Bool := ((s.takeBulk rank).map (fun q => s.wantsLink (s.newReq q.1.who q.1.write q.1.own q.1.dpa q.1.len))).getD false

/-- Whether a stream's next request waits for the link. -/
def State.streamWaits (s : State) : Bool :=
  allCores.any (fun c => s.cores[c].streams.any (fun t => match t.todo with
    | q :: _ => s.wantsLink (s.newReq (.stream c t.id) q.1 false q.2.1 q.2.2)
    | [] => false))

/-- What waits for VCL goes out in R293's order: Obinha's requests, completion entries and interrupts; slower-tier reads; images; streams; ingest.
A rank goes on only when none before it waits for the link. -/
def State.vclPump (s : State) : State :=
  let s := s.flushOut
  if s.obinhaWaits then s
  else
    let s := (s.pumpAgain false).pumpBulk 1
    if s.bulkWaits 1 then s.emit
    else
      let s := s.pumpBulk 2
      if s.bulkWaits 2 then s.emit
      else
        let s := s.pumpStreams
        if s.streamWaits then s.emit else (s.pumpBulk ingestRank).emit

/-- Host memory moved by an engine whose transfer one command stands for (log entry 90), of a rank of R293 (0 Obinha's buffers, 1 the slower tier, 2 images,
3 ingest): reads within blocks of 4,096 B, writes of full lines and partial ones, which leave as the link lets them. Outside UP nothing leaves. -/
def State.hostMoved (s : State) (write : Bool) (a n rank : Nat) : State :=
  let qs := (if write then hostWrites a n else hostBlocks a n).map (fun p => (⟨.bulk rank, write, false, p.1, p.2⟩ : ObReq))
  if s.vcl.st ≠ .up then s
  else if rank = 0 then ({ s with vcl := { s.vcl with obReqs := s.vcl.obReqs ++ qs } } : State).vclPump
  else ({ s with vcl := { s.vcl with bulkQ := s.vcl.bulkQ ++ qs } } : State).vclPump

/-- A completion entry or interrupt to be sent. -/
def State.sendHost (s : State) (m : OutMsg) : State := ({ s with heldOut := s.heldOut ++ [m] } : State).flushOut

/-- A request of Obinha's, sent when it may leave. -/
def State.obinhaReq (s : State) (who : ReqWho) (write own : Bool) (a n : Nat) : State :=
  ({ s with vcl := { s.vcl with obReqs := s.vcl.obReqs ++ [⟨who, write, own, a, n⟩] } } : State).flushOut

/-- MSG_INT of a vector with its address and data (R292). -/
def State.sendMsi (s : State) (v : Nat) : State :=
  s.sendHost (.msi v (s.reg blkVCL 0x0220 v) ((s.reg blkVCL 0x0228 v).setWidth 32))

/-- An event on an interrupt vector (R292): MSG_INT when unmasked, PENDING when masked. -/
def State.raiseVec (s : State) (v : Nat) : State :=
  if bit (s.reg blkVCL 0x0228 v) 32 then s.setReg blkVCL 0x0228 (s.reg blkVCL 0x0228 v ||| 0x200000000) v
  else s.sendMsi v

end Sys2Proof.Machine
end

