-- ==== Sys2Proof/Machine/Flits.lean ====
section
/-! DEFINITION. The link layer of a fabric or twin link (R249 to R254): flits, their encryption, the bytes that wait on a link, and what a link sends. -/

namespace Sys2Proof.Machine

def State.modLink (s : State) (l : Fin 20) (f : Link → Link) : State := { s with links := s.links.set l (f s.links[l]) }

/-- Words of 8 random bytes (log entry 3). -/
def State.random (s : State) (n : Nat) : Bytes × State :=
  ((List.range n).flatMap (fun i => toLe 8 (Config.freeValue (s.freeN + i)).toNat), { s with freeN := s.freeN + n })

/-! Flits (Tables 9.3 and 9.4) -/

/-- KIND, FC, SEQ, ACK, START_V and START of a flit (Table 9.4). -/
def flitKind (f : Flit) : Nat := fld f.header 28 3
def flitFc (f : Flit) : BitVec 5 := BitVec.ofNat 5 (fld f.header 23 5)
def flitSeq (f : Flit) : BitVec 9 := BitVec.ofNat 9 (fld f.header 9 9)
def flitAck (f : Flit) : BitVec 9 := BitVec.ofNat 9 (fld f.header 0 9)
def flitStart (f : Flit) : Option Nat := if bit f.header 22 then some (fld f.header 18 4) else none

/-- The CRC of a flit, over its bytes 0 to 267, and whether it holds (Table 9.3). -/
def flitCrc (f : Flit) : BitVec 32 := crc32c (toLe 4 f.header.toNat ++ f.payload ++ toLe 8 f.tag.toNat)
def flitCrcOk (f : Flit) : Bool := flitCrc f == f.crc

/-- A header (Table 9.4). -/
def flitHeader (kind fc : Nat) (start : Option Nat) (seq ack : Nat) : BitVec 32 :=
  BitVec.ofNat 32 (put ack 0 9 + put seq 9 9 + put (start.getD 0) 18 4 + put (b2n start.isSome) 22 1 + put fc 23 5 + put kind 28 3)

/-! Encryption (R251 to R253) -/

/-- The key and salt of a direction under a rekey index (R252, R253). `low` names the direction from the lower serial. -/
def linkKeys (secret : Bytes) (low : Bool) (index : Nat) : Bytes × Bytes :=
  let o := hkdfExpand secret (Config.linkInfo low index) 36
  (o.take 32, (o.drop 32).take 4)

/-- The key and salt under which a direction's flit of a number is encrypted: the next ones from the switch count on (R253). -/
def DirKeys.at_ (d : DirKeys) (n : Nat) : Bytes × Bytes :=
  match d.next with
  | some (c, key, salt) => if c ≤ n then (key, salt) else (d.key, d.salt)
  | none => (d.key, d.salt)

/-- The old key given up once the ACKs have passed the switch count, `n` being the flits that they cover (R253). -/
def DirKeys.passed (d : DirKeys) (n : Nat) : DirKeys :=
  match d.next with
  | some (c, key, salt) => if c < n then ⟨key, salt, d.index + 1, c, none⟩ else d
  | none => d

/-- The nonce of a flit: the direction's salt and the count of numbered flits sent before it since the handshake (R251). -/
def flitNonce (salt : Bytes) (n : Nat) : Bytes := salt ++ toLe 8 n

/-- The additional data: KIND, START_V, START and SEQ, with FC, ACK and the reserved bit as zero (R251). -/
def flitAad (h : BitVec 32) : Bytes := toLe 4 (h &&& 0x707FFE00#32).toNat

/-- The tag, truncated to 64 bits (R251). -/
def flitTag (key nonce aad ct : Bytes) : BitVec 64 := BitVec.ofNat 64 (leNat ((gcmTag key nonce aad ct).take 8))

/-- Whether the tag of a flit received holds, and its payload decrypted, under the keys of the direction it came in. -/
def Link.tagOk (k : Link) (f : Flit) : Bool :=
  let d := k.rx.at_ k.rxFlits
  flitTag d.1 (flitNonce d.2 k.rxFlits) (flitAad f.header) f.payload == f.tag
def Link.plain (k : Link) (f : Flit) : Bytes :=
  let d := k.rx.at_ k.rxFlits
  gcmCrypt d.1 (flitNonce d.2 k.rxFlits) f.payload

/-- The next numbered flit of a link (R249, R251). -/
def Link.seal (k : Link) (kind : Nat) (start : Option Nat) (payload : Bytes) : Flit :=
  let h := flitHeader kind k.fcOut.toNat start k.txSeq.toNat (k.rxSeq - 1).toNat
  let d := k.tx.at_ k.txFlits
  let nonce := flitNonce d.2 k.txFlits
  let ct := gcmCrypt d.1 nonce (fillTo 256 payload)
  let f : Flit := ⟨h, ct, flitTag d.1 nonce (flitAad h) ct, 0⟩
  { f with crc := flitCrc f }

/-- A stored flit as it is resent: with the current FC and ACK (R250). -/
def Link.again (k : Link) (f : Flit) : Flit :=
  let f := { f with header := (f.header &&& 0x707FFE00#32) ||| flitHeader 0 k.fcOut.toNat none 0 (k.rxSeq - 1).toNat }
  { f with crc := flitCrc f }

/-! The bytes that wait on a link (R249) -/

def pieceBytes (ps : List Piece) : Nat := (ps.map (·.bytes.length)).sum

/-- The bytes of a KIND that wait on a link. -/
def Link.waiting (k : Link) (kind : Nat) : Nat := pieceBytes (mget (fun _ => []) k.txQ kind)

/-- What a flit takes from the frames or packets that wait, without gaps between them: its bytes, the unit in which the first of them
begins, the multicast copies that end in it, and the rest (R249). -/
def cutFlit (room : Nat) : List Piece → Bytes × Option Nat × Nat × List Piece
  | [] => ([], none, 0, [])
  | q :: r =>
    let here := if q.begun then none else some ((256 - room) / 16)
    if room = 0 then ([], none, 0, q :: r)
    else if q.bytes.length ≤ room then
      let (bs, st, m, rest) := cutFlit (room - q.bytes.length) r
      (q.bytes ++ bs, here.or st, m + b2n q.mcast, rest)
    else (q.bytes.take room, here, 0, { q with begun := true, bytes := q.bytes.drop room } :: r)

/-- The KIND whose flit goes next: flits of different KINDs interleave one at a time. A flit that is not full goes only where `tails` says
so (log entry 95). -/
def Link.nextKind (k : Link) (tails : Bool) : Option Nat :=
  let ready := k.txQ.filter (fun q => decide ((if tails then 1 else 256) ≤ pieceBytes q.2))
  ((ready.find? (fun q => decide (k.lastKind < q.1))).or ready.head?).map (·.1)

/-! Sending (R250, R254) -/

/-- A flit has told the partner the current FC and ACK (R249). -/
def Link.showing (k : Link) : Link := { k with shown := some (k.fcOut, k.rxSeq - 1) }

/-- A numbered flit sent, counted, and held in the replay buffer until an ACK covers it; `m` multicast copies end in it. -/
def State.sendFlit (s : State) (l : Fin 20) (kind : Nat) (start : Option Nat) (payload : Bytes) (m : Nat) : State :=
  let f := s.links[l].seal kind start payload
  ((s.modLink l (fun k => { k.showing with txSeq := k.txSeq + 1, txFlits := k.txFlits + 1, replay := k.replay ++ [(f, m)] })).count blkFAB 0x0228 1 l.val).send
    (.flit l.val f)

/-- An idle flit: zero payload and TAG, the next SEQ unused, the current FC and ACK (R249). -/
def Link.idle (k : Link) : Flit :=
  let f : Flit := ⟨flitHeader 7 k.fcOut.toNat none k.txSeq.toNat (k.rxSeq - 1).toNat, List.replicate 256 0, 0, 0⟩
  { f with crc := flitCrc f }

/-- An idle flit sent on a link in UP whose FC or ACK no flit has told the partner; it is neither numbered nor held (R249, R250). Idle flits that
would repeat what the last flit said are left out (DESIGN CHOICE, log entry 121). -/
def State.idleLink (s : State) (l : Fin 20) : State :=
  let k := s.links[l]
  if k.st = .up && k.shown ≠ k.showing.shown then (s.modLink l Link.showing).send (.flit l.val k.idle) else s

/-- A rekey of this device's direction begun: the next key and the switch count, 512 above the flits sent (R253). -/
def Link.rekeyed (k : Link) : Link :=
  let d := linkKeys k.secret k.lower (k.tx.index + 1)
  { k with tx := { k.tx with next := some (k.txFlits + 512, d.1, d.2) } }

/-- The bytes of a control message: its type (R249), then a layout that the spec gives for HELLO only. -/
def ctlBytes (name : String) (args : List Nat) : Bytes :=
  let t := match name with
    | "RETRY" => [1]
    | "REKEY" => [2]
    | "TIME_REQ" => [4]
    | "TIME_RESP" => [5]
    | "ADAPT" => [8]
    | _ => []
  (t.map (BitVec.ofNat 8) ++ Config.controlBytes name args).take 256

/-- Whether a rekey must begin, so that no key is used for 2^32 flits (R253): the REKEY may have to wait for its slot (R254). -/
def Link.keyOld (k : Link) : Bool := k.tx.next.isNone && decide (2 ^ 32 - 8192 ≤ k.txFlits - k.tx.since)

/-- A REKEY put in front of every control message but a RETRY. -/
def Link.rekeyFirst (k : Link) : Link :=
  { k with ctlQ := k.ctlQ.filter (·.1) ++ (false, none) :: k.ctlQ.filter (fun c => !c.1 && c.2.isSome) }

/-- The next control message of a link sent. A REKEY names a switch count 512 above the count at which it is itself sent (R253). -/
def State.sendControl (s : State) (l : Fin 20) (retry : Bool) (b : Option Bytes) : State :=
  let s := s.modLink l (fun k => { k with ctlQ := k.ctlQ.drop 1, ctlGap := if retry then k.ctlGap else 0 })
  match b with
  | some b => s.sendFlit l 6 none b 0
  | none =>
    let c := s.links[l].txFlits + 512
    (((s.modLink l Link.rekeyed).count blkFAB 0x0250 1 l.val).send (.ctl l.val "REKEY" [c])).sendFlit l 6 none (ctlBytes "REKEY" [c]) 0

/-- What waits on a link in UP leaves while the replay buffer has room: RETRY at once, another control flit once in 2,048 flits while data
waits, data otherwise; then an idle flit, if FC or ACK has not been told (R249, R250, R254). -/
def State.pumpLink (s : State) (l : Fin 20) (tails : Bool) : State :=
  let rec go : Nat → State → State
    | 0, s => s
    | n + 1, s =>
      let s := if s.links[l].keyOld then s.modLink l Link.rekeyFirst else s
      let k := s.links[l]
      let kind := k.nextKind tails
      match k.ctlQ, kind with
      | [], none => s
      | (retry, b) :: _, none => go n (s.sendControl l retry b)
      | q, some kind =>
        match q.head?, q.head?.any (fun c => c.1 || decide (2047 ≤ k.ctlGap)) with
        | some (retry, b), true => go n (s.sendControl l retry b)
        | _, _ =>
          let c := cutFlit 256 (mget (fun _ => []) k.txQ kind)
          go n ((s.modLink l (fun k => { k with
            txQ := mset (fun _ => []) k.txQ kind c.2.2.2, lastKind := kind, ctlGap := k.ctlGap + 1 })).sendFlit l kind c.2.1 c.1 c.2.2.1)
  if s.links[l].st = .up then (go (256 - s.links[l].replay.length) s).idleLink l else s

/-- A frame or packet given to a link. -/
def State.toLink (s : State) (l : Fin 20) (kind : Nat) (mcast : Bool) (bytes : Bytes) : State :=
  (s.modLink l (fun k => { k with
    txQ := mset (fun _ => []) k.txQ kind (mget (fun _ => []) k.txQ kind ++ [⟨false, mcast, bytes⟩]) })).pumpLink l false

/-- Whether a link in UP takes the next frame or packet of a KIND: at most the last flit of the one before waits (R261). -/
def State.linkFree (s : State) (l : Fin 20) (kind : Nat) : Bool := s.links[l].st = .up && decide (s.links[l].waiting kind < 256)

/-- A control message in control flits: numbered and encrypted in UP, neither before (R247, R249). -/
def State.sendMsg (s : State) (l : Fin 20) (first : Bool) (parts : List Bytes) : State :=
  if s.links[l].st = .up then
    (s.modLink l (fun k => { k with ctlQ := if first then parts.map (fun b => (true, some b)) ++ k.ctlQ else k.ctlQ ++ parts.map (fun b => (false, some b)) })).pumpLink l false
  else forAll parts (fun b s =>
    let k := s.links[l]
    let f : Flit := ⟨flitHeader 6 k.fcOut.toNat none k.txSeq.toNat (k.rxSeq - 1).toNat, fillTo 256 b, 0, 0⟩
    s.send (.flit l.val { f with crc := flitCrc f })) s

/-- A control message sent on a link by name. -/
def State.sendCtl (s : State) (l : Fin 20) (name : String) (args : List Nat) : State :=
  (s.send (.ctl l.val name args)).sendMsg l (name = "RETRY") [ctlBytes name args]

end Sys2Proof.Machine
end

