-- ==== Sys2Proof/Machine/Send.lean ====
section
/-! DEFINITION. Sending: completion entries of the command interface (R302, R306, R313), packets of the fabric (R256, R264) and multicast copies (R266). -/

namespace Sys2Proof.Machine

/-! Completions -/

/-- The statuses of Table 11.3. -/
def stOk : Nat := 0x00
def stBusy : Nat := 0x01
def stInvalid : Nat := 0x02
def stNoResource : Nat := 0x03
def stAuthFail : Nat := 0x04
def stIntegrity : Nat := 0x05
def stContextFault : Nat := 0x06
def stTimeout : Nat := 0x07
def stEpochExpired : Nat := 0x08
def stBadOpcode : Nat := 0x09
def stAborted : Nat := 0x0A
def stHostIo : Nat := 0x0B

/-- Entries of a ring's CQ and SQ, from CTL_RING_CFG (Table 11.11). -/
def State.cqSize (s : State) (r : Fin 64) : Nat := fld (s.reg blkCTL 0x0418 r.val) 13 13
def State.sqSize (s : State) (r : Fin 64) : Nat := fld (s.reg blkCTL 0x0418 r.val) 0 13

/-- A completion entry's 32 bytes (Table 11.2). -/
def cqEntry (t : Taken) (status : Nat) (phase : Bool) (sqHead r0 r1 cause : Nat) : Bytes :=
  toLe 2 t.cmdId.toNat ++ toLe 1 status ++ toLe 1 (b2n phase) ++ toLe 2 sqHead ++ toLe 1 t.opcode.toNat ++ [0]
    ++ toLe 8 r0 ++ toLe 8 r1 ++ toLe 2 cause ++ List.replicate 6 0

/-- Whether a number of entries is one a ring may have (R299). -/
def ringSize (n : Nat) : Bool := [16, 32, 64, 128, 256, 512, 1024, 2048, 4096].contains n

/-- A ring enabled, if its configuration is valid (R299, R301): every index at 0, the next CQ entry with PHASE 1. The bases are aligned
by their registers' form. -/
def State.enableRing (s : State) (r : Fin 64) : State :=
  if ringSize (s.sqSize r) && ringSize (s.cqSize r) then s.modRing r (fun _ => { st := .active })
  else s.modRing r (fun g => { g with cfgStatus := 0x02 })

/-- A ring that drains becomes disabled when the last of its taken commands has completed (R303); an ENABLE written meanwhile then acts. -/
def State.drainRing (s : State) (r : Fin 64) : State :=
  if s.rings[r].st = .draining && !s.taken.any (fun t => t.ring = r) then
    let s := s.modRing r (fun g => { g with st := .disabled })
    if bit (s.reg blkCTL 0x0418 r.val) 63 then s.enableRing r else s
  else s

/-- A sticky bit of CTL_CMD_STICKY with its error and vector 69 (R313, R326). -/
def State.cmdSticky (s : State) (b cause : Nat) : State :=
  ((s.stick blkCTL 0x0430 (2 ^ b)).record blkCTL .none cause).raiseVec 69

/-- A taken entry completed (R302, R306): its completion entry written unless it is quiet and OK, with the cause that the error tables give: REFUSED
for BAD_OPCODE and INVALID (Table 11.13), REQ_FAIL for HOST_IO (Table 10.12), where no rule of the command names another. -/
def State.finish (s : State) (t : Taken) (status : Nat) (r0 r1 cause : Nat) : State :=
  let s := s.count blkCTL 0x0440
  let s := if status = stOk then s else s.count blkCTL 0x0448
  let s := if status = stBadOpcode ∨ status = stInvalid then s.cmdSticky 3 0x0004 else s
  let cause := if cause ≠ 0 then cause else if status = stBadOpcode ∨ status = stInvalid then 0x0004 else if status = stHostIo then 0x0803 else 0
  let s :=
    if t.quiet && status = stOk then s
    else
      let g := s.rings[t.ring]
      let s := s.sendHost (.cq t.ring g.cqTail (cqEntry t status g.phase g.sqHead r0 r1 cause))
      let wraps := g.cqTail + 1 = s.cqSize t.ring
      s.modRing t.ring (fun g => { g with cqTail := if wraps then 0 else g.cqTail + 1, phase := if wraps then !g.phase else g.phase })
  s.drainRing t.ring

/-- A started command completed, named by its number. -/
def State.complete (s : State) (id : Nat) (status : Nat) (r0 r1 cause : Nat := 0) : State :=
  match pull (fun t : Taken => t.id = id && t.begun) s.taken with
  | some (t, rest) => { s with taken := rest }.finish t status r0 r1 cause
  | none => s

/-! Packets (R256, R264) -/

/-- The 16-byte header of a packet (Table 9.6) and its payload. -/
def packetBytes (p : Packet) : Bytes :=
  toLe 2 p.dst.toNat ++ toLe 2 p.src.toNat ++ toLe 2 p.pseq.toNat ++ toLe 2 p.flags.toNat ++ toLe 1 p.typ.toNat ++ toLe 1 p.hops.toNat
    ++ toLe 2 p.injTime.toNat ++ toLe 4 p.word.toNat ++ p.payload

/-- This device's endpoint id and coordinate, from the injection bank (R258). -/
def State.ownEp (s : State) : BitVec 16 := s.fab.banks[s.fab.inj].ownEp

/-- INJ_TIME: bits [25:10] of the pod time (Table 9.6). -/
def State.injTime (s : State) : BitVec 16 := BitVec.ofNat 16 (fld s.podTime 10 16)

/-- FLAGS of a unicast packet before its injection: PAY_M1 (Table 9.6). -/
def pktFlags (len : Nat) : BitVec 16 := BitVec.ofNat 16 ((len / 64 - 1) % 64)

/-- A packet as it is injected, with the injection bank's epoch bit and INJ_TIME (Table 9.6, R259): until then it waits with both at 0. -/
def State.stamp (s : State) (p : Packet) : Packet := { p with flags := p.flags &&& ~~~0x40#16 ||| (BitVec.ofNat 16 s.fab.inj.val <<< 6), injTime := s.injTime }

/-- A twin link in UP. -/
def State.twinLink (s : State) : Option (Fin 20) := ([18, 19] : List (Fin 20)).find? (fun l => decide (s.links[l].st = .up))

/-- Whether a packet travels on a twin link, addressed to the twin without routing: HBM_WRITE (R387) and its ACK. -/
def twinBound (p : Packet) : Bool := p.typ = 0x0B || (p.typ = 0x02 && fld p.word 20 8 = 0x0B)

/-- The first free place of the retransmit region: 4,096 places of 4 KiB (R264, Table 17.2). -/
def State.freeSlot (s : State) : Nat :=
  let rec go : Nat → Nat → Nat
    | 0, k => k
    | n + 1, k => if s.fab.outst.any (fun o => o.slot = k) then go n (k + 1) else k
  go s.fab.outst.length 0

/-- Where a retained payload lies in HBM. -/
def retxPlace (slot : Nat) : Nat := retxBase + 4096 * slot

/-- A retained copy written, so that the packet's source may be emptied at once (R264). -/
def State.retain (s : State) (slot : Nat) (bs : Bytes) : State := (s.countHbm true (retxPlace slot) bs.length).pokeN (retxPlace slot) bs

/-- A packet with the next sequence number of its destination, given to injection and its copy kept (R264). -/
def State.inject1 (s : State) (p : Packet) (ag : Agent) (x : Option Nat) : State :=
  let q := mget (fun _ => 0) s.fab.pseq p.dst.toNat
  let slot := s.freeSlot
  let s := s.retain slot p.payload
  let p := { p with src := s.ownEp, pseq := q, flags := pktFlags p.payload.length, hops := 0, injTime := 0 }
  { s with fab := { s.fab with
      pseq := mset (fun _ => 0) s.fab.pseq p.dst.toNat (q + 1)
      outst := s.fab.outst ++ [⟨p, 0, s.podTime, ag, x, false, slot⟩]
      inject := s.fab.inject ++ [p] } }

/-- Whether the limits of R264 let a packet go, with the sequence numbers that await an ACK within 256 of each other (R265); no packet but the
twin's leaves before a first flip gives an endpoint id (R275). -/
def State.mayInject (s : State) (p : Packet) : Bool :=
  let q := mget (fun _ => 0) s.fab.pseq p.dst.toNat
  (twinBound p || decide (s.ownEp ≠ 0xFFFF)) && decide (s.fab.outst.length < 4096)
    && (s.fab.outst.filter (fun o => o.pkt.dst = p.dst)).all (fun o => decide ((q - o.pkt.pseq).toNat < 256))

/-- A unicast packet given to injection, or held back at a limit or behind another of its destination (R264). -/
def State.offer (s : State) (w : Packet × Agent × Option Nat) : State :=
  if s.mayInject w.1 && !s.fab.waiting.any (fun v => v.1.dst = w.1.dst) then s.inject1 w.1 w.2.1 w.2.2
  else { s with fab := { s.fab with waiting := s.fab.waiting ++ [w] } }

/-- A unicast packet sent (R264). -/
def State.sendPkt (s : State) (dst : BitVec 16) (typ : Nat) (word : BitVec 32) (payload : Bytes) (ag : Agent) (x : Option Nat) : State :=
  s.offer (⟨dst, 0, 0, 0, BitVec.ofNat 8 typ, 0, 0, word, payload⟩, ag, x)

/-- The packets held back that the limits now let go, those of one destination in order. -/
def State.drainInject (s : State) : State := forAll s.fab.waiting (fun w s => s.offer w) { s with fab := { s.fab with waiting := [] } }

/-- Whether a packet awaiting its ACK waits to be injected, again or for the first time. -/
def State.toInject (s : State) (o : OutPkt) : Bool := s.fab.inject.any (fun q => q.dst = o.pkt.dst && q.pseq = o.pkt.pseq && q.typ = o.pkt.typ)

/-- A packet with a bank's epoch bit has left this device's buffers or needs no ACK any more: the drain counter of the bank falls (R259). -/
def State.packetGone (s : State) (p : Packet) : State := { s with fab := { s.fab with busyAt := s.fab.busyAt.set (fld p.flags 6 1) s.podTime (by unfold fld; omega) } }

/-- A packet leaves injection (R256, R259, R264): it is transmitted now, with the epoch bit and the time of now; so is what awaits its ACK. -/
def State.injected (s : State) (p : Packet) : State :=
  let mine := fun (o : OutPkt) => o.pkt.dst = p.dst && o.pkt.pseq = p.pseq && o.pkt.typ = p.typ
  let s := match s.fab.outst.find? mine with
    | some o => if o.sends = 0 then s else s.packetGone o.pkt
    | none => s
  { s with fab := { s.fab with outst := s.fab.outst.map (fun o => if mine o then { o with pkt := s.stamp p, sends := max 1 o.sends, lastAt := s.podTime } else o) } }

/-- A message between Obinha instances, in a RIM_CTRL packet; its layout and its type are Obinha's own (Table 9.7, log entry 96). -/
def State.sendCtrlMsg (s : State) (dst : BitVec 16) (m : OutMsg) : State :=
  let (bs, s) := (s.send m).random 9
  s.sendPkt dst 0x0A (BitVec.ofNat 32 (leAt bs 64 4)) (bs.take 64) .obinha none

/-- 64 B of zeros, the payload of the packets that carry none (Table 9.7). -/
def zeros64 : Bytes := List.replicate 64 0

/-- A response packet: not sequenced towards an ACK of its own (Table 9.7). -/
def State.sendAck (s : State) (p : Packet) (code : Nat) : State :=
  let w := BitVec.ofNat 32 (p.pseq.toNat + put code 16 4 + put p.typ.toNat 20 8)
  let a : Packet := ⟨p.src, s.ownEp, 0, pktFlags 64, 0x02, 0, 0, w, zeros64⟩
  if s.ownEp = 0xFFFF && !twinBound a then s else { s with fab := { s.fab with inject := s.fab.inject ++ [a] } }

/-- The length of the originator's row (dimension 0) or column (1) (R266). -/
def State.mcLen (s : State) (col : Bool) : Nat :=
  if col then s.fab.banks[s.fab.inj].extY else s.fab.banks[s.fab.inj].extX

/-- The two copies of a multicast along a row or column; a copy with HOPS 0 is not sent (R266). -/
def State.multicast (s : State) (typ : Nat) (word : BitVec 32) (col : Bool) : State :=
  let l := s.mcLen col
  let base : Nat := 2 ^ 8 + put (b2n col) 9 1
  let copy := fun (dir hops : Nat) => if hops = 0 then [] else
    [(⟨0xFFFF, s.ownEp, 0, BitVec.ofNat 16 (base + put dir 10 1), BitVec.ofNat 8 typ, BitVec.ofNat 8 hops, 0, word, zeros64⟩ : Packet)]
  if s.ownEp = 0xFFFF then s
  else { s with fab := { s.fab with inject := s.fab.inject ++ copy 0 (l / 2) ++ copy 1 ((l - 1) / 2) } }

end Sys2Proof.Machine
end

