-- ==== Sys2Proof/Machine/Steps.lean ====
section
/-! DEFINITION. The steps of a rim's contexts (04_rim, 12_contexts_scheduling): step windows (R108), weight epochs in force (R119), the contexts whose plaits a partition keeps (R106, R339), the flips and pinned rows noted for them (R117, R120), and messages to the twin about its contexts (R383). -/

namespace Sys2Proof.Machine

/-! The twin -/

/-- Whether the device is paired (R382). -/
def State.paired (s : State) : Bool := s.twin.st = .paired

/-- A message to the twin on its first link in UP. -/
def State.sendTwin (s : State) (name : String) (args : List Nat) : State :=
  match s.twinLink with
  | some l => s.sendCtl l name args
  | none => s

/-- A pair record sent when it comes into being or changes (R383). -/
def State.pairRecord (s : State) (name : String) (args : List Nat) : State := if s.paired then s.sendTwin name args else s

/-- The record of a context: CTX_CREATE's arguments and regions (R383). -/
def State.ctxRecord (s : State) (id : Nat) : State :=
  match s.ctx? id with
  | some x => s.pairRecord "context record" ([id, x.part.val, b2n x.be, x.model, x.epoch, x.attr.toNat, x.seed.toNat, x.startStep.toNat]
      ++ x.regions.flatMap (fun g => [g.1, g.2]))
  | none => s

/-! Flips and pinned rows -/

/-- The pending flip of a context on a rim (R117), and the rim without it. -/
def Rim.flipOf (r : Rim) (id : Nat) : Option Flip := r.flips.find? (fun f => f.ctx = id)
def Rim.endFlip (r : Rim) (id : Nat) : Rim := { r with flips := r.flips.filter (fun f => f.ctx ≠ id) }

/-- The rim without a context's reports and verdicts of pinned rows for the steps that a test takes (R120). -/
def Rim.endPins (r : Rim) (id : Nat) (f : Word → Bool := fun _ => true) : Rim :=
  { r with pins := r.pins.filter (fun q => !(q.1 = id && f q.2.1)), duals := r.duals.filter (fun d => !(d.1 = id && f d.2.1)) }

/-- The runs of a rim: the present one, the one before it, and that of a pre-empted step that a flip's run has put behind them (R73, R337). -/
def Rim.runs (r : Rim) : List Run := r.run.toList ++ r.prev.toList ++ r.heldRun.toList

/-! Steps and weight epochs -/

/-- The step an abort names: the context's oldest step not completed. -/
def abortStep (x : Ctx) : Word := ((x.queue.find? (fun w => !w.task)).map (·.step)).getD x.nextStep

/-- Whether step a is at or below step b; step numbers wrap. -/
def stepLe (a b : Word) : Bool := decide ((b - a).toNat < 2 ^ 63)

/-- The consumption step of a context: the armed one, or the next to run. -/
def Ctx.cons (x : Ctx) : Word := x.armed.getD (abortStep x)

/-- The step number nearest the consumption step that has the given low 16 bits (R108). -/
def nearStep (cons : Word) (s16 : Nat) : Word :=
  let d := (s16 + 2 ^ 16 - fld cons 0 16) % 2 ^ 16
  if d < 2 ^ 15 then cons + BitVec.ofNat 64 d else cons - BitVec.ofNat 64 (2 ^ 16 - d)

/-- The step window: from the consumption step to 3 above it (R108). -/
def inWindow (cons t : Word) : Bool := decide ((t - cons).toNat ≤ 3)

/-- A dual verdict for a step (R120). -/
def Rim.dual (r : Rim) (id : Nat) (t : Word) : Bool := r.duals.any (fun d => d.1 = id && d.2.1 = t && d.2.2)

/-- The weight epochs in force for a step of a context (R119): a committed flip counts from its step F on. -/
def State.epochsAt (s : State) (id : Nat) (x : Ctx) (t : Word) : List Nat :=
  let r := s.rims[x.part]
  let old := match x.oldEpoch with
    | some e => if r.dual id t then [e] else []
    | none => []
  match r.flipOf id with
  | some f =>
    if f.verdict = some true && stepLe f.step t then f.epoch :: (if r.dual id t then [x.epoch] else [])
    else x.epoch :: old
  | none => x.epoch :: old

/-- The contexts whose plaits a partition keeps: its current and its outgoing ones (R106, R339). Once step H has completed and the images move,
the outgoing one counts no more unless its step is pre-empted. -/
def State.rimCtxs (s : State) (p : Fin 4) : List (Nat × Ctx) :=
  let q := s.parts[p]
  let here := q.running.toList ++ q.preempt.toList ++ q.outgoing.toList
  let ids := match q.switch with
    | .moving i => q.preempt.toList ++ i.toList
    | .through i _ => here ++ i.toList
    | _ => here
  ids.eraseDups.filterMap (fun i => (s.ctx? i).map (fun x => (i, x)))

/-- A landed plait's step, as the given context reads it. -/
def stepOfPlait (x : Ctx) (h : PHdr) : Word := nearStep x.cons h.step16

/-- The context of a partition to which a header's model, epoch and step belong, with the step. -/
def State.homeOf (s : State) (p : Fin 4) (h : PHdr) : Option (Nat × Ctx × Word) :=
  (s.rimCtxs p).findSome? (fun (id, x) =>
    let t := stepOfPlait x h
    if x.model = h.model && inWindow x.cons t && (s.epochsAt id x t).contains h.epoch then some (id, x, t) else none)

/-- What a rim records of a context's present steps: identities of its model from its consumption step on (R107, R108). -/
def Ctx.records (x : Ctx) (k : Ident) : Bool := k.model = x.model && inWindow x.cons k.step

end Sys2Proof.Machine
end

