-- ==== Sys2Proof/Machine/Sync.lean ====
section
/-! DEFINITION. The sync unit's shared operations (07_synchronisation): object words, translation, waits and wake-ups, held signals; the advance of an engine to its next instruction (R223); and the teardown of a context (R350, R351), which they can cause. -/

namespace Sys2Proof.Machine

/-! Engines -/

def Core.eng (k : Core) : Eng → Engine
  | .fetch => k.fet
  | .exec => k.exe

def Core.setEng (k : Core) (e : Eng) (g : Engine) : Core :=
  match e with
  | .fetch => { k with fet := g }
  | .exec => { k with exe := g }

def State.eng (s : State) (c : Fin 16) (e : Eng) : Engine := s.cores[c].eng e
def State.modEng (s : State) (c : Fin 16) (e : Eng) (f : Engine → Engine) : State :=
  s.modCore c (fun k => k.setEng e (f (k.eng e)))

/-- A scalar register, S0 reading 0 (R216). -/
def Engine.rd (g : Engine) (r : Nat) : Word := if r % 16 = 0 then 0 else g.sregs[r % 16]'(Nat.mod_lt _ (by decide))

/-- A scalar register written; a write to S0 changes nothing (R216). -/
def Engine.wr (g : Engine) (r : Nat) (v : Word) : Engine :=
  if r % 16 = 0 then g else { g with sregs := g.sregs.set (r % 16) v (Nat.mod_lt _ (by decide)) }

/-- The loops of an engine when the instruction at `pc` completes: each that ends there begins its next iteration or
completes in turn; the instruction to continue at, none for the one after `pc` (R223). -/
def loopEnd (pc : Nat) : List Loop → List Loop × Option Nat × Option (Nat × Nat)
  | [] => ([], none, none)
  | l :: r =>
    if l.last ≠ pc then (l :: r, none, none)
    else if l.iter + 1 < l.count then ({ l with iter := l.iter + 1 } :: r, some l.start, some (l.idxReg, l.iter + 1))
    else loopEnd pc r

/-- The engine past the instruction at `pc`. `free` is the instruction after the last of the memory, which the spec does not
state (log entry 3). -/
def Engine.past (g : Engine) (pc : Nat) (free : Word) : Engine :=
  let (ls, jump, idx) := loopEnd pc g.loops
  let g := match idx with
    | some (r, i) => g.wr r (BitVec.ofNat 64 i)
    | none => g
  let next : BitVec 12 := match jump with
    | some t => BitVec.ofNat 12 t
    | none => if pc + 1 < 4096 then BitVec.ofNat 12 (pc + 1) else free.setWidth 12
  { g with loops := ls, pc := next, st := .running, popped := none, got := [], lost := [] }

/-- Run-ahead cancelled: its prefetches are dropped unused, those over VCL counted again (R144). -/
def State.cancelAhead (s : State) (c : Fin 16) : State :=
  let l := s.cores[c].prefetch
  if l.isEmpty then s
  else
    let s := s.count (blkCore c) 0x0978 l.length
    let s := s.count (blkCore c) 0x0980 (l.filter (·.host)).length
    s.modCore c (fun k => { k with prefetch := [] })

/-- Whether an engine leaves a loop when the instruction at `pc` completes: run-ahead predicts that the innermost loop that ends there goes on
(R142). -/
def Engine.leavesLoop (g : Engine) (pc : Nat) : Bool :=
  match g.loops with
  | l :: _ => decide (l.last = pc) && !decide (l.iter + 1 < l.count)
  | [] => false

/-- An engine goes on past the instruction at `pc`, which counts as issued (Table 8.19). A fetch engine that leaves a loop leaves the path its
run-ahead predicted (R144). -/
def State.advanceFrom (s : State) (c : Fin 16) (e : Eng) (pc : Nat) : State :=
  if (s.cores[c].run).isNone then s
  else
  let s := if e = .fetch && (s.eng c e).leavesLoop pc then s.cancelAhead c else s
  let s := s.count (blkCore c) (match e with
    | .fetch => 0x0B20
    | .exec => 0x0B28)
  if pc + 1 < 4096 then s.modEng c e (fun g => g.past pc 0)
  else
    let (v, s) := s.draw
    s.modEng c e (fun g => g.past pc v)

/-- An engine goes on past its present instruction. -/
def State.advance (s : State) (c : Fin 16) (e : Eng) : State := s.advanceFrom c e (s.eng c e).pc.toNat

/-! Local queues and the handles that instructions push (R139 to R141, R221) -/

/-- The instruction an engine is at. -/
def Core.insnAt (k : Core) (e : Eng) : Insn :=
  match e with
  | .fetch => mget (fun _ => 0) k.imemF k.fet.pc.toNat
  | .exec => mget (fun _ => 0) k.imemE k.exe.pc.toNat

/-- A handle (Table 6.5). -/
def mkHandle (base len code src : Nat) : Word := BitVec.ofNat 64 (put base 0 14 + put len 14 14 + put code 28 4 + put src 32 4)

/-- A local queue of a core. -/
def Core.q (k : Core) (i : Nat) : LQueue := k.queues[i % 8]'(Nat.mod_lt _ (by decide))
def Core.setQ (k : Core) (i : Nat) (q : LQueue) : Core := { k with queues := k.queues.set (i % 8) q (Nat.mod_lt _ (by decide)) }

def LQueue.depth (q : LQueue) : Nat := q.depthM1.toNat + 1
def LQueue.limit (q : LQueue) : Nat := q.limitM1.toNat + 1
/-- Transfers outstanding to a queue. -/
def LQueue.owed (q : LQueue) : Nat := (q.slots.filter (fun x => match x with
  | .reserved _ => true
  | .entry .. => false)).length

/-- The pushes of a queue that can now take effect do, in issue order (R221). -/
def LQueue.settle (q : LQueue) : LQueue :=
  let rec go : List Push → List QSlot → List Push × List QSlot
    | [], sl => ([], sl)
    | p :: r, sl => match p.handle with
      | some h => if sl.length < q.depthM1.toNat + 1 then go r (sl ++ [.entry h 0 0]) else (p :: r, sl)
      | none => (p :: r, sl)
  let (ps, sl) := go q.pushes q.slots
  { q with pushes := ps, slots := sl }

/-- The queue that a completing instruction pushes to, if any (R221). -/
def pushQ (w : Insn) : Option (Fin 8) := if bit w 15 then some (Fin.ofNat 8 (fld w 12 3)) else none

/-- A push owed from issue on, under the instruction's id (R221). -/
def State.oweHandle (s : State) (c : Fin 16) (q : Option (Fin 8)) (id : Nat) : State :=
  match q with
  | some q => s.modCore c (fun k => k.setQ q { k.q q with pushes := (k.q q).pushes ++ [⟨id, none⟩] })
  | none => s

/-- A completed instruction's handle, pushed when its turn and room come (R221). -/
def State.payHandle (s : State) (c : Fin 16) (q : Option (Fin 8)) (id : Nat) (h : Word) : State :=
  match q with
  | some q => s.modCore c (fun k =>
      let l := k.q q
      k.setQ q { l with pushes := l.pushes.map (fun (p : Push) => if p.id = id then { p with handle := some h } else p) }.settle)
  | none => s

/-- BASE and LENGTH of the handle an instruction popped, with CODE and USER 0 (R221). -/
def poppedHandle (c : Fin 16) (h : Option Word) : Word :=
  match h with
  | some h => mkHandle (fld h 0 14) (fld h 14 14) 0 c.val
  | none => mkHandle 0 0 0 c.val

/-- An execute instruction that completes at once pushes its handle (R221) and the engine goes on. FSET, FCLR and TLOAD are taken to complete at their issue
(DESIGN CHOICE, log entry 102). -/
def State.doneNow (s : State) (c : Fin 16) (e : Eng) (w : Insn) : State :=
  match e with
  | .fetch => s.advance c e
  | .exec =>
    let id := s.cores[c].nextId
    let h := poppedHandle c s.cores[c].exe.popped
    let s := if bit w 15 then s.modCore c (fun k => { k with nextId := k.nextId + 1 }) else s
    (((s.oweHandle c (pushQ w) id).payHandle c (pushQ w) id h)).advance c e

/-! Object words (Tables 7.1 and 7.2) -/

/-- The kinds of sync object by physical or program index (Table 7.1). -/
inductive ObjKind where
  | pipe
  | flag
  | counter
  | barrier
deriving DecidableEq, Repr

def objKind (i : Nat) : ObjKind := if i < 768 then .pipe else if i < 8960 then .flag else if i < 16128 then .counter else .barrier

def State.obj (s : State) (i : Nat) : Word := mget (fun _ => 0) s.syn.objs i
def State.setObj (s : State) (i : Nat) (w : Word) : State := { s with syn := { s.syn with objs := mset (fun _ => 0) s.syn.objs i w } }

/-- A field of a word replaced. -/
def withFld (w : Word) (lo len v : Nat) : Word :=
  BitVec.ofNat 64 (w.toNat - put (fld w lo len) lo len + put v lo len)

/-- The bits every object of a context carries: ALLOC, PART, CSLOT, KIND (Table 7.2). -/
def objHead (part : Fin 4) (cslot : Fin 8) (kind : Nat) : Nat := 2 ^ 63 + put part.val 61 2 + put cslot.val 58 3 + put kind 56 2

/-- The context that owns an object word: the one resident under its CSLOT on its partition. -/
def State.ownerOf (s : State) (w : Word) : Option Nat :=
  if bit w 63 then
    (s.ctxs.find? (fun p => (p.2.st = .resident || p.2.st = .running) && p.2.part.val = fld w 61 2 && p.2.cslot.val = fld w 58 3)).map (·.1)
  else none

/-- A program index of a context on `p` cores from `f` on, translated (R188). -/
def translate (x : Ctx) (f p i : Nat) : Option Nat :=
  match objKind i with
  | .pipe => if i / 48 < p then some (48 * (f + i / 48) + i % 48) else none
  | .flag => match x.prog with
    | some g => if i - 768 < g.cflags then some (768 + x.cflagBase + (i - 768)) else none
    | none => none
  | .counter => match x.prog with
    | some g => if i - 8960 < g.ctrs then some (8960 + x.ctrBase + (i - 8960)) else none
    | none => none
  | .barrier => match x.prog with
    | some g => if i < 16384 && i - 16128 < g.bars.length then some (16128 + x.barBase + (i - 16128)) else none
    | none => none

/-- Translation for what runs on a core: a task has its one core (R188). -/
def State.translateOn (s : State) (c : Fin 16) (i : Nat) : Option Nat :=
  match s.cores[c].run with
  | some r => match s.ctx? r.ctx with
    | some x =>
      if r.task.isSome then translate x c.val 1 i
      else translate x s.parts[x.part].first s.parts[x.part].cores i
    | none => none
  | none => none

/-! Teardown (R350) -/

/-- A core after the teardown of the context on it (R150, R187, R244): its windows that were open are closed with their
generation advanced. -/
def Core.torn (k : Core) : Core :=
  { k with fet := {}, exe := {}, queues := Vector.replicate 8 {}, banks := Vector.replicate 2 {}, arrayQ := [], gate := .gated,
           groups := 0, readouts := [], vecQ := [], bindQ := [], bind := none, staging := none, xbuf := [], streams := [], puts := [],
           prefetch := [], spad := [], full := [], posted := [], run := none, leaving := none,
           wins := k.wins.map (fun w => if w.opened then { w with opened := false, gen := w.gen + 1 } else w) }

/-- A client's three counts (R349). -/
def State.client (s : State) (n : Nat) : Word × Word × Word := mget (fun _ => (0, 0, 0)) s.clients n
def State.modClient (s : State) (n : Nat) (f : Word × Word × Word → Word × Word × Word) : State :=
  { s with clients := mset (fun _ => (0, 0, 0)) s.clients n (f (s.client n)) }

/-- A unit of work completed, its client's count raised (R349): Completed for OK and EPOCH_EXPIRED, Torn down for CONTEXT_FAULT
and ABORTED. -/
def State.finishWork (s : State) (w : Work) (status r0 r1 cause : Nat) : State :=
  let s := s.complete w.cmd status r0 r1 cause
  s.modClient w.client (fun c =>
    if status = stOk ∨ status = stEpochExpired then (c.1, satAdd c.2.1 1, c.2.2)
    else if status = stContextFault ∨ status = stAborted then (c.1, c.2.1, satAdd c.2.2 1) else c)

/-- The answer to a held signal: RSIG_DONE to its sender (R206, R207). -/
def State.rsigDone (s : State) (h : Held) (code : Nat) : State :=
  s.sendPkt h.src 0x04 (BitVec.ofNat 32 (h.pseq.toNat + put code 16 4)) zeros64 .sync none

/-- Held signals that a test takes leave the table, each answered with a code. -/
def State.refuseHeld (s : State) (f : Held → Bool) (code : Nat) : State :=
  let gone := s.syn.held.filter f
  forAll gone (fun h s => s.rsigDone h code) { s with syn := { s.syn with held := s.syn.held.filter (fun h => !f h) } }

/-- A decode-table slot of a partition (Table 3.3). -/
def State.tslot (s : State) (p : Fin 4) (t : Nat) : TSlot := mget (fun _ => {}) s.tslots[p] t
def State.setTslot (s : State) (p : Fin 4) (t : Nat) (d : TSlot) : State :=
  { s with tslots := s.tslots.set p (mset (fun _ => {}) s.tslots[p] t d) }

/-- A reference to a decode-table slot given back (R71). -/
def State.unrefSlot (s : State) (p : Fin 4) (t : Nat) : State := s.setTslot p t { s.tslot p t with refs := (s.tslot p t).refs - 1 }

/-- A landed plait's reference to its decode-table slot given back (R71). -/
def State.unref (s : State) (p : Fin 4) (l : Landed) : State := if l.refs then s.unrefSlot p (hdrOf l.bytes).tslot else s

/-- Landed plaits that a test takes are no longer kept: those still to be forwarded stay until they are, the others are
released (R106). -/
def State.dropLanded (s : State) (p : Fin 4) (f : Landed → Bool) : State :=
  let hit := s.rims[p].landed.filter (fun l => l.kept && f l)
  let s := forAll hit (fun l s => s.unref p l) s
  s.modRim p (fun r =>
    let out := r.landed.filter (fun l => l.kept && f l && !l.forward && l.inRing)
    { r with ringUsed := r.ringUsed - (out.map (fun l => l.bytes.length)).sum
             landed := (r.landed.filter (fun l => !(l.kept && f l && !l.forward))).map
               (fun l => if l.kept && f l then { l with kept := false, refs := false } else l) })

/-- Landed plaits and recorded identities that belong to no context of a partition any more are given up (R106). -/
def State.dropStrangers (s : State) (p : Fin 4) : State :=
  let s := s.dropLanded p (fun l => (s.homeOf p (hdrOf l.bytes)).isNone)
  let xs := s.rimCtxs p
  s.modRim p (fun r => { r with kept := r.kept.filter (fun k => xs.any (fun c => c.2.records k)) })

/-- Whether a context is a rim context: it has a model and its partition belongs to a rim. -/
def State.isRimCtx (s : State) (x : Ctx) : Bool := x.model ≠ 0xFFFF && s.rims[x.part].phase ≠ .none

/-- The endpoint ids of the other members of a rim. -/
def Rim.others (r : Rim) : List (BitVec 16) := (r.members.zipIdx.filter (fun m => m.2 ≠ r.own)).map (·.1)

/-- The abort of R114 sent to every other member of a partition's rim (Table 9.7). -/
def State.sendAbort (s : State) (p : Fin 4) (model : Nat) (step : Word) : State :=
  let r := s.rims[p]
  let pay := toLe 4 r.digest.toNat ++ toLe 2 model ++ [0, 0] ++ toLe 8 step.toNat ++ List.replicate 48 0
  forAll r.others (fun m s => s.sendPkt m 0x09 (BitVec.ofNat 32 (r.own % 64)) pay (.rim p) none) s

/-- The release packets of a pod barrier: along the row or the column, or along the row with each device, home among them,
going on along its column (R202, R266). -/
def State.sendRelease (s : State) (w : Word) (broken : Bool) : State :=
  let b := fld w 24 10 + put (b2n broken) 10 1
  match fld w 38 2 with
  | 1 => s.multicast 0x07 (BitVec.ofNat 32 b) false
  | 2 => s.multicast 0x07 (BitVec.ofNat 32 b) true
  | 3 => (s.multicast 0x07 (BitVec.ofNat 32 (b + 2 ^ 11)) false).multicast 0x07 (BitVec.ofNat 32 b) true
  | _ => s

/-- The breaks of R203: one packet to the home of each pod barrier the context holds; at home itself the broken release goes out. -/
def State.sendBreaks (s : State) (x : Ctx) : State :=
  match x.prog with
  | some g => forAll (List.range g.bars.length) (fun i s =>
      let w := s.obj (16128 + x.barBase + i)
      if fld w 38 2 = 0 then s
      else if fld w 40 16 = s.ownEp.toNat then s.sendRelease w true
      else s.sendPkt (BitVec.ofNat 16 (fld w 40 16)) 0x06 (BitVec.ofNat 32 (fld w 24 10)) zeros64 .sync none) s
  | none => s

/-- The sync ranges of a resident context returned to the reset state (R189, R210). -/
def State.freeObjs (s : State) (x : Ctx) : State :=
  match x.prog with
  | some g =>
    let idx := (List.range g.cflags).map (768 + x.cflagBase + ·) ++ (List.range g.ctrs).map (8960 + x.ctrBase + ·)
      ++ (List.range g.bars.length).map (16128 + x.barBase + ·)
    forAll idx (fun i s => s.setObj i 0) s
  | none => s

/-- The pipeline flags of a core returned to the reset state. -/
def State.freePipe (s : State) (c : Fin 16) : State := forAll (List.range 48) (fun i s => s.setObj (48 * c.val + i) 0) s

/-- Whether a context holds resident resources. -/
def Ctx.isRes (x : Ctx) : Bool := x.st = .resident || x.st = .running

/-- A context leaves its partition's running, pre-empted, outgoing and incoming places; a switch that waited for its boundary waits no longer. -/
def State.leavePart (s : State) (p : Fin 4) (id : Nat) : State :=
  s.modPart p (fun q => { q with
    running := if q.running = some id then none else q.running
    preempt := if q.preempt = some id then none else q.preempt
    outgoing := if q.outgoing = some id then none else q.outgoing
    next := q.next.filter (· ≠ id)
    switch := match q.switch with
      | .idle => .idle
      | .awaiting i r => if q.running = some id then .through i 0 else .awaiting (if i = some id then none else i) r
      | .through i h => .through (if i = some id then none else i) h
      | .moving i => .moving (if i = some id then none else i) })

/-- What a context holds on the device released (R209, R210, R350): its waits, its cores, its objects and held signals, its parked entries and
handle queues, its landed plaits and what the rim keeps of its step. -/
def State.release (s : State) (id : Nat) (x : Ctx) : State :=
  let p := x.part
  let mine := allCores.filter (fun c => decide (s.ctxOn c = some id))
  -- 1, 2: engines stop, the cores are emptied
  let s : State := { s with syn := { s.syn with waits := s.syn.waits.filter (fun w => !mine.contains w.core) } }
  -- 3: objects, held signals, parked entries, handle queues, windows
  let s := if x.isRes then s.freeObjs x else s
  let s := forAll mine (fun c s => s.freePipe c) s
  let s := s.refuseHeld (fun h => h.ctx = id) 1
  let s : State := { s with syn := { s.syn with
      parked := s.syn.parked.filter (fun k => k.ctx ≠ id)
      ghq := s.syn.ghq.map (fun q => if q.owner = some id then {} else q) } }
  let s := forAll mine (fun c s => forAll (s.cores[c].xbuf.filterMap (·.ref)) (fun t s => s.unrefSlot p t) s) s
  let s := forAll mine (fun c s => (s.cancelAhead c).modCore c Core.torn) s
  -- 4: landed plaits and the pre-empted step
  let home := fun (l : Landed) => (s.homeOf p (hdrOf l.bytes)).map (·.1)
  let s := s.dropLanded p (fun l => home l = some id || home l = none)
  let keep := fun (k : Ident) => !x.records k
  let quiet := fun (u : Run) => if u.ctx = id then { u with sent := true, ready := false } else u
  s.modRim p (fun r => { r.endPins id with
    runReps := r.runReps.filter (fun k => k.1.1 ≠ id), early := r.early.filter (fun e => e.1 ≠ id)
    timers := if s.parts[p].running = some id then [] else r.timers, failed := r.failed.filter (fun k => k % 2 ^ 16 ≠ x.model)
    kept := r.kept.filter keep, decoded := r.decoded.filter keep, injected := r.injected.filter keep
    run := r.run.map quiet, prev := r.prev.map quiet, heldRun := r.heldRun.map quiet })

/-- Whether a command on a context is in progress (Table 11.4, Table 11.5). -/
def State.hasCmd (s : State) (id : Nat) : Bool :=
  s.taken.any (fun t => [0x25, 0x30, 0x31, 0x32, 0x33, 0x34, 0x40, 0x41, 0x62].contains t.opcode.toNat && decide (fld t.args 0 16 = id))

/-- The teardown of a context, without its error record (R350, R210). `peers` sends the abort of R351. -/
def State.tearDown (s : State) (id : Nat) (cause : Nat) (peers : Bool := true) : State :=
  match s.ctx? id with
  | none => s
  | some x =>
    if x.st = .faulted then s
    else
      let p := x.part
      let quiet := !s.hasCmd id
      let s := (if x.isRes then s.sendBreaks x else s).release id x
      -- R351: the abort goes to the other members at once
      let s := if peers && s.isRimCtx x then s.sendAbort p x.model (abortStep x) else s
      -- 5: its work completes
      let s := forAll x.queue (fun w s => s.finishWork w stContextFault (if w.task then 0 else w.step.toNat) 0 cause) s
      let s := match s.rims[p].flipOf id with
        | some f => (s.modRim p (fun r => r.endFlip id)).complete f.cmd stContextFault 0 0 cause
        | none => s
      let s := if quiet then s.raiseVec 64 else s
      -- 6: the context is Faulted
      let s := s.setCtx id { x with st := .faulted, queue := [], img := none, imgAt := .none, imgBase := 0, ghqs := [], prog := none, armed := none, cause := cause }
      s.leavePart p id

/-- A class K fault of a context: recorded in a block with its cause, then the teardown. -/
def State.faultCtx (s : State) (id blk cause : Nat) : State := (s.record blk .k cause (s.errCtx (some id))).tearDown id cause

/-- A fault of what runs on a core, a class K error in a block. -/
def State.faultOn (s : State) (c : Fin 16) (blk cause : Nat) : State :=
  match s.ctxOn c with
  | some x => s.faultCtx x blk cause
  | none => s

/-- A sync fault: a sticky bit of SYN_STICKY, the error in the SYN block, the context torn down (R213). -/
def State.syncFault (s : State) (x : Option Nat) (b cause : Nat) : State :=
  let s := s.stick blkSYN 0x0208 (2 ^ b)
  match x with
  | some x => s.faultCtx x blkSYN cause
  | none => s

/-! Waits -/

/-- Whether a counter or window count has reached a threshold, modulo 2^32 (R195). -/
def reached (count thr : BitVec 32) : Bool := !bit (count - thr) 31

/-- The condition of a registered wait that consumes nothing. -/
def State.waitMet (s : State) (w : SyncWait) : Bool :=
  match w.kind with
  | .flagTake i => bit (s.obj i) 0
  | .flagTest i => bit (s.obj i) 0
  | .counter i t => reached ((s.obj i).setWidth 32) t
  | .window n t => reached s.cores[w.core].wins[n].count t
  | .barrier i ph => bit (s.obj i) 35 != ph

/-- The takes among registered waits, in the order of arrival: each that finds its flag set returns and clears it (R194). -/
def serveTakes : List SyncWait → State → List SyncWait × State
  | [], s => ([], s)
  | w :: r, s =>
    match w.kind with
    | .flagTake i =>
      if bit (s.obj i) 0 then serveTakes r ((s.setObj i (withFld (s.obj i) 0 1 0)).doneNow w.core w.eng (s.cores[w.core].insnAt w.eng))
      else
        let (kept, s) := serveTakes r s
        (w :: kept, s)
    | _ =>
      let (kept, s) := serveTakes r s
      (w :: kept, s)

/-- Whether a wait is a take. -/
def SyncWait.isTake (w : SyncWait) : Bool :=
  match w.kind with
  | .flagTake _ => true
  | _ => false

/-- A wait in terms of program indices, so that it holds wherever the context's objects lie next (R209). -/
def SyncWait.shift (x : Ctx) (f : Nat → Nat → Nat) (w : SyncWait) : SyncWait :=
  let mv := fun (i : Nat) => match objKind i with
    | .pipe => i
    | .flag => f i x.cflagBase
    | .counter => f i x.ctrBase
    | .barrier => f i x.barBase
  { w with kind := match w.kind with
      | .flagTake i => .flagTake (mv i)
      | .flagTest i => .flagTest (mv i)
      | .counter i t => .counter (mv i) t
      | .barrier i ph => .barrier (mv i) ph
      | k => k }

/-- Whether a sync wait that a saved context holds is satisfied now (R345). Its pipeline flags lie in its image. -/
def State.savedMet (s : State) (id : Nat) (x : Ctx) (w : SyncWait) : Bool :=
  let w := w.shift x (fun i b => i + b)
  match w.kind with
  | .window n t => s.syn.parked.any (fun k => k.ctx = id && k.core = w.core && k.win = n && reached k.count t)
  | .flagTake i | .flagTest i => decide (objKind i ≠ .pipe) && s.waitMet w
  | _ => s.waitMet w

/-- Whether a saved engine that waits at a global handle queue of its context could go on now (R170, R345). -/
def State.savedPop (s : State) (id : Nat) (x : Ctx) : Bool :=
  ((x.img.getD {}).cores.zipIdx).any (fun k =>
    let g := k.1.1.fet
    let w := (((x.prog.map (·.fet)).getD [])[g.pc.toNat]?).getD 0
    let live := allCores.any (fun c => s.ctxOn c = some id && c.val = s.parts[x.part].first + k.2)
    !live && (g.st = .waitQueue || g.st = .lull) && bit w 20
      && (match (x.ghqs[fld w 21 6]?).map (fun q => (s.syn.ghq[q % 64]'(Nat.mod_lt _ (by decide))).entries.length) with
        | some n => (fld w 0 8 = 0x19 && decide (0 < n)) || (fld w 0 8 = 0x18 && decide (n < 32))
        | none => false))

/-- The contexts whose saved waits a change has satisfied noted: Obinha learns of them from the sync unit (R345). -/
def State.noteMet (s : State) : State :=
  { s with ctxs := s.ctxs.map (fun x =>
      if x.2.img.isNone || x.2.met then x
      else (x.1, { x.2 with met := ((x.2.img.map (·.waits)).getD []).any (s.savedMet x.1 x.2) || s.savedPop x.1 x.2 })) }

/-- Every wait that holds now returns: first those that consume nothing, then the takes (R194, R197, R199). -/
def State.serveWaits (s : State) : State :=
  let s := s.noteMet
  let free := s.syn.waits.filter (fun w => !w.isTake && s.waitMet w)
  let rest := s.syn.waits.filter (fun w => w.isTake || !s.waitMet w)
  let s := forAll free (fun w s => s.doneNow w.core w.eng (s.cores[w.core].insnAt w.eng)) s
  let (kept, s) := serveTakes rest s
  { s with syn := { s.syn with waits := kept } }

/-! Operations on objects (R192 to R203) -/

/-- Whether a context holds the STRICT_SYNC attribute (R193). -/
def State.strictSync (s : State) (x : Option Nat) : Bool :=
  match x with
  | some x => match s.ctx? x with
    | some k => bit k.attr 1
    | none => false
  | none => false

/-- An overrun of a flag (R193). -/
def State.overrun (s : State) (i : Nat) : State :=
  let w := s.obj i
  let own := s.ownerOf w
  let s := s.setObj i (withFld w 1 1 1)
  let s := (s.stick blkSYN 0x0200 (2 ^ fld w 61 2)).count blkSYN 0x0210
  match own with
  | some x => if s.strictSync own then s.faultCtx x blkSYN 0x0201 else s.record blkSYN .none 0x0201 (s.errCtx own)
  | none => s.record blkSYN .none 0x0201

/-- Set on a flag, arrive on a counter, whichever of the two the operation is called (R192, R193, R195). `by_` is the context that
a barrier in its place faults (R198). -/
def State.syncSet (s : State) (i : Nat) (by_ : Option Nat) : State :=
  match objKind i with
  | .pipe | .flag => if bit (s.obj i) 0 then s.overrun i else (s.setObj i (withFld (s.obj i) 0 1 1)).serveWaits
  | .counter => (s.setObj i (withFld (s.obj i) 0 32 ((fld (s.obj i) 0 32 + 1) % 2 ^ 32))).serveWaits
  | .barrier => s.syncFault by_ 2 0x0204

/-- Clear on a flag or a counter (R192, R195). -/
def State.syncClear (s : State) (i : Nat) : State :=
  match objKind i with
  | .pipe | .flag => s.setObj i (withFld (s.obj i) 0 2 0)
  | .counter => (s.setObj i (withFld (s.obj i) 0 32 0)).serveWaits
  | .barrier => s

/-- A barrier released on this device (R201, R202). -/
def State.barRelease (s : State) (i : Nat) : State :=
  let w := s.obj i
  (s.setObj i (withFld (withFld w 0 12 0) 35 1 (1 - fld w 35 1))).serveWaits

/-- An arrival counted at a local barrier or at the home of a pod barrier (R201, R202): the home toggles before it sends. -/
def State.barCount (s : State) (i : Nat) : State :=
  let w := s.obj i
  if fld w 0 12 = fld w 12 12 then (s.barRelease i).sendRelease w false
  else s.setObj i (withFld w 0 12 (fld w 0 12 + 1))

/-- Whether a barrier is counted on this device. -/
def State.atHome (s : State) (w : Word) : Bool := fld w 38 2 = 0 || fld w 40 16 = s.ownEp.toNat

/-- An arrival of a context at a barrier (R201 to R203). -/
def State.barArrive (s : State) (i : Nat) (by_ : Option Nat) : State :=
  let w := s.obj i
  if bit w 34 then s.syncFault by_ 3 0x0205
  else if s.atHome w then s.barCount i
  else s.sendPkt (BitVec.ofNat 16 (fld w 40 16)) 0x05 (BitVec.ofNat 32 (fld w 24 10)) zeros64 .sync none

/-- A barrier becomes broken: every waiter faults its context (R203), one whose wait was withdrawn by a save too. -/
def State.barBroken (s : State) (i : Nat) : State :=
  let s := s.setObj i (withFld (s.obj i) 34 1 1)
  let hit := s.syn.waits.filter (fun w => match w.kind with
    | .barrier j _ => decide (j = i)
    | _ => false)
  let s := forAll hit (fun w s => s.syncFault (s.ctxOn w.core) 3 0x0205) s
  let saved := s.ctxs.filter (fun x => x.2.isRes && ((x.2.img.map (·.waits)).getD []).any (fun w => match (w.shift x.2 (fun i b => i + b)).kind with
    | .barrier j _ => decide (j = i)
    | _ => false))
  forAll saved (fun x s => s.syncFault (some x.1) 3 0x0205) s

/-- The barrier of this device with a HOME and TAG, if a context holds one. -/
def State.barOf (s : State) (home : BitVec 16) (tag : Nat) : Option Nat :=
  (s.syn.objs.find? (fun p => objKind p.1 = .barrier && bit p.2 63 && fld p.2 38 2 ≠ 0 && fld p.2 40 16 = home.toNat && fld p.2 24 10 = tag)).map (·.1)

/-! Held signals (R205, R206) -/

/-- The arrival counter a held signal is compared against: the core's while its context runs there, else the parked one (R205). -/
def State.heldCount (s : State) (h : Held) : Option (BitVec 32) :=
  let w := s.cores[h.core].wins[h.win]
  if s.ctxOn h.core = some h.ctx then (if w.opened && w.gen = h.gen then some w.count else none)
  else (s.syn.parked.find? (fun k => k.core = h.core && k.win = h.win && k.ctx = h.ctx && k.gen = h.gen)).map (·.count)

/-- Whether a held signal's gate is met. -/
def State.gateMet (s : State) (h : Held) : Bool :=
  h.met || (match s.heldCount h with
    | some c => reached c h.gate
    | none => false)

/-- The object a held signal names: a context flag or counter of its context, while that context is resident (R204, R205). -/
def State.heldTarget (s : State) (h : Held) : Option Nat :=
  match s.ctx? h.ctx with
  | some x => if x.isRes && (objKind h.target = .flag || objKind h.target = .counter) then translate x 0 0 h.target else none
  | none => none

/-- Every held signal whose gate is met fires, in the table's order; one whose context is not resident is marked and fires at
residency (R205, R332). -/
def State.fireHeld (s : State) : State :=
  let rec go : Nat → State → State
    | 0, s => s
    | n + 1, s =>
      match pull (fun h => s.gateMet h && (s.heldTarget h).isSome) s.syn.held with
      | some (h, rest) =>
        let i := (s.heldTarget h).getD 0
        let s : State := { s with syn := { s.syn with held := rest } }
        let s := if h.kept then s.count blkSYN 0x0258 else s
        go n ((s.rsigDone h 0).syncSet i (some h.ctx))
      | none => s
  let s := go s.syn.held.length s
  { s with syn := { s.syn with held := s.syn.held.map (fun h => { h with met := s.gateMet h, kept := true }) } }

/-! Forced writes (R211) -/

/-- Whether a forced write's request is well-formed for the kind of its object and the object belongs to a context. -/
def State.forceOk (s : State) (a : ForceArgs) : Bool :=
  let i := a.index.toNat
  let w := s.obj i
  decide (i ≤ 16383) && bit w 63 &&
    (match a.op.toNat, objKind i with
     | 0, .pipe | 0, .flag | 1, .pipe | 1, .flag => a.value = 0
     | 2, .counter => true
     | 3, .barrier => decide (a.value.toNat ≤ fld w 12 12)
     | 4, .barrier => a.value = 0
     | _, _ => false)

/-- What a forced write does to its object. -/
def State.forceApply (s : State) (a : ForceArgs) : State :=
  let i := a.index.toNat
  let w := s.obj i
  match a.op.toNat with
  | 0 => (s.setObj i (withFld w 0 1 1)).serveWaits
  | 1 => s.syncClear i
  | 2 => (s.setObj i (withFld w 0 32 a.value.toNat)).serveWaits.fireHeld
  | 3 => s.setObj i (withFld w 0 12 a.value.toNat)
  | _ => let s := s.barRelease i
         if s.atHome w then s.sendRelease w false else s

/-- A forced write: audited in every case, applied when it is not refused (R211). -/
def State.force (s : State) (a : ForceArgs) (mgt : Bool) : Bool × State :=
  let ok := s.forceOk a
  let s := (s.stick blkSYN 0x0208 (2 ^ 4)).count blkSYN 0x0238
  let s := s.setReg blkSYN 0x0240 (BitVec.ofNat 64 (a.index.toNat % 2 ^ 14 + put a.op.toNat 44 3 + put (b2n mgt) 47 1 + put (b2n ok) 48 1))
  (ok, if ok then s.forceApply a else s)

end Sys2Proof.Machine
end

