-- ==== Sys2Proof/Machine/Almanac.lean ====
section
/-! DEFINITION. The almanac (R413 to R416): the record of Table 15.5, its writes and the events that cause them. -/

namespace Sys2Proof.Machine

/-- The calendar (R418): UTC in nanoseconds, none while unknown. -/
def State.utc (s : State) : Option Word := s.hkp.cal.map (fun c => c.1 + (s.podTime - c.2))

/-- A reading in degrees as a signed byte, saturating (R413; log entry 110). -/
def clamp8 (v : Int) : Int := max (-128) (min 127 v)

/-- A record of the almanac (Table 15.5) with a number and a reason; UTC_S is the last known UTC. -/
def State.almRecord (s : State) (seq reason : Nat) : Bytes :=
  let t := s.hkp.totals
  let sat := fun (n v : Nat) => toLe n (min v (256 ^ n - 1))
  let utc := match s.utc with
    | some u => u.toNat / 1000000000
    | none => s.hkp.almUtc
  let body := toLe 2 0x414D ++ [1, BitVec.ofNat 8 reason] ++ toLe 4 0 ++ toLe 8 seq ++ toLe 8 utc ++ sat 8 t.powerOnS ++ sat 8 t.cycles
    ++ sat 8 t.fwLoads ++ sat 8 t.linkErrs ++ sat 4 t.dFaults ++ [BitVec.ofInt 8 (clamp8 t.peak)] ++ toLe 3 0
    ++ s.hkp.age.toList.flatMap (fun a => sat 4 (a / 2 ^ 32 / 225)) ++ List.replicate 76 0
  body ++ toLe 4 (crc32c body).toNat

/-- The position after another one (R415). -/
def almNext (pos : Nat) : Nat := (pos + 1) % 512

/-- What a write leaves of the records: the sector of a first position it tries is erased before, and what it has tried is no record (R415). A read
meanwhile still finds the records as they stood before the write began (R417), so they go when it ends. -/
def almErased (tried : List Nat) (alm : SMap Bytes) : SMap Bytes :=
  alm.filter (fun r => !tried.any (fun p => p = r.1 || (p % 16 = 0 && p / 16 = r.1 / 16)))

/-- A write of the almanac begun at the position after the last (R415). -/
def State.almBegin (s : State) (reason : Nat) : State :=
  { s with hkp := { s.hkp with almWrite := some ⟨reason, s.almRecord (s.hkp.almSeq + 1) reason, almNext s.hkp.almPos, 0, []⟩, almHot := true } }

/-- An event that the almanac records: within 10 s of the previous write it is held, the latest reason standing (R415). -/
def State.almEvent (s : State) (reason : Nat) : State :=
  if s.hkp.almHot || s.hkp.almWrite.isSome then { s with hkp := { s.hkp with almHeld := some reason } } else s.almBegin reason

/-- A fall of PWR_OK, written at once whatever is held (R415). -/
def State.almPwrOk (s : State) : State :=
  if s.hkp.almWrite.isSome then { s with hkp := { s.hkp with almNow := true } } else s.almBegin 5

/-- The write that a held event waits for, once the 10 s have ended and no write is under way. -/
def State.almServe (s : State) : State :=
  if s.hkp.almWrite.isSome then s
  else if s.hkp.almNow then ({ s with hkp := { s.hkp with almNow := false } } : State).almBegin 5
  else match s.hkp.almHeld with
    | some r => if s.hkp.almHot then s else ({ s with hkp := { s.hkp with almHeld := none } } : State).almBegin r
    | none => s

/-- Whether a record read back from the almanac is valid (R416). -/
def almValid (r : Bytes) : Bool := r.length = 256 && leAt r 0 2 = 0x414D && leAt r 252 4 == (crc32c (r.take 252)).toNat

/-- The latest valid records, newest first, at most 16 (R417). -/
def State.almLatest (s : State) : List Bytes :=
  let l := (s.hkp.alm.map (·.2)).filter almValid
  let rec go : Nat → List Bytes → List Bytes
    | 0, _ => []
    | n + 1, l =>
      match minBy (fun r => 2 ^ 64 - leAt r 8 8) l with
      | some r => r :: go n (l.filter (· ≠ r))
      | none => []
  go 16 l

/-- The calendar set (R418): UTC at a pod time; one more than 3,600 s before the almanac's UTC_S sets TIME_BACK. -/
def State.setCal (s : State) (utc at_ : Word) : State :=
  let s : State := { s with hkp := { s.hkp with cal := some (utc, at_) } }
  let now := (utc + (s.podTime - at_)).toNat / 1000000000
  let s := if now + 3600 < s.hkp.almUtc then (s.stick blkHKP 0x0240 8).record blkHKP .none 0x0A02 else s
  s.almEvent 4

/-- A flit error or a lost link counted in LINK_ERRS (R413). -/
def State.linkErr1 (s : State) : State := { s with hkp := { s.hkp with totals := { s.hkp.totals with linkErrs := s.hkp.totals.linkErrs + 1 } } }

end Sys2Proof.Machine
end

