-- ==== Sys2Proof/Machine/Hbm.lean ====
section
/-! DEFINITION. HBM and errors of the device: reads and writes of HBM with failing lines (R377), the controllers' byte counters (R168, R397), the device stop of class D (R379) and the partition fault of class P (R378). -/

namespace Sys2Proof.Machine

/-! Class D and class P -/

/-- A link without its keys and without what waits to be sent under them. -/
def Link.keyless (k : Link) : Link := { k with ephKey := [], secret := [], tx := {}, rx := {}, txQ := [], ctlQ := [] }

/-- Every key but the fused secrets erased (R355). -/
def State.eraseKeys (s : State) : State :=
  { s with sec := { s.sec with contentKeys := [], aliasKey := [], aliasCert := [], storageKey := [] }, links := s.links.map Link.keyless }

/-- No packet or frame goes out any more (R379). -/
def State.silence (s : State) : State := { s with links := s.links.map (fun k => { k with txQ := [] }) }

/-- A departure message on every twin link in UP (R379, R384). -/
def State.sendDeparture (s : State) : State :=
  forAll [18, 19] (fun i s => if s.links[i].st = .up then s.sendCtl i "departure" [] else s) s

/-- A class D fault noted: recorded, counted in the almanac's totals, and the almanac written (R380, R413, R415). -/
def State.noteD (s : State) (blk cause : Nat) : State :=
  let s := s.record blk .d cause
  ({ s with hkp := { s.hkp with totals := { s.hkp.totals with dFaults := s.hkp.totals.dFaults + 1 } } } : State).almEvent 2

/-- A class D fault: recorded, vector 64, the almanac written (R415), a departure message sent in place of what waited on the links, keys erased,
commands in progress lost, everything stopped (R379). -/
def State.stopDevice (s : State) (blk cause : Nat) : State :=
  let s := (s.noteD blk cause).raiseVec 64
  ({ s.silence.sendDeparture.eraseKeys with stopped := true, taken := [] } : State).stateEvent

/-- A class P fault: recorded, vector 64, every context of the partition torn down (R378). -/
def State.partFault (s : State) (p : Fin 4) (blk cause : Nat) : State :=
  let s := (s.record blk .p cause).raiseVec 64
  forAll ((s.ctxs.filter (fun x => x.2.part = p && x.2.st ≠ .faulted)).map (·.1)) (fun x s => s.tearDown x cause false) s

/-! HBM traffic (R168, R397) -/

/-- Whether every line of a range that lies in a block of 512 B has been read ahead (R144). -/
def readAhead (ahead : List (Nat × Nat)) (a n b : Nat) : Bool :=
  (List.range 8).all (fun i =>
    let l := 512 * b + 64 * i
    decide (l + 64 ≤ a) || decide (a + n ≤ l) || ahead.any (fun f => decide (f.1 ≤ l) && decide (l + 64 ≤ f.1 + f.2)))

/-! Lines that fail (R377) -/

/-- Whether a line could be read, at once or in the reread. -/
def lineReads (k : LineKind) : Bool :=
  match k with
  | .corrected | .reread .. => true
  | _ => false

/-- A line that the stack's ECC corrected. -/
def State.lineCorrected (s : State) (c : Nat) : State := ((s.count blkHBM 0x0228 1 c).stick blkHBM 0x0208 1).record blkHBM .c 0x0701

/-- A failing line as a controller handles it: counted and recorded; one that fails in both reads stays unreadable, and in Obinha's
own area stops the device, when a foreground read meets it (R401). The sticky bits are of lines that fail in the same way twice (log entry 108). -/
def State.lineErr (s : State) (e : LineErr) (scrub : Bool := false) : State :=
  let c := (Config.hbmController (e.dpa / 512)).val
  match e.kind with
  | .corrected => s.lineCorrected c
  | .reread parity fixed =>
    let s := (s.count blkHBM 0x0240 1 c).count blkHBM (if parity then 0x0238 else 0x0230) 1 c
    if fixed then s.lineCorrected c else s
  | k =>
    let u := decide (k ≠ .parity)
    let s := s.count blkHBM 0x0240 1 c
    let s := if u then s.count blkHBM 0x0230 1 c else s
    let s := if k = .uncorrectable then s else s.count blkHBM 0x0238 1 c
    let s := s.stick blkHBM 0x0208 (if k = .mixed then 0 else if u then 2 else 4)
    let s := s.setReg blkHBM 0x0210 (BitVec.ofNat 64 (e.dpa / 64 * 64))
    let s := { s with bad := insertAt s.bad (e.dpa / 64) k }
    let cause := if u then 0x0702 else 0x0703
    if e.dpa < dirBase && !scrub then s.stopDevice blkHBM cause else s.record blkHBM .none cause

/-- The rank of a line's error among those of one clock (R381): class D, class C, then class none by cause. A line read at the second attempt without
correction is no error. -/
def lineRank (e : LineErr) : Nat :=
  match e.kind with
  | .corrected => 2
  | .reread _ _ => 2
  | .uncorrectable | .mixed => if e.dpa < dirBase then 0 else 3
  | .parity => if e.dpa < dirBase then 1 else 4

/-- The errors that a read of a range meets: those the controllers report now, and the lines that are unreadable already. They come in one clock:
the one that ERR_FIRST captures stands first (R381). -/
def State.errsAt (s : State) (errs : List LineErr) (a n : Nat) : List LineErr :=
  let hit := fun (d : Nat) => decide (n ≠ 0) && decide (a / 64 ≤ d) && decide (d ≤ (a + n - 1) / 64)
  let l := (s.bad.filter (fun b => hit b.1)).map (fun b => (⟨64 * b.1, b.2⟩ : LineErr))
    ++ errs.filter (fun e => hit (e.dpa / 64) && (look s.bad (e.dpa / 64)).isNone && inHbm e.dpa 1)
  (List.range 5).flatMap (fun i => l.filter (fun e => lineRank e = i))

/-- A read of HBM: whether every line could be read. Blocks that run-ahead has read are not read again. -/
def State.readHbm (s : State) (errs : List LineErr) (a n : Nat) (ahead : List (Nat × Nat) := []) : Bool × State :=
  let es := s.errsAt errs a n
  (es.all (fun e => lineReads e.kind),
    (forAll es (fun e s => s.lineErr e) s).countBlocks false ((blocksOf a n).filter (fun b => !readAhead ahead a n b)))

/-- Prefetches that read a range of HBM or host memory dropped unused (R144). -/
def State.dropAhead (s : State) (host : Bool) (a n : Nat) : State :=
  let hit := fun (f : Prefetch) => f.host = host && decide (f.dpa < a + n) && decide (a < f.dpa + f.len)
  forAll allCores (fun c s =>
    let m := (s.cores[c].prefetch.filter hit).length
    if m = 0 then s
    else
      let s := (s.count (blkCore c) 0x0978 m).modCore c (fun k => { k with prefetch := k.prefetch.filter (fun f => !hit f) })
      if host then s.count (blkCore c) 0x0980 m else s) s

/-- The pages of 4 KiB that a write of `n` bytes from `a` touches in a context's regions. -/
def pagesIn (regions : List (Nat × Nat)) (a n : Nat) : List Nat :=
  (regions.flatMap (fun r =>
    let lo := max a r.1
    let hi := min (a + n) (r.1 + r.2)
    if lo < hi then (List.range ((hi - 1) / 4096 + 1 - lo / 4096)).map (· + lo / 4096) else [])).eraseDups

/-- The outgoing area of the checkpoint region: its upper half; the incoming area is the lower one (DESIGN CHOICE, log entry 127). -/
def outBase : Nat := ckptBase + ckptSize / 2

/-- The first free place of a page in the outgoing area. -/
def State.outPlace (s : State) : Nat :=
  let used := s.twin.outgoing.flatMap (fun o => o.2.copies.map (·.2))
  let rec go : Nat → Nat → Nat
    | 0, a => a
    | n + 1, a => if used.contains a then go n (a + 4096) else a
  go used.length outBase

/-- A marked page copied to the outgoing area (R387): one that cannot be read corrupts its checkpoint (R377). -/
def State.keepPage (s : State) (id : Nat) (o : Outgoing) (page : Nat) : State :=
  let (ok, s) := s.readHbm [] (4096 * page) 4096
  let a := s.outPlace
  let s := { s with twin := { s.twin with
    outgoing := insertAt s.twin.outgoing id (if ok then { o with copies := insertAt o.copies page a } else { o with bad := true }) } }
  if ok then
    { (s.countHbm true a 4096).pokeN a (s.peekN (4096 * page) 4096) with bad := s.bad.filter (fun b => b.1 < a / 64 || a / 64 + 64 ≤ b.1) }
  else s

/-- The pages marked for a checkpoint being sent that a write is about to change for the first time copied (R387). -/
def State.keepPages (s : State) (id a n : Nat) : State :=
  match look s.twin.outgoing id with
  | some o => forAll (pagesIn (o.marked.map (fun m => (4096 * m.1, 4096 * m.2))) a n) (fun p s =>
      match look s.twin.outgoing id with
      | some o => if (look o.copies p).isSome then s else s.keepPage id o p
      | none => s) s
  | none => s

/-- What a paired device does before a write of HBM: it notes the pages of its contexts that the write dirties (R385), and keeps the marked ones (R387). -/
def State.notePages (s : State) (a n : Nat) : State :=
  let s := forAll (s.twin.outgoing.map (·.1)) (fun id s => s.keepPages id a n) s
  if s.twin.st ≠ .paired then s
  else
    let hit := (s.ctxs.map (fun x => (x.1, pagesIn x.2.regions a n))).filter (fun h => !h.2.isEmpty)
    { s with twin := { s.twin with dirty := hit.foldl (fun d h => insertAt d h.1 (((look d h.1).getD [] ++ h.2).eraseDups)) s.twin.dirty } }

/-- The lines of HBM that a write changes, whose blocks are counted: a line it covers whole is stored afresh; an unreadable line it covers in
part is not written (R377). The answer tells whether every byte was written. -/
def State.writeLines (s : State) (a : Nat) (bs : Bytes) : Bool × State :=
  let n := bs.length
  let s := (s.dropAhead false a n).notePages a n
  let whole := fun (d : Nat) => decide (a ≤ 64 * d) && decide (64 * d + 64 ≤ a + n)
  let part := s.bad.filter (fun b => decide (n ≠ 0) && decide (a / 64 ≤ b.1) && decide (b.1 ≤ (a + n - 1) / 64) && !whole b.1)
  let keep := part.map (fun b => (b.1, s.peekN (64 * b.1) 64))
  let s := { s.pokeN a bs with bad := s.bad.filter (fun b => !whole b.1) }
  let s := forAll keep (fun k s => (s.pokeN (64 * k.1) k.2).setReg blkHBM 0x0210 (BitVec.ofNat 64 (64 * k.1))) s
  (part.isEmpty, s)

/-- A write of HBM, with the blocks it touches counted (R168). -/
def State.writeHbm (s : State) (a : Nat) (bs : Bytes) : Bool × State := (s.countHbm true a bs.length).writeLines a bs

end Sys2Proof.Machine
end

