-- ==== Sys2Proof/Machine/Operands.lean ====
section
/-! DEFINITION. The operand forms of the instructions: fields of an instruction word, legality (R218), sums of an immediate and a register (R217), the pop of QCTL (R220), the faults an instruction raises (R242), and reads and writes of the scratchpad under its tags (R151 to R153). -/

namespace Sys2Proof.Machine

/-! Instruction words -/

/-- The opcode of an instruction (Table 8.2). -/
def opcodeOf (w : Insn) : Nat := fld w 0 8

/-- The reserved bits of each opcode, as first bit and length (Tables 8.4 to 8.13). -/
def rsvdOf (op : Nat) : List (Nat × Nat) :=
  match op with
  | 0x01 | 0x02 => [(16, 112)]
  | 0x03 => [(68, 60)]
  | 0x04 => [(35, 93)]
  | 0x05 => [(20, 44)]
  | 0x06 => [(96, 32), (36, 28)]
  | 0x07 => [(43, 85)]
  | 0x10 => [(39, 89)]
  | 0x11 => [(44, 84)]
  | 0x12 => [(115, 13)]
  | 0x13 => [(56, 72)]
  | 0x14 => [(20, 108)]
  | 0x15 => [(96, 32), (49, 15)]
  | 0x18 | 0x19 => [(27, 101)]
  | 0x20 | 0x21 => [(34, 94)]
  | 0x22 | 0x26 => [(35, 93)]
  | 0x23 => [(96, 32), (39, 25)]
  | 0x24 => [(80, 48), (34, 30)]
  | 0x25 => [(118, 10)]
  | 0x30 => [(113, 15)]
  | 0x31 => [(113, 15), (68, 1), (19, 2)]
  | 0x32 => [(118, 10)]
  | 0x33 => [(48, 80)]
  | 0x40 => [(124, 4), (31, 1)]
  | 0x41 => [(124, 4), (31, 1), (26, 2)]
  | 0x42 => [(124, 4), (60, 28), (31, 1), (26, 2)]
  | _ => []

/-- Whether every code that a table marks reserved is absent (Tables 8.4, 8.6, 8.11, 8.13, 8.14). -/
def codesOk (w : Insn) : Bool :=
  match opcodeOf w with
  | 0x04 => decide (fld w 32 3 ≤ 4)
  | 0x07 => decide (fld w 41 2 ≠ 3)
  | 0x12 => decide (fld w 62 2 ≠ 3)
  | 0x33 => decide (fld w 46 2 ≠ 3)
  | 0x40 => decide (fld w 28 2 ≠ 3) && decide (fld w 16 6 < 12)
  | 0x41 => decide (fld w 28 2 ≠ 3) && decide (fld w 16 6 < 3)
  | 0x42 => decide (fld w 28 2 ≠ 3) && decide (fld w 16 6 < 5)
  | _ => true

/-- Whether an opcode stands in an engine's column of Table 8.2. -/
def inColumn (e : Eng) (op : Nat) : Bool :=
  match e with
  | .fetch => [0x01, 0x02, 0x03, 0x04, 0x05, 0x06, 0x07, 0x10, 0x11, 0x12, 0x13, 0x14, 0x15, 0x18, 0x19,
               0x20, 0x21, 0x22, 0x23, 0x24, 0x25, 0x26].contains op
  | .exec => [0x01, 0x02, 0x03, 0x04, 0x05, 0x06, 0x07, 0x20, 0x21, 0x22, 0x30, 0x31, 0x32, 0x33, 0x40, 0x41, 0x42].contains op

/-- Whether QCTL is allowed: an execute instruction other than LOOP and BRANCH, or all zero (R218). -/
def qctlOk (e : Eng) (w : Insn) : Bool :=
  fld w 8 8 = 0 || (e = .exec && opcodeOf w ≠ 0x03 && opcodeOf w ≠ 0x04)

/-- A legal instruction of an engine (R218). -/
def legalInsn (e : Eng) (w : Insn) : Bool :=
  inColumn e (opcodeOf w) && (rsvdOf (opcodeOf w)).all (fun r => fld w r.1 r.2 = 0) && codesOk w && qctlOk e w

/-! Faults of instructions (R149, R186, R242, R243) -/

/-- A fault that an instruction raises: its sticky bit, CORE_INSN_FAULT, the class K error and the teardown. -/
def State.insnFault (s : State) (c : Fin 16) (e : Eng) (w : Insn) (off b cause : Nat) : State :=
  let s := s.stick (blkCore c) off (2 ^ b)
  let s := s.setReg (blkCore c) 0x0B08
    (BitVec.ofNat 64 ((s.eng c e).pc.toNat + put (b2n (e = .exec)) 32 1 + put (opcodeOf w) 40 8))
  s.faultOn c (blkCore c) cause

def State.illegalOp (s : State) (c : Fin 16) (e : Eng) (w : Insn) : State := s.insnFault c e w 0x0B00 0 0x100A
def State.insnOperand (s : State) (c : Fin 16) (e : Eng) (w : Insn) : State := s.insnFault c e w 0x0B00 1 0x100B
def State.loopDepth (s : State) (c : Fin 16) (e : Eng) (w : Insn) : State := s.insnFault c e w 0x0B00 2 0x100C
def State.mmaOperand (s : State) (c : Fin 16) (w : Insn) : State := s.insnFault c .exec w 0x0988 0 0x1001
def State.queueProtocol (s : State) (c : Fin 16) (e : Eng) (w : Insn) : State := s.insnFault c e w 0x0988 2 0x1003
def State.descBad (s : State) (c : Fin 16) (w : Insn) : State := s.insnFault c .fetch w 0x0A08 1 0x1006
def State.winFault (s : State) (c : Fin 16) (w : Insn) : State := s.insnFault c .fetch w 0x0A08 2 0x1007
def State.hqFault (s : State) (c : Fin 16) (w : Insn) : State := s.insnFault c .fetch w 0x0A08 3 0x1008

/-- MMA_OPERAND raised later than at issue, by the array or the readout: CORE_INSN_FAULT names the instruction's index. -/
def State.mmaFaultAt (s : State) (c : Fin 16) (pc : BitVec 12) (op : Nat) : State :=
  let s := s.stick (blkCore c) 0x0988 1
  let s := s.setReg (blkCore c) 0x0B08 (BitVec.ofNat 64 (pc.toNat + put 1 32 1 + put op 40 8))
  s.faultOn c (blkCore c) 0x1001

/-! Failed checks (R375, R376, Table 14.1) -/

/-- The outcome of a failed check of a core's structures, of a sync object or of the control processor's and the security unit's memories.
What a landing buffer, an expander's buffer, the directory cache and the router do stands with them. -/
def State.checkFailed (s : State) (c : Fin 16) (chk : Check) : State :=
  match chk with
  | .imageLost => s.faultOn c (blkCore c) 0x1010
  | .spad => s.faultOn c (blkCore c) 0x100E
  | .acc => s.faultOn c (blkCore c) 0x100F
  | .partials => (s.stick (blkCore c) 0x0988 8).faultOn c (blkCore c) 0x1004
  | .object => s.faultOn c blkSYN 0x0207
  | .owner => s.stopDevice blkSYN 0x0207
  | .control => s.stopDevice blkCTL 0x000A
  | .security => s.stopDevice blkSEC 0x0107
  | .ok | .reloaded | .xbuf | .landing | .cache | .buffer => s

/-- A sync object that fails its check (Table 14.1): the owning context faults; a failure in the fields that name the owner stops the device. -/
def State.objFails (s : State) (f : ObjFail) : State :=
  match f with
  | some (i, own) =>
    if s.stopped then s
    else if own then s.stopDevice blkSYN 0x0207
    else match s.ownerOf (s.obj i.toNat) with
      | some id => s.faultCtx id blkSYN 0x0207
      | none => s
  | none => s

/-! Posted operations of the execute engine (R191) -/

/-- Whether work that an execute instruction issued is still outstanding. -/
def Core.outstanding (k : Core) (id : Nat) : Bool :=
  k.arrayQ.any (·.id = id) || k.readouts.any (·.id = id) || k.vecQ.any (·.id = id)

/-- The posted operations of a core whose earlier work is complete take effect, in issue order; `chk` is what the check of the object that the first of
them meets reports (Table 14.1). -/
def State.servePosted (s : State) (c : Fin 16) (chk : Check := .ok) : State :=
  let rec go : Nat → Check → State → State
    | 0, _, s => s
    | n + 1, chk, s =>
      match s.cores[c].posted with
      | [] => s
      | p :: r =>
        if p.deps.any (fun d => s.cores[c].outstanding d) then s
        else
          let x := s.ctxOn c
          let s := s.modCore c (fun k => { k with posted := r })
          go n .ok (if chk.isObj then s.checkFailed c chk else match p.op with
            | .set => s.syncSet p.idx x
            | .clear => s.syncClear p.idx
            | .arrive => s.barArrive p.idx x)
  go s.cores[c].posted.length chk s

/-! What an instruction reads -/

/-- The state in which an instruction goes on after the checks of what it reads: a reloaded entry is recorded, class C. `none` where a
check has failed. -/
def State.passes (s : State) (c : Fin 16) (chk : Check) : Option State :=
  match chk with
  | .ok => some s
  | .reloaded => some (s.record (blkCore c) .c 0x1010 (s.errCtx (s.ctxOn c)))
  | _ => none

/-- Whether an instruction can meet a failed check at issue: its own word; the scratchpad for SLOAD; the object for the sync
instructions. PUT and the
streams treat their source's parity as a fault of the transfer (R165). -/
def checkFits (op : Nat) (chk : Check) : Bool :=
  match chk with
  | .imageLost => true
  | .spad => op = 0x07
  | .object | .owner => decide (0x20 ≤ op) && decide (op ≤ 0x26) && op ≠ 0x25
  | _ => false

/-- An instruction that its checks let go on, or their outcome. -/
def State.checked (s : State) (c : Fin 16) (op : Nat) (chk : Check) (body : State → State) : State :=
  match s.passes c chk with
  | some s => body s
  | none => if checkFits op chk then s.checkFailed c chk else s

/-! Issue -/

/-- Whether a save holds a core's engines back (R146): that of a switch, or that of the core's side task for a context that has work (R348). -/
def State.saving (s : State) (c : Fin 16) : Bool :=
  (match s.parts[s.partOf c].switch with
   | .moving _ => true
   | _ => false)
  || (s.cores[c].leaving.bind s.ctx?).any (fun x => !x.queue.isEmpty)

/-- Whether an engine is at an instruction and free to issue it: the device runs, the core runs a context, the engine is
neither halted nor faulted nor in a registered wait, and no save holds it. -/
def State.ready (s : State) (c : Fin 16) (e : Eng) (w : Insn) : Bool :=
  !s.stopped && (s.cores[c].run).isSome && (s.eng c e).st ≠ .halted && (s.eng c e).st ≠ .faulted
    && !s.syn.waits.any (fun x => x.core = c && x.eng = e) && !s.saving c && s.cores[c].insnAt e = w

/-- An engine's waiting state set; it keeps its place. -/
def State.wait (s : State) (c : Fin 16) (e : Eng) (st : EState) : State := s.modEng c e (fun g => if g.st = .lull then g else { g with st := st })

/-- A deferred fault met at a pop (R145): CORE_DEFER_CAUSE, then class K. -/
def State.deferred (s : State) (c : Fin 16) (w : Insn) (q cause : Nat) (pc : BitVec 12) : State :=
  let s := s.setReg (blkCore c) 0x0990 (BitVec.ofNat 64 (pc.toNat + put q 24 3 + put cause 32 16))
  s.insnFault c .exec w 0x0988 1 0x1002

/-- The pop of QCTL before an execute instruction issues (R220, R141): the instruction's own effect follows in `body` once
any pop has been made; an empty queue makes the engine wait. -/
def State.withPop (s : State) (c : Fin 16) (w : Insn) (body : State → State) : State :=
  let k := s.cores[c]
  let qi := fld w 8 3
  if (bit w 11 && (k.q qi).exeToFet) || (bit w 15 && !(k.q (fld w 12 3)).exeToFet) then s.queueProtocol c .exec w
  else if bit w 11 && k.exe.popped.isNone then
    match (k.q qi).slots with
    | .entry h f pc :: r =>
      let s := s.modCore c (fun k => (k.setQ qi { k.q qi with slots := r }))
      if f ≠ 0 then s.deferred c w qi f pc
      else body (s.modCore c (fun k => { k with exe := { (k.exe.wr 14 h).wr 15 (BitVec.ofNat 64 (fld h 0 14)) with popped := some h, st := .running } }))
    | _ => s.wait c .exec .waitQueue
  else body s

/-- An instruction met by its engine, once the checks of what it reads have passed: illegal words fault; a legal one pops if it asks to and then
acts (R218, R220). -/
def State.issue (s : State) (c : Fin 16) (e : Eng) (w : Insn) (op : Nat) (chk : Check) (body : State → State) : State :=
  if s.ready c e w && opcodeOf w = op then
    s.checked c op chk (fun s =>
      if !legalInsn e w then s.illegalOp c e w
      else
        match e with
        | .fetch => body s
        | .exec => s.withPop c w body)
  else s

/-- The step that a core's engines run: the armed step of the running context. -/
def State.stepOn (s : State) (c : Fin 16) : Word :=
  match s.ctxOn c with
  | some x => ((s.ctx? x).bind (·.armed)).getD 0
  | none => 0

/-! Operands (R217) -/

/-- An immediate field plus a register, unbounded. -/
def Engine.sum (g : Engine) (w : Insn) (lo len reg : Nat) : Int := (fld w lo len : Int) + (g.rd (fld w reg 4)).toInt

/-- A field that a register other than S0 replaces. -/
def Engine.repl (g : Engine) (w : Insn) (lo len reg : Nat) : Int :=
  if fld w reg 4 = 0 then (fld w lo len : Int) else (g.rd (fld w reg 4)).toInt

/-- Whether an operand lies within a range. -/
def within (x lo hi : Int) : Bool := decide (lo ≤ x) && decide (x ≤ hi)

/-! The scratchpad (R151 to R153) -/

/-- The scratchpad's slots. -/
def spadSlots : Nat := 12288

/-- The DPA of core c's scratchpad. -/
def spadBase (c : Nat) : Nat := 0x100000000000 + c * 0x100000

def Core.isFull (k : Core) (n : Nat) : Bool := mget (fun _ => false) k.full n
def Core.setFull (k : Core) (n : Nat) (b : Bool) : Core := { k with full := mset (fun _ => false) k.full n b }
def Core.spadRd (k : Core) (a n : Nat) : Bytes := getBytes k.spad a n
def Core.spadWr (k : Core) (a : Nat) (bs : Bytes) : Core := { k with spad := setBytes k.spad a bs }

/-- The slots that bytes `a` to `a + n − 1` of a scratchpad lie in. -/
def slotsOf (a n : Nat) : List Nat := if n = 0 then [] else List.range' (a / 64) ((a + n - 1) / 64 - a / 64 + 1)

/-- Tags of slots read in a mode (0 BYPASS, 1 TEST, 2 TAKE): `none` while one holds the access (Table 6.1). -/
def Core.tagRead (k : Core) (mode : Nat) (slots : List Nat) : Option Core :=
  if mode = 0 then some k
  else if mode = 1 then (if slots.all k.isFull then some k else none)
  else slots.foldl (fun k n => match k with
    | some k => if k.isFull n then some (k.setFull n false) else none
    | none => none) (some k)

/-- Tags of slots written, `fill` in FILL mode: `none` while one holds the access (Table 6.1). -/
def Core.tagWrite (k : Core) (fill : Bool) (slots : List Nat) : Option Core :=
  slots.foldl (fun k n => match k with
    | some k => if fill && k.isFull n then none else some (k.setFull n true)
    | none => none) (some k)

/-- One slot read in a mode: `none` while its tag holds the access (Table 6.1). -/
def Core.slotRead (k : Core) (mode n : Nat) : Option Core :=
  if mode = 0 then some k else if !k.isFull n then none else some (if mode = 2 then k.setFull n false else k)

/-- The bytes from `off` on, read on in a mode after those in `buf`, slot by slot in ascending order up to the first slot whose tag holds the
access (R153). -/
def Core.readOn (k : Core) (mode off n : Nat) (buf : Bytes) : Core × Bytes :=
  let rec go : Nat → Core → Bytes → Core × Bytes
    | 0, k, b => (k, b)
    | m + 1, k, b =>
      if n ≤ b.length then (k, b)
      else
        let a := off + b.length
        match k.slotRead mode (a / 64) with
        | some k' => go m k' (b ++ k.spadRd a (min (n - b.length) (64 - a % 64)))
        | none => (k, b)
  go (n / 64 + 2) k buf

/-- The slots of a list read in a mode and kept by number, in order up to the first whose tag holds the access (R153). -/
def Core.readSlots (k : Core) (mode : Nat) : List Nat → SMap Bytes → Core × SMap Bytes
  | [], got => (k, got)
  | n :: r, got =>
    if (look got n).isSome then k.readSlots mode r got
    else match k.slotRead mode n with
      | some k' => k'.readSlots mode r (insertAt got n (k.spadRd (64 * n) 64))
      | none => (k, got)

/-- Bytes of the scratchpad as slots that have been read held them. -/
def gotBytes (got : SMap Bytes) (a n : Nat) : Bytes :=
  (((slotsOf a n).flatMap (fun m => (look got m).getD [])).drop (a % 64)).take n

/-- A range of bytes cut at the ends of slots, as address and length. -/
def slotCuts (a n : Nat) : List (Nat × Nat) :=
  (slotsOf a n).map (fun m => (max a (64 * m), min (a + n) (64 * m + 64) - max a (64 * m)))

/-- Bytes to write at an address, cut at the ends of slots. -/
def slotPieces (a : Nat) (bs : Bytes) : List (Nat × Bytes) := (slotCuts a bs.length).map (fun q => (q.1, (bs.drop (q.1 - a)).take q.2))

/-- Pieces that each lie in one slot, written in order up to the first slot whose tag holds the access (R153): the core, and the pieces that are
left. -/
def Core.writePieces (k : Core) (fill : Bool) : List (Nat × Bytes) → Core × List (Nat × Bytes)
  | [] => (k, [])
  | p :: r =>
    if fill && k.isFull (p.1 / 64) then (k, p :: r)
    else ((k.setFull (p.1 / 64) true).spadWr p.1 p.2).writePieces fill r

/-- Bytes read from the scratchpad under a tag mode. -/
def Core.tagged (k : Core) (mode a n : Nat) : Option (Core × Bytes) := (k.tagRead mode (slotsOf a n)).map (fun k' => (k', k.spadRd a n))

/-- Bytes written to the scratchpad under a tag mode. -/
def Core.taggedWr (k : Core) (fill : Bool) (a : Nat) (bs : Bytes) : Option Core :=
  (k.tagWrite fill (slotsOf a bs.length)).map (fun k => k.spadWr a bs)

end Sys2Proof.Machine
end

