-- ==== Sys2Proof/Machine/Control.lean ====
section
/-! DEFINITION. The control and scalar instructions of both engines (R215, R223 to R225), the entry into lull (R199) and run-ahead (R142 to R144). -/

namespace Sys2Proof.Machine

/-- NOP, and every word that is no instruction of its engine: the first does nothing, the second faults (R215, R218). -/
def execNop (c : Fin 16) (e : Eng) (w : Insn) (chk : Check) (s : State) : Host.Outcome State Fault Refusal :=
  .next (
    if s.ready c e w && !inColumn e (opcodeOf w) then s.checked c (opcodeOf w) chk (fun s => s.illegalOp c e w)
    else s.issue c e w 0x01 chk (fun s => s.doneNow c e w))

/-- LOOP (R223). One of no iterations leaves the path that run-ahead predicts, which enters the body (R142, R144). -/
def execLoop (c : Fin 16) (e : Eng) (w : Insn) (chk : Check) (s : State) : Host.Outcome State Fault Refusal :=
  .next (s.issue c e w 0x03 chk (fun s =>
    let g := s.eng c e
    let pc := g.pc.toNat
    let n := g.sum w 36 32 32
    let last := fld w 16 12
    if 4 ≤ g.loops.length then s.loopDepth c e w
    else if !within n 0 (2 ^ 32 - 1) || decide (last ≤ pc) || g.loops.any (fun l => decide (l.last < last)) then s.insnOperand c e w
    else if n = 0 then (if e = .fetch then s.cancelAhead c else s).advanceFrom c e last
    else
      let l : Loop := ⟨pc + 1, last, n.toNat, 0, fld w 28 4⟩
      (s.modEng c e (fun g => { g.wr (fld w 28 4) 0 with loops := l :: g.loops })).advance c e))

/-- The condition of BRANCH (Table 8.4). -/
def branchTaken (cond : Nat) (v : Word) : Bool :=
  match cond with
  | 0 => true
  | 1 => decide (v = 0)
  | 2 => decide (v ≠ 0)
  | 3 => decide (v.toInt < 0)
  | _ => decide (0 ≤ v.toInt)

/-- An engine goes on at an instruction that a branch names, leaving the loops that do not contain it (R224). -/
def Engine.jump (g : Engine) (dest : Nat) : Engine :=
  { g with pc := BitVec.ofNat 12 dest, st := .running, popped := none,
           loops := g.loops.filter (fun l => decide (l.start ≤ dest) && decide (dest ≤ l.last)) }

/-- BRANCH (R224); a fetch engine that leaves the path its run-ahead predicted cancels it (R142, R144). -/
def execBranch (c : Fin 16) (e : Eng) (w : Insn) (chk : Check) (s : State) : Host.Outcome State Fault Refusal :=
  .next (s.issue c e w 0x04 chk (fun s =>
    let g := s.eng c e
    let dest := fld w 16 12
    let taken := branchTaken (fld w 32 3) (g.rd (fld w 28 4))
    let s := if e = .fetch && taken != decide (dest ≤ g.pc.toNat) then s.cancelAhead c else s
    if taken then
      (s.count (blkCore c) (match e with
        | .fetch => 0x0B20
        | .exec => 0x0B28)).modEng c e (fun g => g.jump dest)
    else s.advance c e))

/-- SET (R225). -/
def execSet (c : Fin 16) (e : Eng) (w : Insn) (chk : Check) (s : State) : Host.Outcome State Fault Refusal :=
  .next (s.issue c e w 0x05 chk (fun s =>
    (s.modEng c e (fun g => g.wr (fld w 16 4) (BitVec.ofNat 64 (fld w 64 64)))).doneNow c e w))

/-- The part of S[B] that SADD adds (Table 8.4). -/
def saddPart (sel : Nat) (v : Word) : Nat :=
  match sel with
  | 0 => v.toNat
  | 1 => fld v 0 14
  | 2 => fld v 14 14
  | _ => fld v 36 28

/-- The sum SADD writes (R225). -/
def saddValue (g : Engine) (w : Insn) : Word :=
  g.rd (fld w 20 4) + BitVec.ofNat 64 (saddPart (fld w 28 2) (g.rd (fld w 24 4)) <<< fld w 30 6) + BitVec.ofInt 64 (signed (fld w 64 32) 32)

/-- SADD (R225). -/
def execSadd (c : Fin 16) (e : Eng) (w : Insn) (chk : Check) (s : State) : Host.Outcome State Fault Refusal :=
  .next (s.issue c e w 0x06 chk (fun s =>
    (s.modEng c e (fun g => g.wr (fld w 16 4) (saddValue g w))).doneNow c e w))

/-- SLOAD (R225): under TEST and TAKE it holds its place while the slot is empty (R152). -/
def execSload (c : Fin 16) (e : Eng) (w : Insn) (chk : Check) (s : State) : Host.Outcome State Fault Refusal :=
  .next (s.issue c e w 0x07 chk (fun s =>
    let n := (s.eng c e).sum w 20 14 34
    if !within n 0 12287 then s.insnOperand c e w
    else
      match s.cores[c].tagged (fld w 41 2) (64 * n.toNat + 8 * fld w 38 3) 8 with
      | some (k, bs) =>
        ((s.modCore c (fun _ => k)).modEng c e (fun g => g.wr (fld w 16 4) (BitVec.ofNat 64 (leNat bs)))).doneNow c e w
      | none => s))

/-! Lull -/

/-- Whether the tag of a slot holds an engine at an SLOAD, or the fetch engine at a PUT that has room in its queue (R152). -/
def Core.tagHolds (k : Core) (e : Eng) : Bool :=
  let w := k.insnAt e
  let g := k.eng e
  legalInsn e w && (match opcodeOf w with
    | 0x07 =>
      let n := g.sum w 20 14 34
      within n 0 12287 && fld w 41 2 ≠ 0 && !k.isFull n.toNat
    | 0x12 =>
      let slot := g.sum w 64 14 88
      let n := fld w 78 6 + 1
      within slot 0 (12288 - n) && fld w 62 2 ≠ 0 && decide (g.got.length < 64 * n) && !k.isFull (slot.toNat + g.got.length / 64)
    | _ => false)

/-- Whether the engine that its core's queues and tags hold is held no longer: its queue holds an entry, or room for a push (R141). -/
def State.queueServes (s : State) (c : Fin 16) (e : Eng) : Bool :=
  let k := s.cores[c]
  let w := k.insnAt e
  let entry := fun (q : LQueue) => match q.slots with
    | .entry .. :: _ => true
    | _ => false
  match e with
  | .exec =>
    if bit w 11 && k.exe.popped.isNone then entry (k.q (fld w 8 3))
    else opcodeOf w = 0x30 && bit w 19 && !k.bindQ.isEmpty
  | .fetch =>
    match opcodeOf w with
    | 0x18 | 0x19 =>
      let n := fld w 21 6
      if bit w 20 then
        match ((s.ctxOn c).bind s.ctx?).bind (fun x => x.ghqs[n]?) with
        | some g =>
          let q := s.syn.ghq[g % 64]'(Nat.mod_lt _ (by decide))
          if opcodeOf w = 0x19 then !q.entries.isEmpty else decide (q.entries.length < 32)
        | none => false
      else if opcodeOf w = 0x19 then entry (k.q n) else decide ((k.q n).slots.length < (k.q n).depth)
    | 0x10 | 0x11 =>
      let d := mget (fun _ => 0) k.desc (fld w 16 8)
      let q := k.q (fld d 216 3)
      decide (k.streams.length < 64) && (!bit d 219 || (decide (q.owed < q.limit) && decide (q.slots.length < q.depth)))
    | 0x12 =>
      let q := k.q (fld w 112 3)
      !bit w 111 || (decide (q.owed < q.limit) && decide (q.slots.length < q.depth))
    | 0x15 => decide (k.bindQ.length < 4)
    | _ => false

/-- An instruction that a tag can hold: SLOAD and PUT (R152). -/
def tagOp (w : Insn) : Bool := opcodeOf w = 0x07 || opcodeOf w = 0x12

/-- What an engine is doing: one whose wait at a queue is over runs, and one in lull has been woken by the operation that ended its wait, a push, a
change of a tag or a change of a sync object (R141, R152, R199). -/
def State.doing (s : State) (c : Fin 16) (e : Eng) : EState :=
  let g := s.eng c e
  let held := s.syn.waits.any (fun x => x.core = c && x.eng = e) || s.cores[c].tagHolds e
  if !held && (((g.st = .lull || g.st = .waitQueue || g.st = .runAhead) && s.queueServes c e) || (g.st = .lull && tagOp (s.cores[c].insnAt e)))
  then .running else g.st

/-- Whether an engine waits for a binding and not for a queue: an MMA at an empty binding FIFO shows EXE_STATE 0b010 as long as it waits
(R232). -/
def State.bindWait (s : State) (c : Fin 16) (e : Eng) : Bool :=
  let w := s.cores[c].insnAt e
  e = .exec && opcodeOf w = 0x30 && bit w 19 && !(bit w 11 && s.cores[c].exe.popped.isNone)

/-- An engine that has waited 16 cycles on a sync object, a queue or a tag enters lull, also one that runs ahead meanwhile (R141, R142, R152,
R199). -/
def execLullEntry (c : Fin 16) (e : Eng) (s : State) : Host.Outcome State Fault Refusal :=
  .next (
    let g := s.eng c e
    let waits := s.syn.waits.any (fun x => x.core = c && x.eng = e) || s.cores[c].tagHolds e
      || (!s.bindWait c e && (g.st = .waitQueue || (g.st = .runAhead && !s.queueServes c e)))
    if !s.stopped && (s.cores[c].run).isSome && waits && g.st ≠ .lull then
      let s := s.modEng c e (fun g => { g with st := .lull })
      match s.ctxOn c with
      | some id => s.modCtx id (fun x => { x with since := s.podTime })
      | none => s
    else s)

end Sys2Proof.Machine
end

