-- ==== Sys2Proof/Machine/Streams.lean ====
section
/-! DEFINITION. Streams and gathers (R156 to R168, R226): descriptors and their checks, the runs of a stream, the requests of host memory, issue and completion; and run-ahead's prefetches (R142 to R144). -/

namespace Sys2Proof.Machine

/-! Descriptors (Table 6.2) -/

def parseDesc (d : BitVec 512) : Desc where
  src := fld d 0 48
  dst := fld d 64 48
  len := fld d 128 32
  cnt1 := fld d 160 16
  cnt2 := fld d 176 16
  cnt3 := fld d 192 16
  elem := 2 ^ fld d 208 2
  queue := fld d 216 3
  qen := bit d 219
  flag := fld d 224 14
  flagEn := bit d 238
  srcTag := fld d 240 2
  dstTag := fld d 242 2
  transp := bit d 244
  idxEn := bit d 245
  tagOnly := bit d 246
  tagFull := bit d 247
  sstr1 := signed (fld d 256 32) 32
  sstr2 := signed (fld d 288 32) 32
  sstr3 := signed (fld d 320 32) 32
  dstr1 := signed (fld d 352 32) 32
  dstr2 := signed (fld d 384 32) 32
  dstr3 := signed (fld d 416 32) 32
  deadline := fld d 448 32
  idx := fld d 480 8

/-- Reserved fields other than those of SRC and DST are 0. -/
def descRsvdOk (d : BitVec 512) : Bool :=
  [(210, 6), (220, 4), (239, 1), (248, 8), (488, 24)].all (fun r => fld d r.1 r.2 = 0)

/-- A descriptor of a core's descriptor memory. -/
def Core.descAt (k : Core) (n : Nat) : BitVec 512 := mget (fun _ => 0) k.desc n

/-- A DPA inside some core's scratchpad range of 768 KiB. -/
def inSpad (a : Nat) : Bool := decide (spadBase 0 ≤ a) && decide (a < spadBase 16) && decide ((a - spadBase 0) % 0x100000 < 786432)

/-- TRANSPOSE's constraints (R163): a tag-only descriptor's source is ignored (R162). -/
def transpOk (d : Desc) : Bool :=
  decide (d.len = 4096) && decide (d.elem ≤ 4) &&
    (d.tagOnly || (decide (d.src % 4096 = 0) && inSpad d.src &&
      (decide (d.cnt1 ≤ 1 ∧ d.idxEn = false) || decide (d.sstr1 % 4096 = 0)) && (decide (d.cnt2 ≤ 1) || decide (d.sstr2 % 4096 = 0))
      && (decide (d.cnt3 ≤ 1) || decide (d.sstr3 % 4096 = 0))))

/-- An index descriptor's own checks (R164), its SRC already replaced; QUEUE and FLAG are ignored whatever they hold. -/
def idxDescOk (raw : BitVec 512) (src : Int) : Bool :=
  let d := parseDesc raw
  [(210, 6), (248, 8), (488, 24)].all (fun r => fld raw r.1 r.2 = 0) && within src 0 (2 ^ 48 - 1) && decide (d.srcTag ≠ 3) && decide (d.len % d.elem = 0)
    && (d.elem = 2 || d.elem = 4) && !d.idxEn && !d.tagOnly

/-- The operands that STREAM and GATHER replace for one issue (Table 8.5): SRC, DST, LEN. -/
structure Replaced where
  src : Int
  dst : Int
  len : Int

/-- The replaced fields of an issue (R217, R226). -/
def replacedBy (g : Engine) (w : Insn) (raw : BitVec 512) : Replaced where
  src := if bit w 36 then (g.rd (fld w 24 4)).toInt else (fld raw 0 64 : Int)
  dst := if bit w 37 then (g.rd (fld w 28 4)).toInt else (fld raw 64 64 : Int)
  len := if bit w 38 then (g.rd (fld w 32 4)).toInt else (fld raw 128 32 : Int)

/-- Whether a descriptor with its replaced fields is well-formed (R160, R162, R163); `exeQ` tells whether its queue runs execute to
fetch. -/
def descOk (raw : BitVec 512) (r : Replaced) (exeQ : Bool) : Bool :=
  let d := { parseDesc raw with src := r.src.toNat, dst := r.dst.toNat, len := r.len.toNat }
  descRsvdOk raw && (d.tagOnly || within r.src 0 (2 ^ 48 - 1)) && within r.dst 0 (2 ^ 48 - 1) && within r.len 0 (2 ^ 32 - 1)
    && (d.tagOnly || (decide (d.srcTag ≠ 3) && decide (d.dstTag < 2))) && decide (d.len % d.elem = 0)
    && !(d.qen && d.flagEn) && !(d.qen && exeQ) && (!d.transp || transpOk d) && !(d.idxEn && d.tagOnly)

/-! Runs (R157) -/

/-- How many runs a descriptor moves: none when it moves no byte. -/
def Desc.runs (d : Desc) : Nat := if d.len = 0 then 0 else d.cnt1 * d.cnt2 * d.cnt3

/-- Source and destination address of run `i`, the index `v` in place of d1 in a gather, unbounded. -/
def Desc.runAt (d : Desc) (i : Nat) (v : Option Nat) : Int × Int :=
  let d1 := i % d.cnt1
  let d2 := i / d.cnt1 % d.cnt2
  let d3 := i / d.cnt1 / d.cnt2
  let so : Int := match v with
    | some x => (x : Int) * d.sstr1
    | none => (d1 : Int) * d.sstr1
  ((d.src : Int) + so + d2 * d.sstr2 + d3 * d.sstr3, (d.dst : Int) + d1 * d.dstr1 + d2 * d.dstr2 + d3 * d.dstr3)

/-- What an address range of a transfer names (R161). -/
inductive Place where
  | hbm (a : Nat)
  | host (a : Nat)
  | spad (c : Fin 16) (off : Nat)
  | outside
deriving DecidableEq, Repr

/-- Whether bytes lie within the union of some regions. -/
def covered (l : List (Nat × Nat)) (a n : Nat) : Bool :=
  let rec go : Nat → Nat → Bool
    | 0, x => decide (a + n ≤ x)
    | k + 1, x =>
      if a + n ≤ x then true
      else match l.find? (fun r => decide (r.1 ≤ x) && decide (x < r.1 + r.2)) with
        | some r => go k (r.1 + r.2)
        | none => false
  go (l.length + 1) a

/-- The place of a run's bytes for what runs on core `c`. -/
def State.place (s : State) (c : Fin 16) (a : Int) (n : Nat) : Place :=
  match s.cores[c].run with
  | none => .outside
  | some r =>
    if a < 0 ∨ 2 ^ 48 < a + n then .outside
    else
      let a := a.toNat
      let k := (a - spadBase 0) / 0x100000
      let off := (a - spadBase 0) % 0x100000
      if h : spadBase 0 ≤ a ∧ k < 16 then
        let p := s.parts[s.partOf c]
        let mine := if r.task.isSome then decide (k = c.val) else decide (p.first ≤ k) && decide (k < p.first + p.cores)
        if mine && decide (off + n ≤ 786432) then .spad ⟨k, h.2⟩ off else .outside
      else
        match s.ctx? r.ctx with
        | some x =>
          if !covered x.regions a n then .outside
          else if inHbm a n then .hbm a
          else if inHost a n then .host a
          else .outside
        | none => .outside

/-- A transposed tile (R163): output row j holds element j of the 64 input rows. -/
def transposed (e : Nat) (bs : Bytes) : Bytes :=
  (List.range 4096).map (fun o => byteAt bs (64 * ((o % (64 * e)) / e) + (o / (64 * e)) * e + o % e))

/-- Whether a stream still awaits host memory: requests not sent or not answered. -/
def State.awaitsHost (s : State) (c : Fin 16) (t : Stream) : Bool :=
  !t.todo.isEmpty || s.vcl.reqs.any (fun q => decide (q.who = .stream c t.id))

/-! Prefetched reads (R144) -/

/-- Host blocks taken over from prefetches when they are read for real: those that have come need no request, those
under way become the stream's (R144). -/
def State.claimPrefetch (s : State) (c : Fin 16) (id : Nat) (blocks : List (Nat × Nat)) : List (Nat × Nat) × State :=
  blocks.foldl (fun (acc : List (Nat × Nat) × State) b =>
    let (todo, s) := acc
    if s.cores[c].prefetch.any (fun f => f.host && f.dpa = b.1 && f.len = b.2) then
      let s := s.modCore c (fun k => { k with prefetch := k.prefetch.filter (fun f => !(f.host && f.dpa = b.1 && f.len = b.2)) })
      (todo, { s with vcl := { s.vcl with reqs := s.vcl.reqs.map (fun q =>
        if q.who = .prefetch c ∧ q.dpa = b.1 ∧ q.len = b.2 then { q with who := .stream c id } else q) } })
    else (todo ++ [b], s)) ([], s)

/-- Blocks of HBM taken over from prefetches, which a stream then reads without reading HBM again. -/
def State.claimHbm (s : State) (c : Fin 16) (blocks : List (Nat × Nat)) : List (Nat × Nat) × State :=
  let hit := fun (f : Prefetch) => !f.host && blocks.any (fun b => decide (f.dpa < b.1 + b.2) && decide (b.1 < f.dpa + f.len))
  ((s.cores[c].prefetch.filter hit).map (fun f => (f.dpa, f.len)),
    s.modCore c (fun k => { k with prefetch := k.prefetch.filter (fun f => !hit f) }))

/-! What a transfer reads -/

/-- The blocks of HBM and of host memory that a range takes, none for one outside the context's regions. -/
def State.readBlocks (s : State) (c : Fin 16) (a : Int) (n : Nat) : List (Option (Nat × Nat × Bool)) :=
  match s.place c a n with
  | .hbm a => (hostBlocks a n).map (fun b => some (b.1, b.2, false))
  | .host a => (hostBlocks a n).map (fun b => some (b.1, b.2, true))
  | .spad _ _ => []
  | .outside => [none]

/-- Index values in a run of an index descriptor, the runs that a gather needs of it, and the bytes it needs of a run (R164). -/
def Desc.perRun (x : Desc) : Nat := x.len / x.elem
def Desc.idxRuns (d x : Desc) : Nat := if x.perRun = 0 then 0 else min x.runs ((d.runs + x.perRun - 1) / x.perRun)
def Desc.idxBytes (d x : Desc) (i : Nat) : Nat := min x.len (x.elem * (d.runs - i * x.perRun))

/-- The reads of an index stream, and those of the data: of a stream, or of a gather's runs from `i` on with their indices. -/
def State.indexReads (s : State) (c : Fin 16) (d x : Desc) : List (Option (Nat × Nat × Bool)) :=
  (List.range (d.idxRuns x)).flatMap (fun i => s.readBlocks c (x.runAt i none).1 (d.idxBytes x i))
def State.dataReads (s : State) (c : Fin 16) (d : Desc) : List (Option (Nat × Nat × Bool)) :=
  if d.tagOnly then [] else (List.range d.runs).flatMap (fun i => s.readBlocks c (d.runAt i none).1 d.len)
def State.gatherReads (s : State) (c : Fin 16) (d x : Desc) (i : Nat) (vals : List (Option Nat)) : List (Option (Nat × Nat × Bool)) :=
  vals.zipIdx.flatMap (fun v => match v.1 with
    | some j => if j < x.dst % 2 ^ 32 then s.readBlocks c (d.runAt (i + v.2) (some j)).1 d.len else [none]
    | none => [none])

/-- A stream takes over what run-ahead has read of some reads, and asks for the rest of them that lies in host memory. -/
def State.askFor (s : State) (c : Fin 16) (t : Stream) (reads : List (Option (Nat × Nat × Bool))) : State × Stream :=
  let bs := (reads.filterMap id).eraseDups
  let host := ((bs.filter (fun b => b.2.2)).map (fun b => (b.1, b.2.1))).filter (fun b => !t.asked.contains b)
  let (todo, s) := s.claimPrefetch c t.id host
  let (ahead, s) := s.claimHbm c ((bs.filter (fun b => !b.2.2)).map (fun b => (b.1, b.2.1)))
  (s, { t with todo := t.todo ++ todo.map (fun b => (false, b.1, b.2)), asked := t.asked ++ host, ahead := t.ahead ++ ahead })

/-- A fault code found by a stream (Table 5.10), the first one standing. -/
def Stream.fail (t : Stream) (code : Nat) : Stream := if t.code = 0 then { t with code := code } else t

/-- Parts of a range that its read has not brought, from those that are lost. -/
def missing (a n : Nat) (lost : List (Nat × Nat)) : List (Nat × Nat) :=
  (lost.filter (fun l => decide (l.1 < a + n) && decide (a < l.1 + l.2))).map (fun l => (l.1 - a, l.1 + l.2 - a))

/-- Bytes of a range read on for a stream after those in `buf`, under a tag mode in a scratchpad: the state, the bytes, the parts that could not
be read with their fault code (Table 5.10), or `none` where the range is outside the context's regions. -/
def State.readRange (s : State) (c : Fin 16) (t : Stream) (mode : Nat) (a : Int) (n : Nat) (buf : Bytes) (errs : List LineErr) :
    Option (State × Bytes × List (Nat × Nat) × Nat) :=
  match s.place c a n with
  | .outside => none
  | .host a =>
    let miss := missing a n t.lost
    some (s, s.peekN a n, miss, if miss.isEmpty then 0 else 4)
  | .hbm a =>
    let miss := missing a n (((s.errsAt errs a n).filter (fun e => !lineReads e.kind)).map (fun e => (e.dpa / 64 * 64, 64)))
    let bs := s.peekN a n
    some ((s.readHbm errs a n t.ahead).2, bs, miss, if miss.isEmpty then 0 else 3)
  | .spad k off =>
    let (q, bs) := s.cores[k].readOn mode off n buf
    some (s.modCore k (fun _ => q), bs, [], 0)

/-- Whether a read of a range meets a scratchpad. -/
def State.readsSpad (s : State) (c : Fin 16) (a : Int) (n : Nat) : Bool :=
  match s.place c a n with
  | .spad _ _ => decide (0 < n)
  | _ => false

/-- A run of a stream that reaches HBM in fewer than 512 B (R168). -/
def State.smallRun (s : State) (c : Fin 16) (n : Nat) (l : List Place) : State :=
  if decide (n < 512) && l.any (fun p => match p with
    | .hbm _ => true
    | _ => false) then s.count (blkCore c) 0x0A30 else s

/-! Index values (R164) -/

/-- The index values that bytes of an index run spell: none for one that an unread part touches. -/
def idxValues (e : Nat) (bs : Bytes) (miss : List (Nat × Nat)) : List (Option Nat) :=
  (List.range (bs.length / e)).map (fun j =>
    if miss.any (fun m => decide (m.1 < e * j + e) && decide (e * j < m.2)) then none else some (leAt bs (e * j) e))

/-- The index stream read on, as far as its tags let it: a value that cannot be read is one that the descriptor fails to supply. A run outside the
regions gives code 2, an unreadable line code 3, a failed request of host memory code 4. -/
def State.readIndices (s : State) (c : Fin 16) (x : Desc) (errs : List LineErr) : Nat → Stream → State × Stream
  | 0, t => (s, t)
  | m + 1, t =>
    if t.d.idxRuns x ≤ t.irun then (s, t)
    else
      let a := (x.runAt t.irun none).1
      let n := t.d.idxBytes x t.irun
      let next := fun (t : Stream) (vals : List (Option Nat)) => { t with irun := t.irun + 1, ibuf := [], imiss := [], inds := t.inds ++ vals }
      match s.readRange c t x.srcTag a n t.ibuf errs with
      | none => s.readIndices c x errs m (next (t.fail 2) (List.replicate (n / x.elem) none))
      | some (s, bs, miss, code) =>
        if bs.length < n then (s, { t with ibuf := bs })
        else
          let s := s.smallRun c n [s.place c a n]
          s.readIndices c x errs m (next (if code = 0 then t else t.fail code) (idxValues x.elem bs (t.imiss ++ miss)))

/-- The index values known to run-ahead: those of an index stream whose host memory, if it has any, has come; read without any tag (R142). -/
def State.indexAhead (s : State) (c : Fin 16) (d x : Desc) : List (Option Nat) :=
  let known := (s.indexReads c d x).all (fun b => match b with
    | some (a, n, true) => s.cores[c].prefetch.any (fun f => f.host && f.dpa = a && f.len = n)
        && !s.vcl.reqs.any (fun q => decide (q.who = .prefetch c) && decide (q.dpa = a))
    | _ => true)
  if !known then []
  else (List.range (d.idxRuns x)).flatMap (fun i =>
    let n := d.idxBytes x i
    match s.place c (x.runAt i none).1 n with
    | .hbm a => idxValues x.elem (s.peekN a n) []
    | .host a => idxValues x.elem (s.peekN a n) []
    | .spad k off => if k = c then idxValues x.elem (s.cores[k].spadRd off n) [] else []
    | .outside => List.replicate (n / x.elem) none)

/-! Moving runs -/

/-- Parts of a piece of a run written at their place: `none` while a tag holds it. A block of HBM counts once (R168), the tag of a slot changes
once, and only where something of it is written (R145, R153). -/
def State.storeRun (s : State) (t : Stream) (p : Place) (bs : Bytes) (parts : List (Nat × Nat)) : Option State :=
  let at_ := fun (q : Nat × Nat) => (bs.drop q.1).take q.2
  match p with
  | .outside => some s
  | .hbm a =>
    let s := s.countBlocks true (parts.flatMap (fun q => blocksOf (a + q.1) q.2)).eraseDups
    some (forAll parts (fun q s => (s.writeLines (a + q.1) (at_ q)).2) s)
  | .host a => some (forAll parts (fun q s => s.pokeN (a + q.1) (at_ q)) s)
  | .spad k off =>
    (s.cores[k].tagWrite (t.d.dstTag = 1) (parts.flatMap (fun q => slotsOf (off + q.1) q.2)).eraseDups).map (fun q =>
      s.modCore k (fun _ => parts.foldl (fun k r => k.spadWr (off + r.1) (at_ r)) q))

/-- Whether byte `o` of what a run writes is of an element that an unreadable part of its source touches (R145, R163, R165). -/
def Desc.badByte (d : Desc) (miss : List (Nat × Nat)) (o : Nat) : Bool :=
  let e := d.elem
  let i := o / e * e
  let a := if d.transp then 64 * (i % (64 * e) / e) + i / (64 * e) * e else i
  miss.any (fun m => decide (m.1 < a + e) && decide (a < m.2))

/-- The numbers of a range that are good, as ranges. -/
def goodRuns (good : Nat → Bool) (lo n : Nat) : List (Nat × Nat) :=
  (List.range' lo n).foldr (fun o l =>
    if !good o then l
    else match l with
      | (a, m) :: r => if a = o + 1 then (o, m + 1) :: r else (o, 1) :: l
      | [] => [(o, 1)]) []

/-- The parts of a piece to write: all of it, or the elements that no unreadable part touches. -/
def Stream.parts (t : Stream) (p : Nat × Nat) : List (Nat × Nat) :=
  if t.miss.isEmpty then [p] else goodRuns (fun o => !t.d.badByte t.miss o) p.1 p.2

/-- The pieces in which a run is written: in a scratchpad cut at the ends of slots. -/
def State.pieces (s : State) (c : Fin 16) (t : Stream) (da : Int) : List (Nat × Nat) :=
  match s.place c da t.d.len with
  | .spad _ off => (slotCuts off t.d.len).map (fun q => (q.1 - off, q.2))
  | _ => [(0, t.d.len)]

/-- The run in progress written on, piece by piece as the elements that touch a piece have been read, up to the first slot whose tag holds it
(R153). -/
def State.writeRun (s : State) (goal : Place) (bs : Bytes) : List (Nat × Nat) → Stream → State × Stream
  | [], t => (s, t)
  | p :: r, t =>
    let parts := t.parts p
    if bs.length < (p.1 + p.2 + t.d.elem - 1) / t.d.elem * t.d.elem then (s, t)
    else match s.storeRun t goal bs parts with
      | none => (s, t)
      | some s =>
        let w : List (Bool × Nat × Nat) := match goal with
          | .host a => parts.flatMap (fun p => (hostWrites (a + p.1) p.2).map (fun q => (true, q.1, q.2)))
          | _ => []
        s.writeRun goal bs r { t with put := t.put + 1, bytes := t.bytes + (parts.map (·.2)).sum, todo := t.todo ++ w }

/-- Whether a write of a range covers an unreadable line of HBM in part (R377). -/
def State.mergesBad (s : State) (goal : Place) (n : Nat) : Bool :=
  match goal with
  | .hbm a => s.bad.any (fun b => decide (a < 64 * b.1 + 64) && decide (64 * b.1 < a + n) && !(decide (a ≤ 64 * b.1) && decide (64 * b.1 + 64 ≤ a + n)))
  | _ => false

/-- The index that run `i` uses: none of a stream, the value of a gather, or a wait for it; `some none` inside tells one out of range. -/
def Stream.indexOf (t : Stream) (i : Nat) : Option (Option (Option Nat)) :=
  match t.idx with
  | none => some (some none)
  | some x =>
    match t.inds[i]? with
    | some (some v) => some (if v < x.dst % 2 ^ 32 then some (some v) else none)
    | some none => some none
    | none => if t.d.idxRuns x ≤ t.irun then some none else none

/-- Run `i` of a stream goes on as far as its tags and what host memory has brought let it (R153, R157); the flag tells whether it is over. -/
def State.moveRun (s : State) (c : Fin 16) (t : Stream) (i : Nat) (errs : List LineErr) : State × Stream × Bool :=
  let d := t.d
  let over_ := fun (t : Stream) => { t with moved := i + 1, buf := [], miss := [], put := 0 }
  match t.indexOf i with
  | none => (s, t, false)
  | some none => (s, over_ (t.fail 1), true)
  | some (some x) =>
    let (sa, da) := d.runAt i x
    let n := d.len
    let goal := s.place c da n
    if goal = .outside then (s, over_ (t.fail 2), true)
    else if d.tagOnly then
      match goal with
      | .spad k off => (forAll (slotsOf off n) (fun m s => s.modCore k (fun q => q.setFull m d.tagFull)) s, over_ t, true)
      | _ => (s, over_ t, true)
    else if s.vcl.reqs.any (fun q => decide (q.who = .stream c t.id) && !q.write) || t.todo.any (fun q => !q.1) then (s, t, false)
    else
      let rd := if t.buf.length < n then s.readRange c t d.srcTag sa n t.buf errs else some (s, t.buf, [], 0)
      match rd with
      | none => (s, over_ (t.fail 2), true)
      | some (s, bs, miss, code) =>
        let t := { t with buf := bs, miss := t.miss ++ miss }
        let t := if code = 0 then t else t.fail code
        let out := if d.transp then (if bs.length < n then [] else transposed d.elem bs) else bs
        let t := if decide (t.put = 0) && s.mergesBad goal n then t.fail 3 else t
        let ps := s.pieces c t da
        let (s, t) := s.writeRun goal out (ps.drop t.put) t
        if ps.length ≤ t.put && n ≤ bs.length then (s.smallRun c n [goal, s.place c sa n], over_ t, true) else (s, t, false)

/-- A stream's runs moved as far as the tags let it; a fault of a stream that names no queue stops it (R153, R165). -/
def State.moveRuns (s : State) (c : Fin 16) (errs : List LineErr) : Nat → Stream → State × Stream
  | 0, t => (s, t)
  | n + 1, t =>
    if t.d.runs ≤ t.moved || (t.code ≠ 0 && !t.d.qen) then (s, t)
    else match s.moveRun c t t.moved errs with
      | (s, t, true) => s.moveRuns c errs n t
      | (s, t, false) => (s, t)

/-! Completion -/

/-- The span of scratchpad slots a destination pattern writes (R140): lowest slot and count, from its lowest and highest byte. -/
def Desc.span (d : Desc) : Int × Int :=
  let lo := fun (n : Nat) (k : Int) => min 0 (((n : Int) - 1) * k)
  let hi := fun (n : Nat) (k : Int) => max 0 (((n : Int) - 1) * k)
  ((d.dst : Int) + lo d.cnt1 d.dstr1 + lo d.cnt2 d.dstr2 + lo d.cnt3 d.dstr3,
   (d.dst : Int) + hi d.cnt1 d.dstr1 + hi d.cnt2 d.dstr2 + hi d.cnt3 d.dstr3 + (d.len : Int) - 1)

/-- The handle of a completed transfer (R140, R169). A transfer of no byte has LENGTH 0 and writes no slot, so its BASE in a
scratchpad is not stated: a free value (log entry 3). -/
def State.streamHandle (s : State) (c : Fin 16) (t : Stream) : Word × State :=
  let d := t.d
  match s.place c d.dst 0 with
  | .spad k _ =>
    if d.runs = 0 then
      let (v, s) := s.draw
      (mkHandle (v.toNat % 2 ^ 14) 0 t.code k.val, s)
    else
      let (lo, hi) := d.span
      let b := (lo.toNat - spadBase k.val) / 64
      (mkHandle b ((hi.toNat - spadBase k.val) / 64 - b + 1) t.code k.val, s)
  | _ => (mkHandle 0 0 t.code c.val, s)

/-- The place a transfer reserved in a queue filled with its entry (R140). -/
def LQueue.fill (q : LQueue) (id : Nat) (h : Word) (fault : Nat) (pc : BitVec 12) : LQueue :=
  { q with slots := q.slots.map (fun x => if x = QSlot.reserved id then QSlot.entry h fault pc else x) }.settle

/-- A completion's flag: an index out of range faults the context when the completion takes effect (R158, R188), and so does a flag whose word fails
its check (Table 14.1). -/
def State.setFlagOn (s : State) (c : Fin 16) (i : Nat) (chk : Check := .ok) : State :=
  match s.translateOn c i with
  | some p => if chk.isObj then s.checkFailed c chk else s.syncSet p (s.ctxOn c)
  | none => s.syncFault (s.ctxOn c) 1 0x0203

/-- A fault of a transfer that names no queue (R165). -/
def State.xferFault (s : State) (c : Fin 16) (pc : BitVec 12) (op code : Nat) : State :=
  let s := s.stick (blkCore c) 0x0A08 (2 ^ 7)
  let s := s.setReg (blkCore c) 0x0B08 (BitVec.ofNat 64 (pc.toNat + put op 40 8))
  s.faultOn c (blkCore c) (0x1010 + code)

/-- The pod time of a deadline in core cycles from now on, at the array clock of the issue (R166): part of a nanosecond counts as a whole one
(DESIGN CHOICE, log entry 85). -/
def State.deadlineAt (s : State) (cycles : Nat) : Option Word :=
  if cycles = 0 then none else some (s.podTime + BitVec.ofNat 64 ((cycles * 1000 + s.coreMHz - 1) / s.coreMHz))

/-- Whether a stream finished after its deadline (R167). -/
def State.late (s : State) (t : Stream) : Bool :=
  match t.due with
  | some d => decide (0 < (s.podTime - d).toInt)
  | none => false

/-- A stream that has moved every byte completes: queue entry, flag or nothing (R158, R159), or its fault is raised (R165). -/
def State.endStream (s : State) (c : Fin 16) (t : Stream) (chk : Check := .ok) : State :=
  let s := s.modCore c (fun k => { k with streams := k.streams.filter (fun u => u.id ≠ t.id) })
  if t.code ≠ 0 && !t.d.qen then s.xferFault c t.pc (if t.idx.isSome then 0x11 else 0x10) t.code
  else
    let s := s.count (blkCore c) 0x0A20 t.bytes
    let s := if s.late t then s.count (blkCore c) 0x0A28 else s
    if t.d.qen then
      let (h, s) := s.streamHandle c t
      s.modCore c (fun k => k.setQ t.d.queue ((k.q t.d.queue).fill t.id h t.code t.pc))
    else if t.d.flagEn then s.setFlagOn c t.d.flag chk
    else s

/-- Whether a stream ends now: it has moved every run and its writes are answered, or it names no queue and has found a fault, which is raised at
once (R158, R159, R165). -/
def State.streamEnds (s : State) (c : Fin 16) (t : Stream) : Bool :=
  (t.code ≠ 0 && !t.d.qen) || (decide (t.d.runs ≤ t.moved) && !s.awaitsHost c t)

/-- A stream goes on: its index values are read and its runs move as far as the tags and the answers let them, and with the last write answered
it completes. -/
def State.runStream (s : State) (c : Fin 16) (t : Stream) (errs : List LineErr) (chk : Check := .ok) : State :=
  let r : State × Stream := match t.idx with
    | some x =>
      if t.todo.any (fun q => !q.1) || s.vcl.reqs.any (fun q => decide (q.who = .stream c t.id) && !q.write) then (s, t)
      else
        let n := t.inds.length
        let (s, t) := s.readIndices c x errs (t.d.idxRuns x - t.irun) t
        s.askFor c t (s.gatherReads c t.d x n (t.inds.drop n))
    | none => (s, t)
  let (s, t) := r.1.moveRuns c errs (r.2.d.runs - r.2.moved) r.2
  let s := (s.modStream c t.id (fun _ => t)).vclPump
  match s.cores[c].streams.find? (fun u => decide (u.id = t.id)) with
  | some t => if s.streamEnds c t then s.endStream c t chk else s
  | none => s

/-- The next slot of a scratchpad range read for a stream with bad parity: the state, the bytes read so far with the slot's, and the part of them
that is lost. None while a tag holds the read, and of a range that is read or is no scratchpad's. -/
def State.badSlot (s : State) (c : Fin 16) (mode : Nat) (a : Int) (n : Nat) (buf : Bytes) : Option (State × Bytes × (Nat × Nat)) :=
  match s.place c a n with
  | .spad k off =>
    let p := off + buf.length
    let m := min (n - buf.length) (64 - p % 64)
    if m = 0 then none
    else (s.cores[k].slotRead mode (p / 64)).map (fun q => (s.modCore k (fun _ => q), buf ++ q.spadRd p m, (buf.length, buf.length + m)))
  | _ => none

/-- A scratchpad read of a stream that still fails parity (R145, R165): the slot that the stream reads next, of its index run or else of its
present run, is lost, code 3, and the elements or index values in it are none. -/
def State.parityRun (s : State) (c : Fin 16) (t : Stream) : State × Stream :=
  let d := t.d
  if s.vcl.reqs.any (fun q => decide (q.who = .stream c t.id) && !q.write) || t.todo.any (fun q => !q.1) then (s, t)
  else
    let idx := match t.idx with
      | some x => if t.irun < d.idxRuns x then s.badSlot c x.srcTag (x.runAt t.irun none).1 (d.idxBytes x t.irun) t.ibuf else none
      | none => none
    match idx, t.indexOf t.moved with
    | some (s, bs, m), _ => (s, { t.fail 3 with ibuf := bs, imiss := t.imiss ++ [m] })
    | none, some (some v) =>
      if d.tagOnly || decide (d.runs ≤ t.moved) then (s, t)
      else match s.badSlot c d.srcTag (d.runAt t.moved v).1 d.len t.buf with
        | some (s, bs, m) => (s, { t.fail 3 with buf := bs, miss := t.miss ++ [m] })
        | none => (s, t)
    | none, _ => (s, t)

/-- STREAM_COMPLETE (R158, R159): the stream `id` of a core has moved what its tags and its answers let it. -/
def execStreamComplete (c : Fin 16) (id : Nat) (errs : List LineErr) (r : Ended) (s : State) : Host.Outcome State Fault Refusal :=
  .next (
    if s.stopped then s
    else match s.cores[c].streams.find? (fun t => decide (t.id = id)) with
      | some t =>
        let s := s.count (blkCore c) 0x0A18 r.stall
        if r.chk = .ok || r.chk.isObj then s.runStream c t errs r.chk
        else if r.chk = .spad then (s.parityRun c t).1.runStream c (s.parityRun c t).2 errs
        else s
      | none => s)

/-! Issue -/

/-- A well-formed descriptor issued (R140, R157, R226): the fetch engine waits at 64 streams in flight, at its queue's limit and
at its depth. What run-ahead has read of it is used (R144). -/
def State.issueStream (s : State) (c : Fin 16) (num : Nat) (d : Desc) (idx : Option Desc) (chk : Check) : State :=
  let k := s.cores[c]
  let q := k.q d.queue
  if 64 ≤ k.streams.length then s.wait c .fetch .waitQueue
  else if d.qen && (decide (q.limit ≤ q.owed) || decide (q.depth ≤ q.slots.length)) then s.wait c .fetch .waitQueue
  else
    let id := k.nextId
    let t : Stream := { id := id, num := num, d := d, idx := idx, pc := k.fet.pc, due := s.deadlineAt d.deadline }
    let s := s.modCore c (fun k => { k with nextId := k.nextId + 1 })
    let s := if d.qen then s.modCore c (fun k => k.setQ d.queue { k.q d.queue with slots := (k.q d.queue).slots ++ [.reserved id] }) else s
    let (s, t) := s.askFor c t (match idx with
      | some x => s.indexReads c d x
      | none => s.dataReads c d)
    let s := (s.modCore c (fun k => { k with streams := k.streams ++ [t] })).advance c .fetch
    if d.runs = 0 then s.endStream c t chk else s.vclPump

/-- STREAM (R226): a descriptor without an index; one with IDX_EN faults. -/
def execStream (c : Fin 16) (w : Insn) (chk : Check) (s : State) : Host.Outcome State Fault Refusal :=
  .next (s.issue c .fetch w 0x10 (if chk.isObj then .ok else chk) (fun s =>
    let k := s.cores[c]
    let raw := k.descAt (fld w 16 8)
    let r := replacedBy k.fet w raw
    let d := { parseDesc raw with src := r.src.toNat, dst := r.dst.toNat, len := r.len.toNat }
    if d.idxEn then s.insnOperand c .fetch w
    else if !descOk raw r (k.q d.queue).exeToFet then s.descBad c w
    else s.issueStream c (fld w 16 8) d none chk))

/-- GATHER (R164, R226): a descriptor with IDX_EN and the index descriptor it names, whose SRC the instruction may replace. -/
def execGather (c : Fin 16) (w : Insn) (chk : Check) (s : State) : Host.Outcome State Fault Refusal :=
  .next (s.issue c .fetch w 0x11 (if chk.isObj then .ok else chk) (fun s =>
    let k := s.cores[c]
    let raw := k.descAt (fld w 16 8)
    let r := replacedBy k.fet w raw
    let d := { parseDesc raw with src := r.src.toNat, dst := r.dst.toNat, len := r.len.toNat }
    let iraw := k.descAt d.idx
    let isrc : Int := if bit w 39 then (k.fet.rd (fld w 40 4)).toInt else (fld iraw 0 64 : Int)
    if !d.idxEn then s.insnOperand c .fetch w
    else if !descOk raw r (k.q d.queue).exeToFet || !idxDescOk iraw isrc then s.descBad c w
    else s.issueStream c (fld w 16 8) d (some { parseDesc iraw with src := isrc.toNat }) chk))

/-! Run-ahead (R142, R143) -/

/-- Whether the fetch engine waits where run-ahead may start, or goes on (R142). -/
def State.mayRunAhead (s : State) (c : Fin 16) : Bool :=
  let op := opcodeOf (s.cores[c].insnAt .fetch)
  let st := (s.eng c .fetch).st
  let waits := s.syn.waits.any (fun x => x.core = c && x.eng = .fetch)
  !s.stopped && !s.saving c && (s.cores[c].run).isSome && !bit (s.reg (blkCore c) 0x0998) 0
    && ((waits && (op = 0x22 || op = 0x23 || op = 0x26)) || st = .waitQueue
        || ((st = .lull || st = .runAhead) && !s.cores[c].tagHolds .fetch && [0x10, 0x11, 0x12, 0x15, 0x18, 0x19].contains op))

/-- The instruction that the predicted path goes to after one: the start of the innermost loop that ends there, else the next. -/
def aheadNext (pc : Nat) (loops : List (Nat × Nat)) : Nat :=
  match loops with
  | (start, last) :: _ => if last = pc then start else pc + 1
  | [] => pc + 1

/-- The STREAM and GATHER instructions met along the predicted path, at most `n` instructions beyond: a loop's end and a backward
branch go back, a forward branch falls through, any other instruction ends the walk. -/
def aheadPath (k : Core) : Nat → Nat → List (Nat × Nat) → List Insn
  | 0, _, _ => []
  | n + 1, pc, loops =>
    let w := mget (fun _ => 0) k.imemF pc
    if 4096 ≤ pc then []
    else match opcodeOf w with
      | 0x10 => w :: aheadPath k n (aheadNext pc loops) loops
      | 0x11 => w :: aheadPath k n (aheadNext pc loops) loops
      | 0x03 => aheadPath k n (pc + 1) ((pc + 1, fld w 16 12) :: loops)
      | 0x04 =>
        let dest := fld w 16 12
        if dest ≤ pc then aheadPath k n dest (loops.filter (fun l => decide (l.1 ≤ dest) && decide (dest ≤ l.2)))
        else aheadPath k n (aheadNext pc loops) loops
      | _ => []

/-- The reads of an instruction that a prefetch may start, `none` for one outside the context's regions or of an index out of range: one piece
of at most 4,096 B of 64 B lines is one prefetch (DEDUCED, log entry 86). SRC, DST, LEN and ISRC are taken as the engine’s registers stand at the wait, index
registers of LOOP included (DESIGN CHOICE, log entry 86). -/
def State.aheadReads (s : State) (c : Fin 16) (w : Insn) : List (Option (Nat × Nat × Bool)) :=
  let k := s.cores[c]
  let raw := k.descAt (fld w 16 8)
  let r := replacedBy k.fet w raw
  let d := { parseDesc raw with src := r.src.toNat, dst := r.dst.toNat, len := r.len.toNat }
  if !descOk raw r false || d.tagOnly then []
  else if opcodeOf w = 0x10 then (if d.idxEn then [] else s.dataReads c d)
  else
    let iraw := k.descAt d.idx
    let isrc : Int := if bit w 39 then (k.fet.rd (fld w 40 4)).toInt else (fld iraw 0 64 : Int)
    if !d.idxEn || !idxDescOk iraw isrc then []
    else
      let x := { parseDesc iraw with src := isrc.toNat }
      s.indexReads c d x ++ s.gatherReads c d x 0 (s.indexAhead c d x)

/-- RUNAHEAD_PREFETCH (R142, R143): a waiting fetch engine walks at most 32 instructions ahead and starts reads; a read outside the regions is
dropped. Sixteen are kept at most, each counted until it is used or dropped (DEDUCED, log entry 86). -/
def execRunaheadPrefetch (c : Fin 16) (s : State) : Host.Outcome State Fault Refusal :=
  .next (
    if !s.mayRunAhead c then s
    else
      let k := s.cores[c]
      let reads := (aheadPath k 32 (aheadNext k.fet.pc.toNat (k.fet.loops.map (fun l => (l.start, l.last)))) (k.fet.loops.map (fun l => (l.start, l.last)))).flatMap (s.aheadReads c)
      let s := s.modEng c .fetch (fun g => { g with st := .runAhead })
      forAll reads (fun r s =>
        match r with
        | none => s.stick (blkCore c) 0x0988 (2 ^ 4)
        | some (a, n, host) =>
          if 16 ≤ s.cores[c].prefetch.length || s.cores[c].prefetch.any (fun f => f.dpa = a && f.len = n)
            then s
          else
            let take := fun (s : State) => (s.count (blkCore c) 0x0970).modCore c (fun k => { k with prefetch := k.prefetch ++ [⟨a, n, host⟩] })
            if host then ((s.tryReq (.prefetch c) false a n).map (fun u => take u.emit)).getD s else take (s.countHbm false a n)) s)

end Sys2Proof.Machine
end

