-- ==== Sys2Proof/Machine/Fetch.lean ====
section
/-! DEFINITION. The other instructions of the fetch engine and the sync instructions of both: PUT, windows, bindings, handle queues (R170 to R174, R227 to R229), flags, counters, barriers and remote signals (R188 to R207, R230, R231, R456). -/

namespace Sys2Proof.Machine

/-! PUT -/

/-- The endpoint and generation that PUT and RSIGNAL name, replaced by a register other than S0 (Table 8.6). -/
def endpointOf (g : Engine) (w : Insn) (ep gen reg : Nat) : BitVec 16 × Nat :=
  if fld w reg 4 = 0 then (BitVec.ofNat 16 (fld w ep 16), fld w gen 8)
  else (BitVec.ofNat 16 (fld (g.rd (fld w reg 4)) 0 16), fld (g.rd (fld w reg 4)) 16 8)

/-- A PUT's lines sent as packets of at most PKT_MAX bytes (R174, R256). -/
def State.sendLines (s : State) (c : Fin 16) (id : Nat) (dst : BitVec 16) (core win gen off : Nat) (bs : Bytes) : State :=
  let per := s.fab.banks[s.fab.inj].pktMaxM1.toNat + 1
  let lines := bs.length / 64
  forAll (List.range ((lines + per - 1) / per)) (fun i s =>
    let word := put core 0 4 + put win 4 4 + put gen 8 8 + put (off + i * per) 16 14
    s.sendPkt dst 0x01 (BitVec.ofNat 32 word) ((bs.drop (64 * per * i)).take (64 * per)) (.put c id) (s.ctxOn c)) s

/-- A PUT whose packets are all answered completes (R158, R174, R177): its entry carries the code of a source line that could not be read, or of
a refusal. -/
def State.endPut (s : State) (c : Fin 16) (id : Nat) : State :=
  let mine := fun (a : Agent) => decide (a = .put c id)
  if s.fab.outst.any (fun o => mine o.agent) || s.fab.waiting.any (fun w => mine w.2.1) then s
  else
    match pull (fun (j : PutJob) => j.id = id) s.cores[c].puts with
    | none => s
    | some (j, rest) =>
      let s := s.modCore c (fun k => { k with puts := rest })
      match j.queue with
      | some q =>
        s.modCore c (fun k => k.setQ q ((k.q q).fill id (mkHandle j.slot j.lines (if j.fault = 0 then j.code else j.fault) c.val) j.fault j.pc))
      | none =>
        let s := if j.code = 0 then s
          else (s.stick (blkCore c) 0x0A08 (2 ^ 6)).setReg (blkCore c) 0x0A70
            (BitVec.ofNat 64 (put j.code 36 4 + put j.win 32 4 + j.dst.toNat))
        match j.flag with
        | some i => s.setFlagOn c i
        | none => s

/-- The lines of a PUT that could be read, sent; with none of them to send it completes at once (R145, R174). -/
def State.sendGood (s : State) (c : Fin 16) (id : Nat) (dst : BitVec 16) (core win gen off : Nat) (bs : Bytes) (lost : List Nat) : State :=
  let l := if lost.isEmpty then [(0, bs.length / 64)] else goodRuns (fun i => !lost.contains i) 0 (bs.length / 64)
  let s := forAll l (fun r s => s.sendLines c id dst core win gen (off + r.1) ((bs.drop (64 * r.1)).take (64 * r.2))) s
  if l.isEmpty then s.endPut c id else s

/-- PUT (R174, R227): it holds its place while a slot of its source is not full, the slots before that one read already (R153). A source that
still fails parity is a fault of the transfer: deferred where the PUT is bound to a queue, which sends the lines it could read (R145, R165). -/
def execPut (c : Fin 16) (w : Insn) (chk : Check) (s : State) : Host.Outcome State Fault Refusal :=
  .next (s.issue c .fetch w 0x12 (if chk = .spad then .ok else chk) (fun s =>
    let k := s.cores[c]
    let g := k.fet
    let lines := fld w 78 6 + 1
    let slot := g.sum w 64 14 88
    let off := g.sum w 48 14 84
    let q := k.q (fld w 112 3)
    let qen := bit w 111
    if (qen && bit w 110) || !within slot 0 (12288 - lines) || !within off 0 12287 || (qen && q.exeToFet) then s.insnOperand c .fetch w
    else if qen && (decide (q.limit ≤ q.owed) || decide (q.depth ≤ q.slots.length)) then s.wait c .fetch .waitQueue
    else
      let next := slot.toNat + g.got.length / 64
      let bad : Option (Core × Bytes × List Nat) :=
        if chk ≠ .spad then some (k, g.got, g.lost)
        else (k.slotRead (fld w 62 2) next).map (fun k => (k, g.got ++ k.spadRd (64 * next) 64, g.lost ++ [g.got.length / 64]))
      match bad with
      | none => s
      | some (k1, got, lost) =>
      let (k', bs) := k1.readOn (fld w 62 2) (64 * slot.toNat) (64 * lines) got
      let id := k.nextId
      if chk = .spad && !qen then s.xferFault c g.pc 0x12 3
      else if bs.length < 64 * lines then s.modCore c (fun _ => { k' with fet := { g with got := bs, lost := lost } })
      else
        let (dst, gen) := endpointOf g w 16 40 92
        let job : PutJob := ⟨id, dst, fld w 36 4, if qen then some (Fin.ofNat 8 (fld w 112 3)) else none,
          if bit w 110 then some (fld w 96 14) else none, slot.toNat, lines, 0, k.fet.pc, if lost.isEmpty then 0 else 3⟩
        let s := s.modCore c (fun _ => { k' with nextId := id + 1, puts := k.puts ++ [job] })
        let s := if qen then s.modCore c (fun k => k.setQ (fld w 112 3) { k.q (fld w 112 3) with slots := (k.q (fld w 112 3)).slots ++ [.reserved id] }) else s
        (s.sendGood c id dst (fld w 32 4) (fld w 36 4) gen off.toNat bs lost).advance c .fetch))

/-! Windows -/

def Core.win (k : Core) (n : Nat) : Window := k.wins[n % 16]'(Nat.mod_lt _ (by decide))
def Core.setWin (k : Core) (n : Nat) (v : Window) : Core := { k with wins := k.wins.set (n % 16) v (Nat.mod_lt _ (by decide)) }

/-- Whether two slot ranges share a slot. -/
def overlap (a n b m : Nat) : Bool := decide (a < b + m) && decide (b < a + n)

/-- WIN_OPEN (R172). -/
def execWinOpen (c : Fin 16) (w : Insn) (chk : Check) (s : State) : Host.Outcome State Fault Refusal :=
  .next (s.issue c .fetch w 0x13 chk (fun s =>
    let k := s.cores[c]
    let base := k.fet.sum w 20 14 34
    let len := k.fet.sum w 38 14 52
    let n := fld w 16 4
    if !within base 0 12287 || !within len 0 12288 then s.insnOperand c .fetch w
    else if (k.win n).opened || len = 0 || decide (12288 < base + len)
        || k.wins.toList.any (fun v => v.opened && overlap v.base.toNat v.len.toNat base.toNat len.toNat) then s.winFault c w
    else
      ((s.modCore c (fun k => k.setWin n { k.win n with opened := true, base := BitVec.ofInt 14 base, len := BitVec.ofInt 14 len, count := 0 })).serveWaits).advance c .fetch))

/-- WIN_CLOSE (R173): the window's held signals are refused (R206). -/
def execWinClose (c : Fin 16) (w : Insn) (chk : Check) (s : State) : Host.Outcome State Fault Refusal :=
  .next (s.issue c .fetch w 0x14 chk (fun s =>
    let k := s.cores[c]
    let n := fld w 16 4
    let v := k.win n
    if !v.opened then s.winFault c w
    else
      let x := s.ctxOn c
      let s := s.modCore c (fun k => k.setWin n { v with opened := false, gen := v.gen + 1 })
      (s.refuseHeld (fun h => h.core = c && h.win.val = n && some h.ctx = x) 1).advance c .fetch))

/-! Bindings -/

/-- A core's index and the number of cores it counts among: those of its half when its partition serves two seats (R216, R390). -/
def State.seatOf (s : State) (c : Fin 16) : Nat × Nat :=
  let p := s.partOf c
  let i := c.val - s.parts[p].first
  let n := s.parts[p].cores
  if s.twin.halved.contains p then (i % (n / 2), n / 2) else (i, n)

/-- Whether the step on a core has a dual verdict (R119, R120). -/
def State.dualOn (s : State) (c : Fin 16) : Bool :=
  match s.ctxOn c with
  | some x => s.rims[s.partOf c].duals.any (fun d => d.1 = x && d.2.1 = s.stepOn c && d.2.2)
  | none => false

/-- WEFT_BIND (R229). -/
def execWeftBind (c : Fin 16) (w : Insn) (chk : Check) (s : State) : Host.Outcome State Fault Refusal :=
  .next (s.issue c .fetch w 0x15 chk (fun s =>
    let k := s.cores[c]
    let layer := k.fet.sum w 16 12 28
    let strand := k.fet.sum w 32 12 44
    let (i, n) := s.seatOf c
    if !within layer 0 4094 || !within strand 0 4095 || decide (strand.toNat % n ≠ i) || (bit w 48 && !s.dualOn c)
        || ((k.run.map (·.task)).join).isSome then s.insnOperand c .fetch w
    else if 4 ≤ k.bindQ.length then s.wait c .fetch .waitQueue
    else (s.modCore c (fun k => { k with bindQ := k.bindQ ++ [⟨layer.toNat, strand.toNat, bit w 48, fld w 64 32⟩] })).advance c .fetch))

/-! Handle queues -/

/-- The physical global handle queue that a context's number names (R228). -/
def State.ghqOf (s : State) (c : Fin 16) (g : Nat) : Option Nat :=
  ((s.ctxOn c).bind s.ctx?).bind (fun x => x.ghqs[g]?)

def State.ghq (s : State) (n : Nat) : Ghq := s.syn.ghq[n % 64]'(Nat.mod_lt _ (by decide))
def State.setGhq (s : State) (n : Nat) (q : Ghq) : State :=
  { s with syn := { s.syn with ghq := s.syn.ghq.set (n % 64) q (Nat.mod_lt _ (by decide)) } }

/-- HPUSH (R170, R228). -/
def execHpush (c : Fin 16) (w : Insn) (chk : Check) (s : State) : Host.Outcome State Fault Refusal :=
  .next (s.issue c .fetch w 0x18 chk (fun s =>
    let k := s.cores[c]
    let v := k.fet.rd (fld w 16 4)
    let n := fld w 21 6
    if bit w 20 then
      match s.ghqOf c n with
      | none => s.hqFault c w
      | some g =>
        let q := s.ghq g
        if 32 ≤ q.entries.length then s.wait c .fetch .waitQueue
        else ((s.setGhq g { q with entries := q.entries ++ [v] }).noteMet).advance c .fetch
    else if 8 ≤ n then s.insnOperand c .fetch w
    else
      let q := k.q n
      if q.exeToFet then s.queueProtocol c .fetch w
      else if q.depth ≤ q.slots.length then s.wait c .fetch .waitQueue
      else (s.modCore c (fun k => k.setQ n { q with slots := q.slots ++ [.entry v 0 k.fet.pc] })).advance c .fetch))

/-- HPOP (R170, R228). -/
def execHpop (c : Fin 16) (w : Insn) (chk : Check) (s : State) : Host.Outcome State Fault Refusal :=
  .next (s.issue c .fetch w 0x19 chk (fun s =>
    let k := s.cores[c]
    let n := fld w 21 6
    if bit w 20 then
      match s.ghqOf c n with
      | none => s.hqFault c w
      | some g =>
        let q := s.ghq g
        match q.entries with
        | [] => s.wait c .fetch .waitQueue
        | v :: r => ((s.setGhq g { q with entries := r }).noteMet.modEng c .fetch (fun e => e.wr (fld w 16 4) v)).advance c .fetch
    else if 8 ≤ n then s.insnOperand c .fetch w
    else
      let q := k.q n
      if !q.exeToFet then s.queueProtocol c .fetch w
      else match q.slots with
        | .entry v _ _ :: r =>
          ((s.modCore c (fun k => k.setQ n { q with slots := r }.settle)).modEng c .fetch (fun e => e.wr (fld w 16 4) v)).advance c .fetch
        | _ => s.wait c .fetch .waitQueue))

/-! Sync instructions (R230, R456) -/

/-- The kinds an instruction may name. -/
def kindOk (op : Nat) (k : ObjKind) : Bool :=
  match op, k with
  | 0x20, .barrier | 0x21, .barrier => false
  | 0x20, _ | 0x21, _ => true
  | 0x22, .pipe | 0x22, .flag => true
  | 0x23, .counter | 0x24, .counter => true
  | 0x26, .barrier => true
  | _, _ => false

/-- The object of a sync instruction, checked at issue (R188, R198, R456): `body` acts on its physical index. -/
def State.syncInsn (s : State) (c : Fin 16) (e : Eng) (w : Insn) (body : Nat → State → State) : State :=
  let i := (s.eng c e).sum w 16 14 30
  if !within i 0 16383 then s.insnOperand c e w
  else
    match s.translateOn c i.toNat with
    | none => s.syncFault (s.ctxOn c) 1 0x0203
    | some p => if kindOk (opcodeOf w) (objKind p) then body p s else s.syncFault (s.ctxOn c) 2 0x0204

/-- An operation an engine posts without holding its place: at once for the fetch engine, after the work issued before it for the
execute engine (R191, R230). -/
def State.post (s : State) (c : Fin 16) (e : Eng) (op : SyncOp) (i : Nat) : State :=
  match e with
  | .fetch =>
    match op with
    | .set => s.syncSet i (s.ctxOn c)
    | .clear => s.syncClear i
    | .arrive => s.barArrive i (s.ctxOn c)
  | .exec =>
    let k := s.cores[c]
    let deps := k.arrayQ.map (·.id) ++ k.readouts.map (·.id) ++ k.vecQ.map (·.id)
    (s.modCore c (fun k => { k with posted := k.posted ++ [⟨deps, op, i⟩] })).servePosted c

/-- FSET (R192, R195). -/
def execFset (c : Fin 16) (e : Eng) (w : Insn) (chk : Check) (s : State) : Host.Outcome State Fault Refusal :=
  .next (s.issue c e w 0x20 chk (fun s => s.syncInsn c e w (fun i s => (s.doneNow c e w).post c e .set i)))

/-- FCLR (R192, R195). -/
def execFclr (c : Fin 16) (e : Eng) (w : Insn) (chk : Check) (s : State) : Host.Outcome State Fault Refusal :=
  .next (s.issue c e w 0x21 chk (fun s => s.syncInsn c e w (fun i s => (s.doneNow c e w).post c e .clear i)))

/-- A wait registered in the order of arrival (R194, R199), or the instruction done if it holds already. -/
def State.register (s : State) (c : Fin 16) (e : Eng) (k : WaitKind) : State :=
  let s : State := { s with syn := { s.syn with waits := s.syn.waits ++ [⟨c, e, k⟩] } }
  s.serveWaits

/-- FWAIT (R194): an execute engine's wait follows the operations it posted before (R191). -/
def execFwait (c : Fin 16) (e : Eng) (w : Insn) (chk : Check) (s : State) : Host.Outcome State Fault Refusal :=
  .next (s.issue c e w 0x22 chk (fun s => s.syncInsn c e w (fun i s =>
    if e = .exec && !s.cores[c].posted.isEmpty then s
    else s.register c e (if bit w 34 then .flagTest i else .flagTake i))))

/-- CWAIT (R195, R197): a counter, or a window of its own core. -/
def execCwait (c : Fin 16) (w : Insn) (chk : Check) (s : State) : Host.Outcome State Fault Refusal :=
  .next (s.issue c .fetch w 0x23 chk (fun s =>
    let g := s.eng c .fetch
    let thr : BitVec 32 := BitVec.ofInt 32 (g.sum w 64 32 35)
    let i := g.sum w 16 14 30
    if bit w 34 then
      if !within i 0 15 then s.insnOperand c .fetch w
      else s.register c .fetch (.window (Fin.ofNat 16 i.toNat) thr)
    else s.syncInsn c .fetch w (fun p s => s.register c .fetch (.counter p thr))))

/-- CONSUME (R195, R196). -/
def execConsume (c : Fin 16) (w : Insn) (chk : Check) (s : State) : Host.Outcome State Fault Refusal :=
  .next (s.issue c .fetch w 0x24 chk (fun s => s.syncInsn c .fetch w (fun i s =>
    let n := fld w 64 16
    let have_ := fld (s.obj i) 0 32
    if have_ < n then s.syncFault (s.ctxOn c) 0 0x0202
    else ((s.setObj i (withFld (s.obj i) 0 32 (have_ - n))).serveWaits).advance c .fetch)))

/-- BARRIER (R201 to R203): ARRIVE goes on, ARRIVE_WAIT waits for the phase to change. -/
def execBarrier (c : Fin 16) (w : Insn) (chk : Check) (s : State) : Host.Outcome State Fault Refusal :=
  .next (s.issue c .fetch w 0x26 chk (fun s => s.syncInsn c .fetch w (fun i s =>
    if bit w 34 then
      let phase := bit (s.obj i) 35
      let s := s.barArrive i (s.ctxOn c)
      if (s.cores[c].run).isNone then s else s.register c .fetch (.barrier i phase)
    else (s.advance c .fetch).post c .fetch .arrive i)))

/-- RSIGNAL (R204, R231). -/
def execRsignal (c : Fin 16) (w : Insn) (chk : Check) (s : State) : Host.Outcome State Fault Refusal :=
  .next (s.issue c .fetch w 0x25 chk (fun s =>
    let g := s.eng c .fetch
    let (dst, gen) := endpointOf g w 16 40 100
    let gate := BitVec.ofInt 32 (g.sum w 64 32 96)
    let word := put (fld w 32 4) 0 4 + put (fld w 36 4) 4 4 + put gen 8 8 + put (fld w 50 14) 16 14 + put (fld w 48 1) 30 1
    let flag := if bit w 49 then some (fld w 104 14) else none
    (s.sendPkt dst 0x03 (BitVec.ofNat 32 word) (toLe 4 gate.toNat ++ List.replicate 60 0) (.rsignal c (fld w 36 4) flag) (s.ctxOn c)).advance c .fetch))

end Sys2Proof.Machine
end

