-- ==== Sys2Proof/Machine/Float.lean ====
section
/-! DEFINITION. Binary floating point, exactly: FP32, BF16, FP8 E4M3 and FP8 E5M2 values as integers times powers of two, one rounding at the end (R39, R40, R46), and the vector unit's operations (R46 to R48). -/

namespace Sys2Proof.Machine

/-- A floating-point format: precision with the hidden bit, exponent of the least subnormal step, the bits of the largest
finite value, the position of the sign, and the canonical NaN (R40). -/
structure FFmt where
  prec    : Nat
  minExp  : Int
  maxBits : Nat
  signBit : Nat
  qnan    : Nat
deriving DecidableEq, Repr

def FFmt.fp32 : FFmt := ⟨24, -149, 0x7F7FFFFF, 31, 0x7FC00000⟩
def FFmt.bf16 : FFmt := ⟨8, -133, 0x7F7F, 15, 0x7FC0⟩
def FFmt.e4m3 : FFmt := ⟨4, -9, 0x7E, 7, 0x7F⟩
def FFmt.e5m2 : FFmt := ⟨3, -16, 0x7B, 7, 0x7F⟩

/-- A decoded value: `fin neg m e` is ± m × 2^e. -/
inductive FVal where
  | nan
  | inf (neg : Bool)
  | fin (neg : Bool) (m : Nat) (e : Int)
deriving DecidableEq, Repr

/-- The sign of a value. -/
def FVal.neg : FVal → Bool
  | .nan => false
  | .inf n => n
  | .fin n _ _ => n

/-- A non-zero magnitude (q + part) × 2^e, with `sticky` telling a part above 0 and below 1, rounded to nearest with ties to
even on a format's grid: the bits of the result, above `maxBits` where it overflows. -/
def roundMag (f : FFmt) (q : Nat) (sticky : Bool) (e : Int) : Nat :=
  let top : Int := (bitLen q : Int) + e - (f.prec : Int)
  let t : Int := if top < f.minExp then f.minExp else top
  let keep : Nat :=
    if t ≤ e then q <<< (e - t).toNat
    else
      let s := (t - e).toNat
      let k := q >>> s
      let rem := q % 2 ^ s
      let half := 2 ^ (s - 1)
      if half < rem ∨ (rem = half ∧ (sticky ∨ k % 2 = 1)) then k + 1 else k
  (t - f.minExp).toNat * 2 ^ (f.prec - 1) + keep

/-- The bits of a sign and a magnitude. -/
def withSign (f : FFmt) (neg : Bool) (mag : Nat) : Nat := mag + if neg then 2 ^ f.signBit else 0

/-- A finite value's bits in a format, the magnitude limited to the largest finite value (R40). -/
def clampTo (f : FFmt) (neg : Bool) (mag : Nat) : Nat := withSign f neg (if f.maxBits < mag then f.maxBits else mag)

/-- FP32 bits decoded. -/
def decF32 (b : BitVec 32) : FVal :=
  let neg := bit b 31
  let ex := fld b 23 8
  let man := fld b 0 23
  if ex = 255 then (if man = 0 then .inf neg else .nan)
  else if ex = 0 then .fin neg man (-149)
  else .fin neg (2 ^ 23 + man) ((ex : Int) - 150)

/-- A magnitude as FP32, infinity on overflow (R46). -/
def encF32 (neg : Bool) (q : Nat) (sticky : Bool) (e : Int) : BitVec 32 :=
  if q = 0 ∧ sticky = false then BitVec.ofNat 32 (withSign .fp32 neg 0)
  else
    let b := roundMag .fp32 q sticky e
    BitVec.ofNat 32 (withSign .fp32 neg (if 0x7F7FFFFF < b then 0x7F800000 else b))

def qnan32 : BitVec 32 := 0x7FC00000#32
def pinf32 : BitVec 32 := 0x7F800000#32
def ninf32 : BitVec 32 := 0xFF800000#32

/-- A signed integer times a power of two as FP32, a zero result with the sign given. -/
def encInt (zeroNeg : Bool) (v : Int) (e : Int) : BitVec 32 :=
  if v = 0 then BitVec.ofNat 32 (withSign .fp32 zeroNeg 0) else encF32 (decide (v < 0)) v.natAbs false e

/-- The sticky bits an operation raises (R47): INVALID, DIV_ZERO, OVERFLOW. -/
structure VFlags where
  invalid  : Bool := false
  divZero  : Bool := false
  overflow : Bool := false
deriving DecidableEq, Repr

def VFlags.or (a b : VFlags) : VFlags := ⟨a.invalid || b.invalid, a.divZero || b.divZero, a.overflow || b.overflow⟩

def isNan32 (b : BitVec 32) : Bool := decide (decF32 b = .nan)
def isInf32 (b : BitVec 32) : Bool := fld b 0 31 == 0x7F800000
def isFin32 (b : BitVec 32) : Bool := fld b 23 8 != 255
def isZero32 (b : BitVec 32) : Bool := fld b 0 31 == 0

/-- The signed integer of a finite value at an exponent no higher than its own. -/
def atExp (neg : Bool) (m : Nat) (e t : Int) : Int :=
  let v : Int := (m <<< (e - t).toNat : Nat)
  if neg then -v else v

/-- a + b, correctly rounded (R46). -/
def fadd (a b : BitVec 32) : BitVec 32 :=
  match decF32 a, decF32 b with
  | .nan, _ => qnan32
  | _, .nan => qnan32
  | .inf n, .inf n' => if n = n' then a else qnan32
  | .inf _, _ => a
  | _, .inf _ => b
  | .fin n m e, .fin n' m' e' =>
    let t := min e e'
    encInt (n && n' && m == 0 && m' == 0) (atExp n m e t + atExp n' m' e' t) t

def fneg (a : BitVec 32) : BitVec 32 := if isNan32 a then qnan32 else a ^^^ 0x80000000#32
def fabs (a : BitVec 32) : BitVec 32 := if isNan32 a then qnan32 else a &&& 0x7FFFFFFF#32

def fsub (a b : BitVec 32) : BitVec 32 := if isNan32 a || isNan32 b then qnan32 else fadd a (b ^^^ 0x80000000#32)

/-- a × b, correctly rounded (R46). -/
def fmul (a b : BitVec 32) : BitVec 32 :=
  match decF32 a, decF32 b with
  | .nan, _ => qnan32
  | _, .nan => qnan32
  | .inf n, .inf n' => if n = n' then pinf32 else ninf32
  | .inf n, .fin n' m _ => if m = 0 then qnan32 else if n = n' then pinf32 else ninf32
  | .fin n m _, .inf n' => if m = 0 then qnan32 else if n = n' then pinf32 else ninf32
  | .fin n m e, .fin n' m' e' => encF32 (n != n') (m * m') false (e + e')

/-- a × b + c with one rounding (R46). -/
def ffma (a b c : BitVec 32) : BitVec 32 :=
  match decF32 a, decF32 b, decF32 c with
  | .nan, _, _ => qnan32
  | _, .nan, _ => qnan32
  | _, _, .nan => qnan32
  | .fin n m e, .fin n' m' e', .fin k mc ec =>
    let pe := e + e'
    let t := min pe ec
    encInt (n != n' && k && (m * m' == 0) && mc == 0) (atExp (n != n') (m * m') pe t + atExp k mc ec t) t
  | .fin _ _ _, .fin _ _ _, .inf _ => c
  | _, _, _ => fadd (fmul a b) c

/-- a ÷ b, correctly rounded (R46). -/
def fdiv (a b : BitVec 32) : BitVec 32 :=
  match decF32 a, decF32 b with
  | .nan, _ => qnan32
  | _, .nan => qnan32
  | .inf _, .inf _ => qnan32
  | .inf n, .fin n' _ _ => if n = n' then pinf32 else ninf32
  | .fin n _ _, .inf n' => encF32 (n != n') 0 false 0
  | .fin n m e, .fin n' m' e' =>
    if m' = 0 then (if m = 0 then qnan32 else if n = n' then pinf32 else ninf32)
    else
      let num := m <<< 60
      encF32 (n != n') (num / m') (num % m' != 0) (e - e' - 60)

/-- √a, correctly rounded (R46). -/
def fsqrt (a : BitVec 32) : BitVec 32 :=
  match decF32 a with
  | .nan => qnan32
  | .inf n => if n then qnan32 else pinf32
  | .fin n m e =>
    if m = 0 then a
    else if n then qnan32
    else
      let odd := (e % 2 ≠ 0)
      let q := if odd then m <<< 61 else m <<< 60
      let e' := if odd then (e - 61) / 2 else (e - 60) / 2
      let r := isqrt q
      encF32 false r (r * r != q) e'

/-- a < b for values that are not NaN. -/
def flt (a b : BitVec 32) : Bool :=
  match decF32 a, decF32 b with
  | .fin n m e, .fin n' m' e' => let t := min e e'; decide (atExp n m e t < atExp n' m' e' t)
  | .inf n, .inf n' => n && !n'
  | .inf n, .fin _ _ _ => n
  | .fin _ _ _, .inf n' => !n'
  | _, _ => false

/-- The larger, +0 above −0; NaN with a NaN source (R46). -/
def fmax (a b : BitVec 32) : BitVec 32 :=
  if isNan32 a || isNan32 b then qnan32
  else if isZero32 a && isZero32 b then (if bit a 31 then b else a)
  else if flt a b then b else a

/-- The smaller, −0 below +0; NaN with a NaN source (R46). -/
def fmin (a b : BitVec 32) : BitVec 32 :=
  if isNan32 a || isNan32 b then qnan32
  else if isZero32 a && isZero32 b then (if bit a 31 then a else b)
  else if flt b a then b else a

/-- The sticky bits of one operation from its sources and its result (R47). -/
def opFlags (src : List (BitVec 32)) (r : BitVec 32) (div : Bool) : VFlags :=
  { invalid := isNan32 r && src.all (fun x => !isNan32 x)
    divZero := div && (match src with | [a, b] => isFin32 a && !isZero32 a && isZero32 b | _ => false)
    overflow := isInf32 r && src.all isFin32 && !div
      || div && isInf32 r && (match src with | [a, b] => isFin32 a && isFin32 b | _ => false) }

/-- FP8 E4M3 or E5M2, or BF16, widened exactly to FP32 (R237): an E4M3 NaN becomes the canonical NaN, an E5M2 infinity stays. -/
def widen8e4 (b : Nat) : BitVec 32 :=
  let neg := 128 ≤ b % 256
  let ex := (b / 8) % 16
  let man := b % 8
  if ex = 15 ∧ man = 7 then qnan32
  else if ex = 0 then encF32 neg man false (-9)
  else encF32 neg (8 + man) false ((ex : Int) - 10)

def widen8e5 (b : Nat) : BitVec 32 :=
  let neg := 128 ≤ b % 256
  let ex := (b / 4) % 32
  let man := b % 4
  if ex = 31 then (if man = 0 then (if neg then ninf32 else pinf32) else qnan32)
  else if ex = 0 then encF32 neg man false (-16)
  else encF32 neg (4 + man) false ((ex : Int) - 17)

def widenBf16 (b : Nat) : BitVec 32 :=
  let w := BitVec.ofNat 32 ((b % 2 ^ 16) * 2 ^ 16)
  if isNan32 w then qnan32 else w

/-- An FP32 value converted to a narrower format, nearest with ties to even, clamped to the largest finite value (R46). -/
def narrow (f : FFmt) (x : BitVec 32) : Nat :=
  match decF32 x with
  | .nan => f.qnan
  | .inf n => clampTo f n (f.maxBits + 1)
  | .fin n m e => if m = 0 then withSign f n 0 else clampTo f n (roundMag f m false e)

/-- The bytes of one element of type `t` (Table 8.13: FP32, BF16, FP8 E4M3, FP8 E5M2). -/
def typeBytes (t : Nat) : Nat := if t = 0 then 4 else if t = 1 then 2 else 1

/-- One source element, converted exactly to FP32 (R237). -/
def decElem (t : Nat) (n : Nat) : BitVec 32 :=
  if t = 0 then BitVec.ofNat 32 n else if t = 1 then widenBf16 n else if t = 2 then widen8e4 n else widen8e5 n

/-- One result element in its output type (R237). -/
def encElem (t : Nat) (x : BitVec 32) : Nat :=
  if t = 0 then x.toNat else if t = 1 then narrow .bf16 x else if t = 2 then narrow .e4m3 x else narrow .e5m2 x

/-- VRED's fixed pairwise tree (R48), one level at a time: the pairs of a list, an odd tail padded by the identity. -/
def pairUp {α : Type} (op : α → α → α) (idn : α) : List α → List α
  | a :: b :: r => op a b :: pairUp op idn r
  | [a] => [op a idn]
  | [] => []

/-- The reduction of R48: the vector padded by the identity to a power of two, then halved until one value is left. -/
def reduceTree {α : Type} (op : α → α → α) (idn : α) (xs : List α) : α :=
  let rec size : Nat → Nat → Nat
    | 0, m => m
    | k + 1, m => if m < xs.length then size k (2 * m) else m
  let rec go : Nat → List α → α
    | 0, l => l.headD idn
    | k + 1, l => match l with
      | [] => idn
      | [a] => a
      | l => go k (pairUp op idn l)
  go 17 (xs ++ List.replicate (size 17 1 - xs.length) idn)

end Sys2Proof.Machine
end

