-- ==== Sys2Proof/Machine/Arith.lean ====
section
/-! DEFINITION. Exact accumulation (02_arithmetic): element formats, BF16 blocks, block partials, the anchored accumulator and its marks, the readout's one rounding, the Philox generator and MXQ. -/

namespace Sys2Proof.Machine

/-- An element: its value as an integer in units of its format's least step, its unbiased exponent (R29), and whether it is NaN or infinite. -/
structure Elem where
  v   : Int
  ex  : Int
  bad : Bool
deriving DecidableEq, Repr

/-- A floating-point element of `ebits` exponent bits and `mbits` mantissa bits; a subnormal counts at the least normal exponent (R29). -/
def fpElem (ebits mbits : Nat) (bias : Int) (sym : Nat) : Elem :=
  let neg := (sym >>> (ebits + mbits)) % 2 = 1
  let ex := (sym >>> mbits) % 2 ^ ebits
  let man := sym % 2 ^ mbits
  let m := if ex = 0 then man else (2 ^ mbits + man) <<< (ex - 1)
  ⟨if neg then -(m : Int) else m, (if ex = 0 then 1 else (ex : Int)) - bias, false⟩

/-- A weight element by its format code (Tables 2.1 and 2.2). -/
def wElem (fmt sym : Nat) : Elem :=
  if fmt = 0 then fpElem 2 1 1 sym
  else if fmt = 1 then ⟨signed (sym % 16) 4, 0, false⟩
  else if fmt = 2 then fpElem 3 2 3 sym
  else if fmt = 3 then fpElem 2 3 1 sym
  else if fmt = 4 then { fpElem 4 3 7 sym with bad := sym % 128 = 127 }
  else if fmt = 5 then { fpElem 5 2 15 sym with bad := 124 ≤ sym % 128 }
  else ⟨signed (sym % 256) 8, 0, false⟩

/-- The exponent of a weight format's least step (Table 2.1). -/
def wLsb (fmt : Nat) : Int :=
  if fmt = 0 then -1 else if fmt = 1 then -2 else if fmt = 2 then -4 else if fmt = 3 then -3
  else if fmt = 4 then -9 else if fmt = 5 then -16 else -6

/-- A weight format's bits an element (Table 2.1). -/
def wBits (fmt : Nat) : Nat := if fmt ≤ 1 then 4 else if fmt ≤ 3 then 6 else 8

/-- An MX activation element by its format code: E4M3, E5M2, INT8 (Table 2.2). -/
def aElem (fmt sym : Nat) : Elem := wElem (fmt + 4) sym

def aLsb (fmt : Nat) : Int := wLsb (fmt + 4)

/-- A wide pair (R29): both 8-bit floating-point and at least one E5M2. -/
def widePair (wf af : Nat) : Bool := (wf == 5 && af == 0) || (wf == 4 && af == 1) || (wf == 5 && af == 1)

/-- Passes a format pair needs (R30): two for BF16 activations and wide pairs. -/
def pairPasses (wf af : Nat) : Nat := if af = 3 || widePair wf af then 2 else 1

/-- One operand block of 32 elements along K, as one pass takes it: the elements, the scale's exponent and the non-finite mark (R26). -/
structure Blk where
  elems : List Elem
  scale : Int
  bad   : Bool
deriving DecidableEq, Repr

/-- An MX block from its scale field and elements (R23, R26). -/
def mxBlk (scale : Nat) (es : List Elem) : Blk := ⟨es, (scale : Int) - 127, scale == 255 || es.any (·.bad)⟩

/-- One BF16 element as sign, significand and the exponent of its step; infinities and NaNs are marked. -/
def bfParts (b : Nat) : Bool × Nat × Int × Bool :=
  let ex := (b / 128) % 256
  let man := b % 128
  (decide (2 ^ 15 ≤ b % 2 ^ 16), if ex = 0 then man else 128 + man, (if ex = 0 then -133 else (ex : Int) - 134), ex == 255)

/-- The exponent E of R27: the largest unbiased exponent among the non-zero elements, 0 for an all-zero block. -/
def bfMaxExp (l : List Nat) : Int :=
  let nz := l.filter (fun b => (bfParts b).2.1 != 0)
  match nz with
  | [] => 0
  | b :: r => r.foldl (fun m c => max m ((bfParts c).2.2.1 + 7)) ((bfParts b).2.2.1 + 7)

/-- q = floor(v × 2^(14 − E)) (R27). -/
def bfQ (e : Int) (b : Nat) : Int :=
  let (neg, m, x, _) := bfParts b
  let v : Int := if neg then -(m : Int) else m
  let s := x + 14 - e
  if 0 ≤ s then v * 2 ^ s.toNat else v / 2 ^ (-s).toNat

/-- A BF16 block as its hi pass (0) or lo pass (1) (R27). -/
def bfBlk (pass : Nat) (l : List Nat) : Blk :=
  let e := bfMaxExp l
  let q := l.map (bfQ e)
  let bad := l.any (fun b => (bfParts b).2.2.2)
  if pass = 0 then ⟨q.map (fun v => ⟨v / 256, 0, false⟩), e - 6, bad⟩
  else ⟨q.map (fun v => ⟨v % 256, 0, false⟩), e - 14, bad⟩

/-- The partial of a block in one pass and the exponent of its least bit (R28, R29, Table 2.3). -/
def partialOf (wf af pass : Nat) (w a : Blk) : Int × Int :=
  if af = 3 then ((List.zipWith (fun x y : Elem => x.v * y.v) w.elems a.elems).sum, wLsb wf)
  else if widePair wf af then
    let high := pass = 0
    let lam := wLsb wf + aLsb af
    let lamH : Int := if wf = 5 ∧ af = 1 then -4 else -5
    let s := (List.zipWith (fun x y : Elem => if decide (0 ≤ x.ex + y.ex) = high then x.v * y.v else 0) w.elems a.elems).sum
    if high then (s / 2 ^ (lamH - lam).toNat, lamH) else (s, lam)
  else ((List.zipWith (fun x y : Elem => x.v * y.v) w.elems a.elems).sum, wLsb wf + aLsb af)

/-- The mark an accumulator word holds: 0 normal, 1 positive, 2 negative, 3 both (R32, Table 2.4). -/
def markOf (w : BitVec 128) : Nat :=
  if w = 0x40000000000000000000000000000000#128 then 1
  else if w = 0x80000000000000000000000000000000#128 then 2
  else if w = 0xC0000000000000000000000000000000#128 then 3 else 0

/-- The word of a mark (Table 2.4). -/
def markWord (m : Nat) : BitVec 128 :=
  if m = 1 then 0x40000000000000000000000000000000#128
  else if m = 2 then 0x80000000000000000000000000000000#128
  else 0xC0000000000000000000000000000000#128

/-- k = floor(P × 2^(e − A)) (R31). -/
def anchored (p : Int) (e a : Int) : Int := if a ≤ e then p * 2 ^ (e - a).toNat else p / 2 ^ (a - e).toNat

/-- Whether k lies outside the window: 1 positive, 2 negative, 0 inside (R33). -/
def excursion (k : Int) : Nat := if 2 ^ 109 ≤ k then 1 else if k ≤ -2 ^ 109 then 2 else 0

/-- One contribution into one accumulator word (R33). -/
def contribute (acc : BitVec 128) (p e a : Int) (bad : Bool) : BitVec 128 :=
  let m := markOf acc
  if bad then markWord 3
  else
    let k := anchored p e a
    let x := excursion k
    if x = 0 then (if m = 0 then acc + BitVec.ofInt 128 k else acc) else markWord (m ||| x)

/-- The FP32 bias of a column as a contribution: significand, exponent, non-finite (R35). -/
def biasParts (b : BitVec 32) : Int × Int × Bool :=
  match decF32 b with
  | .fin n m e => (if n then -(m : Int) else m, e, false)
  | _ => (0, 0, true)

/-! Readout -/

/-- The output format of a readout code (Table 2.2). -/
def outFmt (ofmt : Nat) : FFmt := if ofmt = 0 then .fp32 else if ofmt = 1 then .bf16 else if ofmt = 2 then .e4m3 else .e5m2

/-- A value's magnitude on a format's grid under stochastic rounding with the word `u` (R43): the bits of the result. -/
def roundStoch (f : FFmt) (neg : Bool) (q : Nat) (e : Int) (u : Nat) : Nat :=
  let top : Int := (bitLen q : Int) + e - (f.prec : Int)
  let t : Int := if top < f.minExp then f.minExp else top
  let keep : Nat :=
    if t ≤ e then q <<< (e - t).toNat
    else
      let s := (t - e).toNat
      let k := q >>> s
      let rem := q % 2 ^ s
      if rem = 0 then k
      else if neg then (if u < ((2 ^ s - rem) * 2 ^ 32) / 2 ^ s then k else k + 1)
      else (if u < (rem * 2 ^ 32) / 2 ^ s then k + 1 else k)
  (t - f.minExp).toNat * 2 ^ (f.prec - 1) + keep

/-- One accumulator read out (R39, R40, R43): the bits and whether the result was clamped. `u` is the Philox word in stochastic mode. -/
def readAcc (ofmt : Nat) (w : BitVec 128) (a : Int) (u : Option Nat) : Nat × Bool :=
  if ofmt = 4 then (w.toNat, false)
  else
    let f := outFmt ofmt
    let m := markOf w
    if m = 1 then (f.maxBits, false)
    else if m = 2 then (withSign f true f.maxBits, false)
    else if m = 3 then (f.qnan, false)
    else
      let t := w.toInt
      if t = 0 then (0, false)
      else
        let neg := decide (t < 0)
        let mag := match u with
          | none => roundMag f t.natAbs false a
          | some u => roundStoch f neg t.natAbs a u
        (clampTo f neg mag, decide (f.maxBits < mag))

/-- Bytes of one output element (R236). -/
def outBytes (ofmt : Nat) : Nat := if ofmt = 0 then 4 else if ofmt = 1 then 2 else if ofmt = 4 then 16 else 1

/-! Philox-4×32-10 (R43, R44) -/

/-- One round of Philox-4×32 on its four counter words with its two key words. -/
def philoxRound (c : Nat × Nat × Nat × Nat) (k0 k1 : Nat) : Nat × Nat × Nat × Nat :=
  let (c0, c1, c2, c3) := c
  let p0 := 0xD2511F53 * c0
  let p1 := 0xCD9E8D57 * c2
  (((p1 / 2 ^ 32) ^^^ c1) ^^^ k0, p1 % 2 ^ 32, ((p0 / 2 ^ 32) ^^^ c3) ^^^ k1, p0 % 2 ^ 32)

/-- Ten rounds, the key bumped between them. -/
def philox (c : Nat × Nat × Nat × Nat) (k0 k1 : Nat) : Nat × Nat × Nat × Nat :=
  let rec go : Nat → Nat × Nat × Nat × Nat → Nat → Nat → Nat × Nat × Nat × Nat
    | 0, c, _, _ => c
    | n + 1, c, k0, k1 => go n (philoxRound c k0 k1) ((k0 + 0x9E3779B9) % 2 ^ 32) ((k1 + 0xBB67AE85) % 2 ^ 32)
  go 10 c k0 k1

/-- The random word of an element: seed, step, row key, column b + j modulo 2^32, site (Table 2.6). -/
def srWord (seed step : Word) (rowKey col site : Nat) : Nat :=
  let c := col % 2 ^ 32
  let r := philox (rowKey, c - c % 4, site, step.toNat % 2 ^ 32) (seed.toNat % 2 ^ 32)
    ((seed.toNat / 2 ^ 32) ^^^ (step.toNat / 2 ^ 32))
  if c % 4 = 0 then r.1 else if c % 4 = 1 then r.2.1 else if c % 4 = 2 then r.2.2.1 else r.2.2.2

/-! MXQ (R50) -/

/-- The shared scale field of a block: floor(log2 max) less the element format's largest exponent, kept within E8M0. -/
def mxScale (otype : Nat) (xs : List (BitVec 32)) : Nat :=
  let top := xs.foldl (fun (m : Option Int) x => match decF32 x with
    | .fin _ q e => if q = 0 then m else
      let t := e + (bitLen q : Int) - 1
      match m with
      | none => some t
      | some m => some (max m t)
    | _ => m) none
  match top with
  | none => 0
  | some t =>
    let s := t - (if otype = 2 then 8 else if otype = 3 then 15 else 0) + 127
    if s < 0 then 0 else if 254 < s then 254 else s.toNat

/-- One element divided by the scale, rounded to nearest with ties to even and saturated (R50). -/
def mxElem (otype scale : Nat) (x : BitVec 32) : Nat :=
  match decF32 x with
  | .fin n q e =>
    let e' := e - ((scale : Int) - 127)
    if otype = 0 then
      let s := e' + 6
      let k : Nat :=
        if 0 ≤ s then q <<< s.toNat
        else
          let sh := (-s).toNat
          let k := q >>> sh
          let r := q % 2 ^ sh
          let h := 2 ^ (sh - 1)
          if h < r ∨ (r = h ∧ k % 2 = 1) then k + 1 else k
      if n then (256 - min k 128) % 256 else min k 127
    else
      let f := if otype = 2 then FFmt.e4m3 else FFmt.e5m2
      if q = 0 then withSign f n 0 else clampTo f n (roundMag f q false e')
  | _ => 0

end Sys2Proof.Machine
end

