-- ==== Sys2Proof/Machine/RimOps.lean ====
section
/-! DEFINITION. The rim's shared operations (04_rim): models and weight epochs in force, hop counts, pairs and their completion (R107), the progress of a partition's cores through the layers (R457), references to decode-table slots (R71, R72, R75), re-requests (R112, R113) and an owner's failed reads (R116). -/

namespace Sys2Proof.Machine

/-! The landing ring (R126, R449) -/

/-- The base of a partition's landing ring, and its bytes. -/
def State.ringBase (s : State) (p : Fin 4) : Nat := landingBase + 2 ^ 20 * ((s.parts.toList.take p.val).map (·.ringMib)).sum
def State.ringBytes (s : State) (p : Fin 4) : Nat := 2 ^ 20 * s.parts[p].ringMib

/-! Models, formats, directory keys -/

def State.model? (s : State) (m : Nat) : Option Model := s.enc.models.find? (fun x => x.id = m)

/-- F: the number of weight formats of a model (R67). -/
def Model.nfmt (m : Model) : Nat := ((List.range 7).filter (fun i => bit m.formats i)).length

/-- A format's index among a model's formats, in ascending code (R73). -/
def Model.fmtIdx (m : Model) (fmt : Nat) : Nat := ((List.range (min fmt 7)).filter (fun i => bit m.formats i)).length

def DirEntry.model (e : DirEntry) : Nat := e.key % 2 ^ 16
def DirEntry.layer (e : DirEntry) : Nat := e.key / 2 ^ 16 % 2 ^ 12
def DirEntry.strand (e : DirEntry) : Nat := e.key / 2 ^ 28 % 2 ^ 12
def DirEntry.segment (e : DirEntry) : Nat := e.key / 2 ^ 40 % 2 ^ 10
def DirEntry.epoch (e : DirEntry) : Nat := e.key / 2 ^ 50 % 2 ^ 8

/-- The member's own entries of a layer, in injection order: strand, then segment (R102). -/
def State.ownEntries (s : State) (model epoch layer : Nat) : List DirEntry :=
  (s.enc.dir.filter (fun e => e.model = model && e.epoch = epoch && e.layer = layer)).foldl (fun l e =>
    let k := fun (e : DirEntry) => 1024 * e.strand + e.segment
    l.filter (fun x => k x ≤ k e) ++ [e] ++ l.filter (fun x => k e < k x)) []

/-- Where a plait of a stored segment lies, counted from the segment's start (03_weft_format, Weft store). -/
def State.plaitOffset (s : State) (base : Nat) : Nat → Nat
  | 0 => 0
  | n + 1 =>
    let o := s.plaitOffset base n
    o + (32 + leNat (s.peekN (base + o + 18) 2) + 63) / 64 * 64

/-- The number of plaits, or table frames, that the member owns in a layer. -/
def State.ownCount (s : State) (model epoch layer : Nat) : Nat := ((s.ownEntries model epoch layer).map (fun e => e.countM1 + 1)).sum

/-! The slower tier's form (R83) -/

/-- The nonce of a segment in the slower tier: its key and its salt. -/
def tierNonce (key salt : Nat) : Bytes := toLe 8 key ++ toLe 4 salt

/-- The address of a place of the slower-tier region. -/
def State.tierAddr (s : State) (place : Nat) : Nat := hostBase + s.slowerBase.toNat + place

/-- What a segment's place in host memory opens to, none where its tag fails. -/
def State.tierOpen (s : State) (key salt place len : Nat) : Option Bytes :=
  gcmOpen s.sec.storageKey (tierNonce key salt) (toLe 8 key) (s.peekN (s.tierAddr place) (len + 16))

/-- A segment sealed with the next salt and written to host memory; the salt's end sets SALT_EXHAUSTED. -/
def State.tierWrite (s : State) (key place : Nat) (bs : Bytes) : State :=
  let a := s.tierAddr place
  let s := (s.hostMoved true a (bs.length + 16) ingestRank).pokeN a (gcmSeal s.sec.storageKey (tierNonce key s.enc.salt.toNat) (toLe 8 key) bs)
  let s : State := { s with enc := { s.enc with salt := s.enc.salt + 1 } }
  if s.enc.salt = 0xFFFFFFFF then (s.stick blkENC 0x0208 8).record blkENC .none 0x0604 else s

/-! Hops and directions (Table 4.2) -/

/-- h_cw and h_ccw of a plait index in a rim of n members. -/
def hopsOf (n p : Nat) : Nat × Nat :=
  if n % 2 = 1 then ((n - 1) / 2, (n - 1) / 2) else if p % 2 = 0 then (n / 2, n / 2 - 1) else (n / 2 - 1, n / 2)

/-- Whether an owner's plaits with index p reach this member in a direction (`ccw` for counter-clockwise). -/
def Rim.reaches (r : Rim) (owner p : Nat) (ccw : Bool) : Bool :=
  let (a, b) := hopsOf r.n p
  let d := (r.own + r.n - owner) % r.n
  if ccw then decide (r.n - d ≤ b) else decide (d ≤ a)

/-- Whether any of an owner's plaits reach this member in a direction. -/
def Rim.portReaches (r : Rim) (owner : Nat) (ccw : Bool) : Bool := r.reaches owner 0 ccw || r.reaches owner 1 ccw

/-! Pairs (R107) -/

/-- The expected number of plaits of a pair in one weight epoch, none before the run's counts are known. -/
def Rim.expect (r : Rim) (model epoch owner layer : Nat) : Nat :=
  ((r.counts.filter (fun c => c.model = model && c.epoch = epoch && c.owner = owner && c.layer = layer)).map (·.count)).sum

/-- The run of a context in a weight epoch. -/
def Rim.runOf (r : Rim) (id epoch : Nat) : Option Run := r.runs.find? (fun u => u.ctx = id && u.epoch = epoch)

def Rim.keptOf (r : Rim) (seat : Bool) (model owner layer : Nat) (t : Word) : Nat :=
  (r.kept.filter (fun k => k.seat = seat && k.model = model && k.owner = owner && k.layer = layer && k.step = t)).length

/-- The weight epochs whose plaits of a layer circulate in a step: frames, of layer 0xFFF, only in the first step of their run. -/
def State.epochsOf (s : State) (id : Nat) (x : Ctx) (t : Word) (layer : Nat) : List Nat :=
  (s.epochsAt id x t).filter (fun e => layer ≠ 0xFFF || (s.rims[x.part].runOf id e).any (fun u => u.first = t))

/-- Whether a pair (owner, layer) of a step is complete on this member, or on a seat that it has taken. Before the plait table of the context's
run is in place no pair is complete. -/
def State.seatDone (s : State) (seat : Bool) (id : Nat) (x : Ctx) (t : Word) (owner layer : Nat) : Bool :=
  let r := s.rims[x.part]
  (s.epochsAt id x t).all (fun e => ((r.runOf id e).map (·.ready)).getD false)
    && r.keptOf seat x.model owner layer t == ((s.epochsOf id x t layer).map (fun e => r.expect x.model e owner layer)).sum

/-- Whether both seats of a double-seated partition run (R390, R392). -/
def State.twoHalves (s : State) (p : Fin 4) : Bool :=
  s.twin.halved.contains p && s.ctxs.any (fun x => x.2.partner.isSome && x.2.partner = s.parts[p].running)

/-- Whether a pair is complete on every seat that this device serves. -/
def State.pairDone (s : State) (id : Nat) (x : Ctx) (t : Word) (owner layer : Nat) : Bool :=
  s.seatDone false id x t owner layer && (!s.twoHalves x.part || s.seatDone true id x t owner layer)

/-- The owners other than this member. -/
def Rim.owners (r : Rim) : List Nat := (List.range r.n).filter (· ≠ r.own)

/-! Progress (R457) -/

/-- Whether both engines of every core of a partition have halted; a core that runs a side task has none of the step (R347, R457). -/
def State.coresHalted (s : State) (p : Fin 4) : Bool :=
  (s.coresOf p).all (fun c => ((s.cores[c].run.bind (·.task)).isSome) || (s.cores[c].fet.st = .halted && s.cores[c].exe.st = .halted))

/-- The identity of a landed or own plait in a step (R107). -/
def identOf (h : PHdr) (t : Word) : Ident := ⟨t, h.model, h.owner, h.layer, if h.kind = 1 then h.format else h.strand, h.p, h.epoch, false⟩

/-- Whether a core serves the seat taken: one of the partition's upper half (R390). -/
def State.upperHalf (s : State) (c : Fin 16) : Bool :=
  let p := s.partOf c
  s.twin.halved.contains p && decide (s.parts[p].cores / 2 ≤ c.val - s.parts[p].first)

/-- Whether a landed plait is still there for a core's half of the partition. -/
def State.landedFor (s : State) (c : Fin 16) (l : Landed) : Bool := l.kept && (if s.upperHalf c then l.seat else l.mine)

/-- The two halves of a double-seated partition take effect: what has landed serves both seats from then on (R391). -/
def State.halve (s : State) (p : Fin 4) : State :=
  let s : State := { s with twin := { s.twin with halved := s.twin.halved ++ [p] } }
  s.modRim p (fun r => { r with
    landed := r.landed.map (fun (l : Landed) => { l with seat := l.kept }), kept := r.kept ++ r.kept.map (fun (k : Ident) => { k with seat := true }) })

/-- The context and step whose plaits a core takes: a departed context counts as its seat partner (R392). -/
def State.plaitsFor (s : State) (c : Fin 16) : Option (Nat × Ctx × Word) :=
  match s.ctxOn c with
  | some id =>
    match s.ctx? id with
    | some x =>
      match x.partner.bind (fun y => (s.ctx? y).map (fun z => (y, z))) with
      | some (y, z) => some (y, z, z.cons)
      | none => some (id, x, s.stepOn c)
    | none => none
  | none => none

/-- Whether a context's engines have all halted: those of the cores it is on, or of its image while it is on none (R122). -/
def State.ctxHalted (s : State) (p : Fin 4) (id : Nat) (x : Ctx) : Bool :=
  let mine := (s.coresOf p).filter (fun c => s.cores[c].run = some ⟨id, none⟩)
  if s.parts[p].running = some id then s.coresHalted p
  else if mine.isEmpty then (x.img.getD {}).cores.all (fun k => k.1.fet.st = .halted && k.1.exe.st = .halted)
  else mine.all (fun c => s.cores[c].fet.st = .halted && s.cores[c].exe.st = .halted)

/-- Whether a layer of a step is finished on the member (R457). -/
def State.layerDone (s : State) (p : Fin 4) (id : Nat) (x : Ctx) (t : Word) (l : Nat) : Bool :=
  let r := s.rims[p]
  r.owners.all (fun k => s.pairDone id x t k l) &&
    (s.ctxHalted p id x ||
      (!r.landed.any (fun d => let h := hdrOf d.bytes; d.kept && h.kind = 0 && h.model = x.model && h.layer = l && stepOfPlait x h = t)
        && (r.decoded.filter (fun k => k.model = x.model && k.layer = l && k.step = t)).length
            == (if s.twoHalves p then 2 else 1) * ((s.epochsAt id x t).map (fun e => s.ownCount x.model e l)).sum))

/-- The timers of a layer started for its incomplete pairs (R113); the table frames' pairs run with layer 0 of the run's first step. -/
def State.beginLayer (s : State) (p : Fin 4) (id : Nat) (x : Ctx) (t : Word) (l : Nat) : State :=
  let ls := if l = 0 && s.rims[p].runs.any (fun u => u.ctx = id && u.first = t) then [0xFFF, 0] else [l]
  let new := ls.flatMap (fun l => (s.rims[p].owners.filter (fun k => !s.pairDone id x t k l)).map (fun k => (k, l)))
  s.modRim p (fun r => { r with consLayer := l, timers := r.timers ++ new.filter (fun t => !r.timers.contains t) })

/-- The rim context that runs on a partition with a step armed, its layers, and the step. -/
def State.rimStep (s : State) (p : Fin 4) : Option (Nat × Ctx × Nat × Word) :=
  match s.parts[p].running with
  | some id => match s.ctx? id with
    | some x => match x.armed, s.model? x.model with
      | some t, some m => if s.rims[p].phase = .formed then some (id, x, m.layers, t) else none
      | _, _ => none
    | none => none
  | none => none

/-- The layers that have become finished, and the timers of completed pairs stopped (R114, R457). Once every core has halted, kept
plaits of the step not decoded are released as finished. -/
def State.progress (s : State) (p : Fin 4) : State :=
  match s.rimStep p with
  | none => s
  | some (id, x, layers, t) =>
    let s := if s.coresHalted p then s.dropLanded p (fun d => let h := hdrOf d.bytes; h.kind = 0 && h.model = x.model && stepOfPlait x h = t) else s
    let s := s.modRim p (fun r => { r with timers := r.timers.filter (fun k => !s.pairDone id x t k.1 k.2) })
    let rec go : Nat → State → State
      | 0, s => s
      | n + 1, s =>
        let c := s.rims[p].consLayer
        if c < layers && s.layerDone p id x t c then
          if c + 1 < layers then go n (s.beginLayer p id x t (c + 1)) else s.modRim p (fun r => { r with consLayer := layers })
        else s
    go layers s

/-- Whether every layer of the step on a partition is finished. -/
def State.layersDone (s : State) (p : Fin 4) : Bool :=
  match s.rimStep p with
  | some (_, _, layers, _) => decide (layers ≤ s.rims[p].consLayer)
  | none => true

/-! Decode-table slots (R71, R72, R75) -/

/-- The run, with its map in place, that a plait of the member's own belongs to (R73, R75). -/
def State.ownRun (s : State) (p : Fin 4) (h : PHdr) : Option Run :=
  ((s.rimCtxs p).findSome? (fun i => if i.2.model = h.model then s.rims[p].runOf i.1 h.epoch else none)).filter (·.ready)

/-- The decode-table slot and generation of an owner's coding group in a run (R73). -/
def State.runSlot (s : State) (u : Run) (model owner fmt : Nat) : Nat × Nat :=
  match s.model? model with
  | some m =>
    let i := owner * m.nfmt + m.fmtIdx fmt
    (128 * b2n u.half + i, (u.gens.getD i 0).toNat)
  | none => (0, 0)

/-- The decode-table slot and generation of a plait: its header's, or the run map's for the member's own (R75), none before the map is in place. -/
def State.tableOf (s : State) (p : Fin 4) (h : PHdr) : Option (Nat × Nat) :=
  if h.owner ≠ s.rims[p].own then some (h.tslot, h.tgen) else (s.ownRun p h).map (fun u => s.runSlot u h.model h.owner h.format)

/-- Whether a plait needs no table: RAW or ZERO_RUN (R72). -/
def PHdr.free (h : PHdr) : Bool := h.raw || h.zero

/-- How a plait stands to its slot: 0 loaded, 1 not yet loaded, 2 stale (R72). -/
def State.genState (s : State) (p : Fin 4) (slot gen : Nat) : Nat :=
  let d := s.tslot p slot
  if d.gen.toNat = gen % 4 then (if d.loaded then 0 else 1) else if (d.gen + 1).toNat = gen % 4 then 1 else 2

/-! Re-requests (R112, R113) -/

/-- A re-request sent to an owner for a layer, step and direction. -/
def State.sendRereq (s : State) (p : Fin 4) (owner layer : Nat) (step : Word) (ccw : Bool) : State :=
  let r := s.rims[p]
  let pay := toLe 4 r.digest.toNat ++ toLe 2 layer ++ [BitVec.ofNat 8 (b2n ccw), 0] ++ toLe 8 step.toNat ++ List.replicate 48 0
  (s.count blkRIM 0x0288 1 p.val).sendPkt (r.members.getD owner 0) 0x08 (BitVec.ofNat 32 (owner % 64)) pay (.rim p) none

/-- The layers of a step that the cores have still to take, with the table frames of a run's first step before them. -/
def State.layersLeft (s : State) (p : Fin 4) (id : Nat) (x : Ctx) (layers : Nat) (t : Word) : List Nat :=
  let c := if x.armed = some t then s.rims[p].consLayer else 0
  (if (s.epochsOf id x t 0xFFF).isEmpty then [] else [0xFFF]) ++ List.range' c (layers - c)

/-- The re-requests when the header is not trustworthy: for the layer and step in which the cores next need plaits from that port, to every owner
on it whose pair is incomplete. -/
def State.rereqAll (s : State) (p : Fin 4) (ccw : Bool) : State :=
  match s.parts[p].running.bind (fun id => (s.ctx? id).bind (fun x => (s.model? x.model).map (fun m => (id, x, m.layers)))) with
  | some (id, x, layers) =>
    let lacking := fun (q : Word × Nat) => s.rims[p].owners.filter (fun k => s.rims[p].portReaches k ccw && !s.pairDone id x q.1 k q.2)
    let ahead := ([0, 1, 2, 3] : List Word).flatMap (fun i => (s.layersLeft p id x layers (x.cons + i)).map (fun l => (x.cons + i, l)))
    match ahead.find? (fun q => !(lacking q).isEmpty) with
    | some q => forAll (lacking q) (fun k s => s.sendRereq p k q.2 q.1 ccw) s
    | none => s
  | none => s

/-- A corrupt or missing plait, from its header and the direction it came from (R112). -/
def State.corrupt (s : State) (p : Fin 4) (h : PHdr) (ccw : Bool) : State :=
  let r := s.rims[p]
  let layerOk := fun (m : Nat) => match s.model? m with
    | some k => decide (h.layer < k.layers) || (h.layer = 0xFFF && h.kind = 1)
    | none => false
  match s.homeOf p h with
  | some (_, _, t) =>
    if h.owner < r.n && h.owner ≠ r.own && r.portReaches h.owner ccw && layerOk h.model then s.sendRereq p h.owner h.layer t ccw
    else s.rereqAll p ccw
  | none => s.rereqAll p ccw

/-- A landed plait given up and asked for again, by its header (R112). -/
def State.landedBad (s : State) (p : Fin 4) (h : PHdr) : State :=
  let same := fun (d : Landed) => decide (hdrOf d.bytes |> fun k => (k.model, k.owner, k.layer, k.strand, k.p, k.epoch, k.step16) = (h.model, h.owner, h.layer, h.strand, h.p, h.epoch, h.step16))
  let s := s.dropLanded p same
  let s := s.modRim p (fun r => { r with kept := r.kept.filter (fun k =>
    !(k.model = h.model && k.owner = h.owner && k.layer = h.layer && k.strand = h.strand && k.p = h.p && k.epoch = h.epoch && fld k.step 0 16 = h.step16)) })
  s.corrupt p h h.dir

/-- A landed copy that cannot be read: it goes no further, and if it was kept it is asked for again (R376, R377, Table 14.1). -/
def State.giveUp (s : State) (p : Fin 4) (d : Landed) : State :=
  if d.kept then
    (s.modRim p (fun r => { r with landed := r.landed.map (fun (l : Landed) => if l = d then { l with forward := false } else l) })).landedBad p (hdrOf d.bytes)
  else s.modRim p (fun r => { r with landed := r.landed.erase d, ringUsed := if d.inRing then r.ringUsed - d.bytes.length else r.ringUsed })

/-- A landed copy read: from the buffer, or from its place in the ring, where a line may fail (R377, Table 14.2). -/
def State.readLanded (s : State) (p : Fin 4) (errs : List LineErr) (d : Landed) : Bool × State :=
  if d.inRing then s.readHbm errs (s.ringBase p + d.place) d.bytes.length else (true, s)

/-- LAND_PARITY (Table 14.1): a failed check of the landing buffer or of the forward path, class C. -/
def State.landParity (s : State) : State := s.record blkRIM .c 0x0409

/-! An owner's failed reads (R116) -/

/-- The shard that a directory key belongs to. -/
def State.shardOf (s : State) (model epoch : Nat) : Option Shard := s.enc.shards.find? (fun h => h.model = model && h.epoch = epoch)

/-- The read of an own segment failed: read again, then a repair ingest from a retained buffer, then OWN_READ_FAIL. -/
def State.ownReadFail (s : State) (p : Fin 4) (key : Nat) : State :=
  let r := s.rims[p]
  if r.failed.contains key || r.fixing.contains key then s
  else if !r.reread.contains key then s.modRim p (fun r => { r with reread := r.reread ++ [key] })
  else
    let kept := ((s.shardOf (key % 2 ^ 16) (key / 2 ^ 50 % 2 ^ 8)).bind (·.retain)).isSome
    let s := s.modRim p (fun r => { r with reread := r.reread.filter (· ≠ key) })
    if kept then s.modRim p (fun r => { r with fixing := r.fixing ++ [key] })
    else ((s.stick blkRIM 0x0240 4 p.val).record blkRIM .none 0x0403).modRim p (fun r => { r with failed := r.failed ++ [key] })

end Sys2Proof.Machine
end

