-- ==== Sys2Proof/Machine/Matrix.lean ====
section
/-! DEFINITION. The matrix instructions and the events of the array (05_matrix_core; R31 to R44, R51, R232 to R236): issue, start, ramp, plaits in the expander, contributions, completion and readout. -/

namespace Sys2Proof.Machine

/-! Forerunner mode (R155) -/

/-- Scratchpad slots of a block of activations (R133). -/
def actSlots (afmt : Nat) : Nat := if afmt = 3 then 256 else 132

/-- The slots of a matrix instruction's operands, by requester: the activation feed, with a diagonal's second operand, and the bias. -/
def Job.slots (j : Job) : List (Nat × List Nat) :=
  [(0, List.range' j.actSlot (j.k / 32 * actSlots j.afmt) ++ (if j.diag then List.range' j.ySlot (j.k / 32 * 132) else []))]
    ++ (if j.biasEn then [(1, List.range' j.biasSlot 16)] else [])

/-- The parts of scratchpad that a readout writes: offset from its destination, and number of bytes. -/
def Readout.parts (r : Readout) : List (Nat × Nat) :=
  if r.m = 0 then []
  else if r.diag then [(0, r.m * outBytes r.ofmt)]
  else if r.alayout then (List.range 256).map (fun q => (512 * q + 2 * r.row0, 2 * r.m))
  else [(0, r.m * 256 * outBytes r.ofmt)]

/-- The slots a readout writes. -/
def Readout.slots (r : Readout) : List Nat := r.parts.flatMap (fun q => slotsOf (64 * r.dst + q.1) q.2)

/-- Which sources an instruction uses: A always, B and C by its operation (Table 8.14). -/
def VecJob.usesB (j : VecJob) : Bool := j.kind = .vop && [0, 1, 2, 3, 4, 6, 7].contains j.fn
def VecJob.usesC (j : VecJob) : Bool := j.kind = .vop && j.fn = 3
def VecJob.isMxq (j : VecJob) : Bool := j.kind = .vop && j.fn = 0x0B

/-- The bytes a job reads, as address and length in the scratchpad, operand by operand (R237). -/
def VecJob.reads (j : VecJob) : List (Nat × Nat) :=
  let ty := typeBytes j.itype
  if j.n = 0 then []
  else if j.kind = .vred then (List.range j.segs).map (fun i => (64 * (j.sa + j.stride * i), j.n * ty))
  else [(64 * j.sa, j.n * ty)]
    ++ (if j.usesB then [(64 * j.sb, if j.bcastB then ty else j.n * ty)] else [])
    ++ (if j.usesC then [(64 * j.sc, if j.bcastC then ty else j.n * ty)] else [])

/-- The bytes a job writes. -/
def VecJob.writes (j : VecJob) : List (Nat × Nat) :=
  if j.kind = .vred then (if j.segs = 0 then [] else [(64 * j.dst, j.segs * typeBytes j.otype)])
  else if j.n = 0 then []
  else if j.isMxq then [(64 * j.dst, j.n), (64 * j.sc, j.n / 32)]
  else [(64 * j.dst, j.n * typeBytes j.otype)]

/-- The slots that the execute side's requesters use for the instructions now at work (R155), by requester. -/
def Core.requests (k : Core) : List (Nat × List Nat) :=
  k.arrayQ.flatMap Job.slots ++ k.readouts.map (fun r => (2, r.slots))
    ++ k.vecQ.map (fun j => (3, (j.reads ++ j.writes).flatMap (fun r => slotsOf r.1 r.2)))
    ++ (match k.staging with
      | some t => [(4, List.range' t.slot (t.blocks * (blockBytes t.wfmt / 64)))]
      | none => [])

/-- The banks in which a new instruction's requesters can meet those at work: the requester at work, the new one, and the bank (R151). -/
def Core.meetings (k : Core) (new : List (Nat × List Nat)) : List (Nat × Nat × Nat) :=
  new.flatMap (fun n => k.requests.flatMap (fun o => ((List.range 32).filter (fun b =>
    n.2.any (fun m => decide (m % 32 = b)) && o.2.any (fun m => decide (m % 32 = b)))).map (fun b => (o.1, n.1, b))))

/-- An execute-side instruction in forerunner mode beside others, with the slots of its requesters: whether two of them want one of the banks
they share in the same cycle depends on cycles that the spec's rules do not order here, so a free value says it, and in which bank
(log entry 3); a conflict faults the later instruction (R155). -/
def State.arbitrated (s : State) (c : Fin 16) (w : Insn) (new : List (Nat × List Nat)) (body : State → State) : State :=
  let k := s.cores[c]
  let l := k.meetings new
  if bit (s.reg (blkCore c) 0x0A00) 0 && !l.isEmpty then
    let (v, s) := s.draw
    if bit v 63 then
      let (a, b, bank) := l.getD (fld v 0 32 % l.length) (0, 0, 0)
      let s := s.setReg (blkCore c) 0x0A10 (BitVec.ofNat 64 (put bank 0 5 + put a 8 3 + put b 12 3 + put k.exe.pc.toNat 16 12))
      s.insnFault c .exec w 0x0A08 0 0x1005
    else body s
  else body s

/-! The array's ramp (R138) -/

/-- Whether a matrix instruction uses the array (R130). -/
def Job.feeds (j : Job) : Bool := decide (0 < j.k) && decide (0 < j.m)

/-- Whether the array is wanted: an instruction that uses it stands at the head of the array queue or has started. -/
def Core.wantsArray (k : Core) : Bool := k.arrayQ.any (fun j => j.started && j.feeds) || (k.arrayQ.find? (!·.started)).any Job.feeds

/-- An MMA at the head of the array queue brings a gated or ramping-down array up. `groups` counts the groups that have had their four cycles:
a full ramp-up takes eight steps, a reversed ramp-down one for each group that is missing. -/
def Core.ramp (k : Core) : Core :=
  if k.wantsArray then
    match k.gate with
    | .gated => { k with gate := .rampUp, groups := 0 }
    | .rampDown => { k with gate := if 8 ≤ k.groups then .enabled else .rampUp }
    | _ => k
  else k

/-- ARRAY_RAMP_STEP (R138): four cycles of a ramp have passed; with the last group's the array is enabled, or gated. -/
def execArrayRampStep (c : Fin 16) (s : State) : Host.Outcome State Fault Refusal :=
  .next (if s.stopped then s else s.modCore c (fun k =>
    match k.gate with
    | .rampUp => if 7 ≤ k.groups then { k with gate := .enabled, groups := 8 } else { k with groups := k.groups + 1 }
    | .rampDown => if k.groups ≤ 1 then { k with gate := .gated, groups := 0 } else { k with groups := k.groups - 1 }
    | _ => k))

/-- ARRAY_HOLD_EXPIRY (R138): the hold runs only while no MMA uses the array or stands at the head of its queue. -/
def execArrayHoldExpiry (c : Fin 16) (s : State) : Host.Outcome State Fault Refusal :=
  .next (if s.stopped then s else s.modCore c (fun k =>
    if k.gate = .enabled && !k.wantsArray then { k with gate := .rampDown, groups := 8 } else k))

/-! Issue -/

/-- Whether a range of slots lies in the scratchpad. -/
def slotsIn (slot : Int) (n : Nat) : Bool := decide (0 ≤ slot) && decide (slot + n ≤ 12288)

/-- A matrix instruction enters the array queue (R135, R221, R232), or waits while four are held. -/
def State.enterArray (s : State) (c : Fin 16) (w : Insn) (j : Job) (bind : Option Binding) (pops : Bool) : State :=
  let k := s.cores[c]
  if 4 ≤ (k.arrayQ.filter (!·.started)).length then s.wait c .exec .waitArray
  else s.arbitrated c w j.slots (fun s =>
    let id := k.nextId
    let j := { j with id := id, bind := bind, popped := k.exe.popped, push := pushQ w, pc := k.exe.pc }
    let s := s.modCore c (fun k => Core.ramp { k with
      nextId := id + 1, arrayQ := k.arrayQ ++ [j], bind := if pops then bind else k.bind
      bindQ := if pops then k.bindQ.drop 1 else k.bindQ
      staging := if j.staged then k.staging.map (fun t => { t with taken := true }) else k.staging })
    (s.oweHandle c (pushQ w) id).advance c .exec)

/-- MMA (R232, R233): with BIND = 0 and no current binding it faults, also with WSRC 1. -/
def execMma (c : Fin 16) (w : Insn) (chk : Check) (s : State) : Host.Outcome State Fault Refusal :=
  .next (s.issue c .exec w 0x30 chk (fun s =>
    let k := s.cores[c]
    let g := k.exe
    let kk := 64 * fld w 45 9
    let k0 := 64 * g.sum w 54 15 69
    let m := g.repl w 36 9 109
    let afmt := fld w 21 2
    let wfmt := fld w 23 3
    let act := g.sum w 73 14 87
    let bias := g.sum w 91 14 105
    let staged := bit w 20
    let pops := bit w 19
    let stage := k.staging.filter (fun t => !t.taken)
    let stageOk := decide (k0 = 0) && (match stage with
      | some t => decide (kk = 64 * t.blocks) && t.wfmt = wfmt
      | none => kk = 0)
    if 16384 < kk || !within k0 0 (1048576 - kk) || !within m 0 256 || wfmt = 7
        || !slotsIn act (kk / 32 * actSlots afmt) || (bit w 18 && !slotsIn bias 16) || (staged && !stageOk)
        || (!pops && k.bind.isNone) then s.mmaOperand c w
    else if pops && k.bindQ.isEmpty then s.wait c .exec .waitQueue
    else
      let bind := if pops then k.bindQ.head? else k.bind
      let j : Job :=
      { id := 0, diag := false, bank := Fin.ofNat 2 (fld w 16 1), clear := bit w 17, biasEn := bit w 18,
        biasSlot := bias.toNat, actSlot := act.toNat, ySlot := 0, k0 := k0.toNat, k := kk, m := m.toNat,
        anchor := BitVec.ofNat 10 (fld w 26 10), wfmt := wfmt, afmt := afmt, staged := staged && stage.isSome, bind := none, popped := none,
        push := none, pc := 0, started := false, fed := [], halves := [], done := [], finished := [] }
      s.enterArray c w j bind pops))

/-- MMA_DIAG (R235). -/
def execMmaDiag (c : Fin 16) (w : Insn) (chk : Check) (s : State) : Host.Outcome State Fault Refusal :=
  .next (s.issue c .exec w 0x31 chk (fun s =>
    let g := s.cores[c].exe
    let kk := 32 * fld w 45 9
    let m := g.repl w 36 9 109
    let afmt := fld w 21 2
    let yfmt := fld w 23 3
    let x := g.sum w 73 14 87
    let y := g.sum w 54 14 69
    let bias := g.sum w 91 14 105
    if 8192 < kk || !within m 0 256 || yfmt < 4 || 6 < yfmt || !slotsIn x (kk / 32 * actSlots afmt) || !slotsIn y (kk / 32 * 132)
        || (bit w 18 && !slotsIn bias 16) then s.mmaOperand c w
    else
      let j : Job :=
      { id := 0, diag := true, bank := Fin.ofNat 2 (fld w 16 1), clear := bit w 17, biasEn := bit w 18,
        biasSlot := bias.toNat, actSlot := x.toNat, ySlot := y.toNat, k0 := 0, k := kk, m := m.toNat,
        anchor := BitVec.ofNat 10 (fld w 26 10), wfmt := yfmt, afmt := afmt, staged := false, bind := none, popped := none,
        push := none, pc := 0, started := false, fed := [], halves := [], done := [], finished := [] }
      s.enterArray c w j none false))

/-- TLOAD (R234): the staging is held for the next MMA with WSRC 1. -/
def execTload (c : Fin 16) (w : Insn) (chk : Check) (s : State) : Host.Outcome State Fault Refusal :=
  .next (s.issue c .exec w 0x33 chk (fun s =>
    let k := s.cores[c]
    let slot := k.exe.sum w 16 14 30
    let n := fld w 34 9
    let fmt := fld w 43 3
    if 256 < n || fmt = 7 || !slotsIn slot (n * (blockBytes fmt / 64)) then s.mmaOperand c w
    else if k.staging.isSome then s
    else s.arbitrated c w [(4, List.range' slot.toNat (n * (blockBytes fmt / 64)))] (fun s =>
      (s.modCore c (fun k => if n = 0 then k else { k with staging := some ⟨fmt, n, slot.toNat, fld w 46 2, false⟩ })).doneNow c .exec w)))

/-! Start and initialisation (R35, R36, R135) -/

/-- The plaits that a matrix instruction takes: p from k0/64 to (k0 + K)/64 (R132). -/
def Job.needs (j : Job) : List Nat := if j.diag || j.staged then [] else List.range' (j.k0 / 64) (j.k / 64)

/-- Whether every plait of an instruction has passed through the expander. -/
def Job.allFed (j : Job) : Bool := j.needs.all j.finished.contains

/-- Passes over each block (R30); diagonal operands count like others. -/
def Job.passes (j : Job) : Nat := pairPasses j.wfmt j.afmt

/-- Whether every contribution of an instruction has been added and its plaits are finished (R129, R130). -/
def Job.complete (j : Job) : Bool :=
  j.allFed && (!j.feeds || (List.range (j.k / 32)).all (fun b => (List.range j.passes).all (fun p => j.done.contains (b, p))))

/-- An accumulator word of a bank, row `i` and column `j`. -/
def Bank.dflt (b : Bank) (key : Nat) : BitVec 128 := b.cols.getD (key % 256) 0
def Bank.get (b : Bank) (key : Nat) : BitVec 128 := mget b.dflt b.words key

/-- A bank's anchor as a number. -/
def Bank.a (b : Bank) : Int := b.anchor.toInt

/-- The stickies and faults of contributions (R33, R56): marks counted, and NONFINITE_IN and EXCURSION recorded in the order of R381, each once
for all the accumulators of a contribution (DESIGN CHOICE, log entry 83); one that is to fault tears the context down. -/
def State.accFlags (s : State) (c : Fin 16) (marks : Nat) (exc bad : Bool) : State :=
  let s := if marks = 0 then s else s.count (blkCore c) 0x0818 marks
  let cfg := s.reg (blkCore c) 0x0820
  let s := if exc then s.stick (blkCore c) 0x0810 2 else s
  let s := if bad then s.stick (blkCore c) 0x0810 4 else s
  let found := (if bad then [(bit cfg 0, 0x1017)] else []) ++ (if exc then [(bit cfg 1, 0x1018)] else [])
  let faults := (found.filter (·.1)).map (·.2)
  let x := s.errCtx (s.ctxOn c)
  let s := forAll faults (fun e s => s.record (blkCore c) .k e x) s
  let s := forAll ((found.filter (!·.1)).map (·.2)) (fun e s => s.record (blkCore c) .none e x) s
  match faults, s.ctxOn c with
  | e :: _, some id => s.tearDown id e
  | _, _ => s

/-- A bank initialised by an instruction (R35): the words of its columns, and whether a bias marked one by excursion or as non-finite. -/
def initBank (k : Core) (j : Job) : Bank × Nat × Bool × Bool :=
  let a := j.anchor.toInt
  if j.biasEn then
    let bs := k.spadRd (64 * j.biasSlot) 1024
    let parts := (List.range 256).map (fun n => biasParts (BitVec.ofNat 32 (leAt bs (4 * n) 4)))
    let cols := parts.map (fun (p, e, bad) => contribute 0 p e a bad)
    let exc := parts.any (fun (p, e, bad) => !bad && excursion (anchored p e a) != 0)
    ({ st := .accumulating, anchor := j.anchor, count := 1, cols := cols }, 256 * (cols.filter (fun w => markOf w != 0)).length, exc, parts.any (·.2.2))
  else ({ st := .accumulating, anchor := j.anchor, count := 0, cols := [] }, 0, false, false)

/-- Whether a matrix instruction may start on its bank: no earlier readout of the bank is due, and the bank is idle, or takes it, or is
cleared with every earlier contribution added (R135). -/
def Core.mayStart (k : Core) (j : Job) : Bool :=
  let b := k.banks[j.bank]
  !k.readouts.any (fun r => r.bank = j.bank && (r.started || r.id < j.id)) &&
    (if j.clear || b.st = .idle then !k.arrayQ.any (fun e => e.started && e.bank = j.bank)
     else true)

/-- Whether an initialising bias can be read (R134). -/
def Core.biasReady (k : Core) (j : Job) : Bool := !j.biasEn || (slotsOf (64 * j.biasSlot) 1024).all k.isFull

/-- Plaits of a strand that cannot come any more (R232): their pair is complete and the member is without them. -/
def State.missing (s : State) (c : Fin 16) (j : Job) : Bool :=
  match j.bind, s.plaitsFor c with
  | some b, some (id, x, t) =>
      let p := x.part
      let r := s.rims[p]
      let e := if b.sel then x.oldEpoch.getD x.epoch else ((s.epochsAt id x t).headD x.epoch)
      let owner := b.strand % max r.n 1
      let rest := j.needs.filter (fun q => !j.finished.contains q)
      if r.n = 0 then false
      else if owner = r.own then rest.any (fun q => !s.enc.dir.any (fun d => d.key = dirKey x.model b.layer b.strand (q / 16) e && q % 16 ≤ d.countM1))
      else s.pairDone id x t owner b.layer && rest.any (fun q => !r.landed.any (fun d =>
        let h := hdrOf d.bytes
        s.landedFor c d && h.kind = 0 && h.model = x.model && h.layer = b.layer && h.strand = b.strand && h.p = q && h.epoch = e && stepOfPlait x h = t))
  | _, _ => false

/-- Instructions that have started and need a plait that cannot come fault (R232). -/
def State.faultMissing (s : State) (c : Fin 16) : State :=
  match s.cores[c].arrayQ.find? (fun j => j.started && s.missing c j) with
  | some j => s.mmaFaultAt c j.pc 0x30
  | none => s

/-- MMA_START (R135): the head of the array queue starts; `bankWait` cycles were spent waiting on its bank. One that does not initialise and
names another anchor faults, also with K = 0 or M = 0, for which R36 says in one bullet that it faults and in another that it changes
nothing (DESIGN CHOICE, log entry 84). -/
def execMmaStart (c : Fin 16) (bankWait : Nat) (chk : Check) (s : State) : Host.Outcome State Fault Refusal :=
  .next (
    let k := s.cores[c]
    match k.arrayQ.find? (!·.started) with
    | none => s
    | some j =>
      let b := k.banks[j.bank]
      let earlier := k.arrayQ.filter (·.started)
      let init := j.clear || b.st = .idle
      if s.stopped || s.saving c || k.run.isNone || !earlier.all Job.allFed || !k.mayStart j || (init && !k.biasReady j) then s
      else if chk ≠ .ok then (if chk = .spad && init && j.biasEn then s.checkFailed c chk else s)
      else
        let s := s.count (blkCore c) 0x0968 bankWait
        if !init && b.anchor ≠ j.anchor then ((s.stick (blkCore c) 0x0810 8).faultOn c (blkCore c) 0x1016)
        else
          let start := fun (k : Core) => Core.ramp { k with arrayQ := k.arrayQ.map (fun e => if e.id = j.id then { e with started := true } else e) }
          if init then
            let (nb, marks, exc, bad) := initBank k j
            ((s.modCore c (fun k => start { k with banks := k.banks.set j.bank nb })).accFlags c marks exc bad).faultMissing c
          else
            (s.modCore c (fun k =>
              start (if j.k = 0 ∨ j.m = 0 then k else { k with banks := k.banks.set j.bank { b with st := .accumulating } }))).faultMissing c)

/-! The expander (R76, R62, R232) -/

/-- The instruction that next takes plaits, and its binding. -/
def Core.feeding (k : Core) : Option (Job × Binding) :=
  (k.arrayQ.find? (fun j => !j.allFed)).bind (fun j => j.bind.map (fun b => (j, b)))

/-- A corrupt plait found in an expander (R92, R112, R116): a landed one is given up and asked for again, an own one is read again. -/
def State.expanderBad (s : State) (c : Fin 16) (h : PHdr) (own : Bool) (b cause : Nat) : State :=
  let p := s.partOf c
  let s := (s.stick blkWEF 0x0200 b).record blkWEF .c cause
  if own then s.ownReadFail p (dirKey h.model h.layer h.strand h.segment h.epoch)
  else s.landedBad p h

/-- Whether a plait in the buffer can be decoded now: its run map is in place, and it needs no table or its table is loaded (R72, R73). -/
def State.decodable (s : State) (p : Fin 4) (h : PHdr) : Bool :=
  match s.tableOf p h with
  | some (slot, gen) => h.free || s.genState p slot gen = 0
  | none => false

/-- The code lengths a plait is decoded with. -/
def State.lensOf (s : State) (p : Fin 4) (h : PHdr) : List Nat := ((s.tableOf p h).map (fun t => (s.tslot p t.1).lens)).getD []

/-- The stored CHECK words of a segment's plaits in the weft store, and whether they give the segment's check (R65, R66). -/
def State.segHolds (s : State) (d : DirEntry) : Bool :=
  segCheck ((List.range (d.countM1 + 1)).map (fun i => s.peekN (d.location + s.plaitOffset d.location i) 4)) == d.check

/-- A segment as the slower tier gives it, read and decrypted whole; none where its tag or its segment check fails (R86, R116). -/
def State.tierSegment (s : State) (d : DirEntry) : Option Bytes :=
  (s.tierOpen d.key d.salt d.location d.length).filter (fun bs => segCheck (splitSeg (d.countM1 + 1) bs) == d.check)

/-- A plait of the member's own as its tier gives it (R12, R86, R131): from the weft store at LOCATION, or from its segment in the slower tier.
None where the directory has no such plait, or its read fails (R116). -/
def State.ownPlait (s : State) (errs : List LineErr) (h : PHdr) : Option Bytes × State :=
  match s.enc.dir.find? (fun d => d.key = dirKey h.model h.layer h.strand h.segment h.epoch && h.part ≤ d.countM1) with
  | none => (none, s)
  | some d =>
    if d.slower && s.vcl.st ≠ .up then (none, s.hostFailed)
    else if d.slower then
      let s := s.hostMoved false (s.tierAddr d.location) (d.length + 16) 1
      ((s.tierSegment d).bind (fun bs => (splitSeg (d.countM1 + 1) bs)[h.part]?), s)
    else
      let a := d.location + s.plaitOffset d.location h.part
      let n := 32 + leNat (s.peekN (a + 18) 2)
      let (ok, s) := s.readHbm errs a n
      (if ok && s.segHolds d then some (s.peekN a n) else none, s)

/-- PLAIT_IN_EXPANDER (R76): a plait that the feeding instruction needs is in the buffer whole; one that cannot be read, or has a bad CHECK or
form, is sent back. -/
def execPlaitInExpander (c : Fin 16) (plait : Bytes) (m : MemRead) (s : State) : Host.Outcome State Fault Refusal :=
  .next (
    let k := s.cores[c]
    let h := hdrOf plait
    let p := s.partOf c
    let r := s.rims[p]
    match k.feeding, s.plaitsFor c with
    | some (j, b), some (id, x, t) =>
      let own := h.owner = r.own
      let e := if b.sel then x.oldEpoch.getD x.epoch else ((s.epochsAt id x t).headD x.epoch)
      let held := fun (q : Nat) => j.finished.contains q || k.xbuf.any (fun u => (hdrOf u.bytes).p = q && (hdrOf u.bytes).strand = b.strand)
      let key := dirKey h.model h.layer h.strand h.segment h.epoch
      let copy := r.landed.find? (fun d => s.landedFor c d && samePlait d.bytes plait)
      let here := if own then s.enc.dir.any (fun d => d.key = key && h.part ≤ d.countM1) && !r.failed.contains key && !r.fixing.contains key
        else copy.isSome && h.step16 = fld t 0 16
      if s.stopped || 40960 < (k.xbuf.map (fun u => u.bytes.length)).sum + plait.length || 16992 < plait.length then s
      else if m.chk ≠ .ok then
        match copy with
        | some d => if m.chk = .landing && !own && here then s.landParity.giveUp p d else s
        | none => s
      else if !checkPasses plait then s.expanderBad c h own 1 0x0501
      else if h.kind = 1 || h.model ≠ x.model || h.layer ≠ b.layer || h.strand ≠ b.strand || h.epoch ≠ e || !j.needs.contains h.p || held h.p
          || !here then s
      else if h.format = 7 || 2 ≤ h.kind || (s.decodable p h && (decodePlait (s.lensOf p h) plait).isNone) then
        s.expanderBad c h own 2 0x0502
      else
        let (bs, s) := if own then s.ownPlait m.errs h else match copy with
          | some d => let (ok, s) := s.readLanded p m.errs d; (if ok then some plait else none, s)
          | none => (none, s)
        match bs, copy with
        | none, some d => if own then s.ownReadFail p key else s.giveUp p d
        | none, none => s.ownReadFail p key
        | some bs, _ =>
          if bs ≠ plait then s
          else
            let ref := if own && !h.free && s.decodable p h then (s.tableOf p h).map (·.1) else none
            let s := match ref with
              | some n => s.setTslot p n { s.tslot p n with refs := (s.tslot p n).refs + 1 }
              | none => s
            s.modCore c (fun k => { k with xbuf := k.xbuf ++ [⟨plait, own, ref⟩] })
    | _, _ => s)

/-- PLAIT_DECODE_DONE (R76, R130, R132, R232): the 64 K-rows of the buffer's first plait that is ready have been delivered, or with M = 0 it is
only marked finished; its reference and its landing space are released, and the layer may be finished (R457). A plait is judged by R62 before
its format is held against WFMT, and one of another format stays in landing. -/
def execPlaitDecodeDone (c : Fin 16) (chk : Check) (s : State) : Host.Outcome State Fault Refusal :=
  .next (
    let k := s.cores[c]
    let p := s.partOf c
    match k.feeding, k.xbuf.find? (fun u => s.decodable p (hdrOf u.bytes)) with
    | some (j, _), some u =>
      let h := hdrOf u.bytes
      let form := decodePlait (s.lensOf p h) u.bytes
      if s.stopped || s.saving c || !j.started || (j.feeds && k.gate ≠ .enabled) then s
      else if chk ≠ .ok && chk ≠ .xbuf then s
      else if chk = .ok && form.isSome && h.format ≠ j.wfmt then s.mmaFaultAt c j.pc 0x30
      else
        let s := s.modCore c (fun k => { k with xbuf := k.xbuf.erase u })
        let s := match u.ref with
          | some n => s.unrefSlot p n
          | none => s
        if chk = .xbuf then s.expanderBad c h u.own 1 0x0501
        else match form with
        | none => s.expanderBad c h u.own 2 0x0502
        | some d =>
          let s := if j.feeds then s.count (blkCore c) 0x0950 (64 * j.passes) else s
          let s := s.modCore c (fun k => { k with arrayQ := k.arrayQ.map (fun e =>
            if e.id = j.id then { e with finished := e.finished ++ [h.p], fed := if e.feeds then e.fed ++ [d] else e.fed } else e) })
          let t := ((s.plaitsFor c).map (·.2.2)).getD (s.stepOn c)
          let mine := fun (l : Landed) => s.landedFor c l && samePlait l.bytes u.bytes
          let more := fun (l : Landed) => s.twoHalves p && (if s.upperHalf c then l.mine else l.seat)
          let s := if u.own then s.modRim p (fun r => { r with
              decoded := r.decoded ++ [identOf h t], reread := r.reread.filter (· ≠ dirKey h.model h.layer h.strand h.segment h.epoch) })
            else if s.rims[p].landed.any (fun l => mine l && more l) then
              s.modRim p (fun r => { r with landed := r.landed.map (fun (l : Landed) =>
                if mine l then (if s.upperHalf c then { l with seat := false } else { l with mine := false }) else l) })
            else s.dropLanded p mine
          s.progress p
    | _, _ => s)

/-! Contributions (R28 to R34, R51) -/

/-- The slots that the activation feed reads for a block of 32 K-rows: those that hold a byte of an occupied row (R130, R134). -/
def actSlotsOf (afmt base block m : Nat) : List Nat :=
  if m = 0 then []
  else if afmt = 3 then (List.range 32).flatMap (fun r => List.range' (base + 256 * block + 8 * r) ((2 * m + 63) / 64))
  else (List.range 33).flatMap (fun r => List.range' (base + 132 * block + 4 * r) ((m + 63) / 64))

/-- One token row of a block of activations as a pass takes it (R133, R27). -/
def actBlk (afmt pass : Nat) (bs : Bytes) (row : Nat) : Blk :=
  if afmt = 3 then bfBlk pass ((List.range 32).map (fun r => leAt bs (512 * r + 2 * row) 2))
  else mxBlk (leAt bs row 1) ((List.range 32).map (fun r => aElem afmt (leAt bs (256 + 256 * r + row) 1)))

/-- The column blocks of weights of a block of 32 K-rows of a decoded plait. -/
def Decoded.colBlk (d : Decoded) (half c : Nat) : Blk :=
  mxBlk (byteAt d.scales (256 * half + c)).toNat ((List.range 32).map (fun r => wElem d.format (d.sym (32 * half + r) c)))

/-- The same of a staged half block: 256 scales, then 32 K-rows of 256 elements (R87). -/
def stagedBlk (fmt : Nat) (bs : Bytes) (c : Nat) : Blk :=
  let v := leNat (bs.drop 256)
  mxBlk (byteAt bs c).toNat ((List.range 32).map (fun r => wElem fmt ((v >>> (fmtBits fmt * (256 * r + c))) % 2 ^ fmtBits fmt)))

/-- What adding to words has found: the words, marks passed, excursion, non-finite. -/
abbrev Acc := SMap (BitVec 128) × Nat × Bool × Bool

/-- One partial added to one accumulator (R33). -/
def Bank.addTo (b : Bank) (acc : Acc) (key : Nat) (pe : Int × Int) (bad : Bool) : Acc :=
  let old := mget b.dflt acc.1 key
  let new := contribute old pe.1 pe.2 b.a bad
  (mset b.dflt acc.1 key new, acc.2.1 + (if markOf old = 0 ∧ markOf new ≠ 0 then 1 else 0),
    acc.2.2.1 || (!bad && excursion (anchored pe.1 pe.2 b.a) != 0), acc.2.2.2 || bad)

/-- One (weight block, activation block) pair's partial and exponent (R28, R29, R31). -/
def pairPartial (wf af pass : Nat) (x y : Blk) : Int × Int :=
  let (q, l) := partialOf wf af pass x y
  (q, l + x.scale + y.scale)

/-- A block's contributions over every cell of the tile. -/
def Bank.addTile (b : Bank) (j : Job) (pass : Nat) (cols : List Blk) (act : Bytes) : Acc :=
  (List.range j.m).foldl (fun acc i =>
    let y := actBlk j.afmt pass act i
    (cols.zipIdx).foldl (fun acc (x, n) => b.addTo acc (256 * i + n) (pairPartial j.wfmt j.afmt pass x y) (x.bad || y.bad)) acc)
    (b.words, 0, false, false)

/-- A block's contributions on the diagonal (R51): y takes the weights' place. -/
def Bank.addDiag (b : Bank) (j : Job) (pass : Nat) (yb act : Bytes) : Acc :=
  (List.range j.m).foldl (fun acc i =>
    let y := actBlk j.afmt pass act i
    let x := mxBlk (leAt yb i 1) ((List.range 32).map (fun r => wElem j.wfmt (leAt yb (256 + 256 * r + i) 1)))
    b.addTo acc (257 * i) (pairPartial j.wfmt j.afmt pass x y) (x.bad || y.bad))
    (b.words, 0, false, false)

/-- What an instruction has read of a staged block. -/
def Job.half (j : Job) (block : Nat) : Bytes := ((j.halves.find? (fun h => h.1 = block)).map (·.2)).getD []

/-- A staged half block read on under its tag: its scales, then its elements (R87, R234, R153). -/
def Core.readHalf (k : Core) (j : Job) (t : Staging) (block : Nat) : Core × Bytes :=
  let base := 64 * (t.slot + block / 2 * (blockBytes t.wfmt / 64))
  let per := 128 * fmtBits t.wfmt * 8
  let got := j.half block
  let (k, sc) := k.readOn t.tag (base + 256 * (block % 2)) 256 (got.take 256)
  if sc.length < 256 then (k, sc)
  else
    let (k, el) := k.readOn t.tag (base + 512 + per * (block % 2)) per (got.drop 256)
    (k, sc ++ el)

/-- The staged blocks of a bank's instruction read on, where they are not there yet. -/
def Core.feedHalf (k : Core) (j : Job) (block : Nat) : Core × Job :=
  match k.staging with
  | some t =>
    if j.staged then
      let (k, bs) := k.readHalf j t block
      let j := { j with halves := j.halves.filter (fun h => h.1 ≠ block) ++ [(block, bs)] }
      ({ k with arrayQ := k.arrayQ.map (fun e => if e.id = j.id then j else e) }, j)
    else (k, j)
  | none => (k, j)

/-- Whether a staged half block has been read whole. -/
def Job.halfIn (j : Job) (block : Nat) : Bool := decide ((j.half block).length = 256 + 128 * fmtBits j.wfmt * 8)

/-- The weights of a block that an instruction feeds: decoded, or staged; `none` while they are not there. -/
def Job.weights (j : Job) (block : Nat) : Option (Nat → Blk) :=
  if j.staged then (if j.halfIn block then some (stagedBlk j.wfmt (j.half block)) else none)
  else (j.fed.find? (fun d => d.p = j.k0 / 64 + block / 2)).map (fun d => d.colBlk (block % 2))

/-- Whether the activations of a block, and the second operand of a diagonal, are there (R134). -/
def Core.actReady (k : Core) (j : Job) (block : Nat) : Bool :=
  (actSlotsOf j.afmt j.actSlot block j.m).all k.isFull && (!j.diag || (actSlotsOf 0 j.ySlot block j.m).all k.isFull)

/-- Whether a block is in progress in the array: a pass of it has been added and another has not, or its weights have been delivered and nothing
holds its activations. A save waits for it, and lets no other block begin (R37, R146). -/
def Core.blockBegun (k : Core) (j : Job) (block : Nat) : Bool :=
  let done := fun (p : Nat) => j.done.contains (block, p)
  j.started && j.feeds && decide (block < j.k / 32) && (List.range j.passes).any (fun p => !done p)
    && ((List.range j.passes).any done || (j.fed.any (fun d => d.p = j.k0 / 64 + block / 2) && k.actReady j block))

/-- BLOCK_CONTRIBUTION (R31, R33, R34): one pass of one block of 32 K-rows of the instruction feeding a bank. The weight K-rows of a staging
and of a diagonal enter the array with it; those of a plait were counted as they were decoded (R148). -/
def execBlockContribution (c : Fin 16) (bank : Fin 2) (block : Nat) (pass : Fin 2) (chk : Check) (s : State) : Host.Outcome State Fault Refusal :=
  .next (
    let k := s.cores[c]
    let b := k.banks[bank]
    match k.arrayQ.find? (fun j => j.started && j.bank = bank && j.feeds) with
    | none => s
    | some j =>
      if s.stopped || k.gate ≠ .enabled || j.passes ≤ pass.val || j.k / 32 ≤ block || j.done.contains (block, pass.val)
          || !k.actReady j block || (s.saving c && !k.blockBegun j block) then s
      else if chk ≠ .ok then (if chk = .spad || chk = .acc || chk = .partials then s.checkFailed c chk else s)
      else
        let (k, j) := k.feedHalf j block
        let s := s.modCore c (fun _ => k)
        match if j.diag then some (fun _ => mxBlk 0 []) else j.weights block with
        | none => s
        | some col =>
          let s := if j.diag || j.staged then s.count (blkCore c) 0x0950 32 else s
          if 131072 ≤ b.count then (s.stick (blkCore c) 0x0810 16).faultOn c (blkCore c) 0x1015
          else
            let act := k.spadRd (64 * (j.actSlot + actSlots j.afmt * block)) (64 * actSlots j.afmt)
            let (ws, marks, exc, bad) :=
              if j.diag then b.addDiag j pass.val (k.spadRd (64 * (j.ySlot + 132 * block)) 8448) act
              else b.addTile j pass.val ((List.range 256).map col) act
            let s := s.modCore c (fun k => { k with
              banks := k.banks.set bank { b with words := ws, count := b.count + 1 }
              arrayQ := k.arrayQ.map (fun e => if e.id = j.id then { j with done := j.done ++ [(block, pass.val)] } else e) })
            s.accFlags c marks exc bad)

/-- MMA_BANK_COMPLETE (R129, R130, R154, R221): the instruction leaves; its stall cycles and the cycles in which a requester lost a bank are counted, its staging released, its handle pushed. -/
def execMmaBankComplete (c : Fin 16) (bank : Fin 2) (weftStall actStall : Nat) (r : Ended) (s : State) : Host.Outcome State Fault Refusal :=
  .next (
    let k := s.cores[c]
    match k.arrayQ.find? (fun j => j.started && j.bank = bank) with
    | none => s
    | some j =>
      if s.stopped || !j.complete then s
      else
        let s := s.modCore c (fun k => { k with
          arrayQ := k.arrayQ.filter (fun e => e.id ≠ j.id), staging := if j.staged then none else k.staging })
        let s := ((s.count (blkCore c) 0x0958 weftStall).count (blkCore c) 0x0960 actStall).count (blkCore c) 0x0A18 r.stall
        (s.payHandle c j.push j.id (poppedHandle c j.popped)).servePosted c r.chk)

/-! Readout (R39 to R45, R136, R137, R236) -/

/-- The slots of one row in row layout (R236). -/
def rowSlots (ofmt : Nat) : Nat := 4 * outBytes ofmt

/-- The lowest slot a readout writes and the number of slots to its highest one. -/
def Readout.span (r : Readout) : Nat × Nat :=
  match r.parts with
  | [] => (r.dst, 0)
  | l => let lo := r.dst + (l.headD (0, 0)).1 / 64
         let hi := (l.getLastD (0, 1))
         (lo, r.dst + (hi.1 + hi.2 - 1) / 64 + 1 - lo)

/-- ACC_READ (R236). -/
def execAccRead (c : Fin 16) (w : Insn) (chk : Check) (s : State) : Host.Outcome State Fault Refusal :=
  .next (s.issue c .exec w 0x32 chk (fun s =>
    let k := s.cores[c]
    let g := k.exe
    let m := g.repl w 25 9 34
    let row0 := fld w 110 8
    let dst := g.sum w 38 14 52
    let rk := g.sum w 56 14 70
    let ofmt := fld w 17 3
    let sr := bit w 20 && ofmt ≠ 4
    let bank : Fin 2 := Fin.ofNat 2 (fld w 16 1)
    let r : Readout :=
      { id := k.nextId, bank := bank, row0 := row0, m := m.toNat, site := fld w 78 32, base := fld (g.rd (fld w 74 4)) 0 32,
        rkey := rk.toNat, dst := dst.toNat, fill := !bit w 24, diag := bit w 23, alayout := bit w 22, keep := bit w 21, sr := sr, ofmt := ofmt,
        push := pushQ w, pc := g.pc, started := false, left := none }
    if !within m 0 (256 - row0) || 4 < ofmt || dst < 0 || (bit w 22 && (ofmt ≠ 1 || bit w 23)) || 12288 < r.span.1 + r.span.2
        || (sr && !slotsIn rk 16) then s.mmaOperand c w
    else if k.banks[bank].st = .idle && !k.arrayQ.any (fun j => j.bank = bank) then s.insnFault c .exec w 0x0810 5 0x1019
    else s.arbitrated c w [(2, r.slots)] (fun s =>
      let s := s.modCore c (fun k => { k with nextId := k.nextId + 1, readouts := k.readouts ++ [r] })
      (s.oweHandle c r.push r.id).advance c .exec)))

/-- A readout complete (R42, R221): the bank takes its state and the handle is pushed. -/
def State.endReadout (s : State) (c : Fin 16) (r : Readout) (chk : Check := .ok) : State :=
  let s := s.modCore c (fun k => { k with
    readouts := k.readouts.filter (fun e => e.id ≠ r.id)
    banks := k.banks.set r.bank (if r.keep then { k.banks[r.bank] with st := .held } else {}) })
  (s.payHandle c r.push r.id (mkHandle r.span.1 r.span.2 0 c.val)).servePosted c chk

/-- READOUT_START (R42): every contribution of the earlier instructions into the bank has been added. -/
def execReadoutStart (c : Fin 16) (bank : Fin 2) (s : State) : Host.Outcome State Fault Refusal :=
  .next (
    let k := s.cores[c]
    match k.readouts.find? (fun r => r.bank = bank) with
    | none => s
    | some r =>
      if s.stopped || s.saving c || r.started || k.arrayQ.any (fun j => j.bank = bank && j.id < r.id) then s
      else if k.banks[bank].st = .idle then
        let s := (s.stick (blkCore c) 0x0810 32).setReg (blkCore c) 0x0B08 (BitVec.ofNat 64 (r.pc.toNat + put 1 32 1 + put 0x32 40 8))
        s.faultOn c (blkCore c) 0x1019
      else
        if r.m = 0 then s.endReadout c r
        else s.modCore c (fun k => { k with
          banks := k.banks.set bank { k.banks[bank] with st := .readout }
          readouts := k.readouts.map (fun e => if e.id = r.id then { e with started := true } else e) }))

/-- One element read out: row `i`, column `n` of the accumulator, with the random word of R44 in stochastic mode. -/
def State.readElem (s : State) (c : Fin 16) (r : Readout) (i n : Nat) : Nat × Bool :=
  let k := s.cores[c]
  let b := k.banks[r.bank]
  let u := if r.sr then some (srWord (s.reg (blkCore c) 0x0828) (s.reg (blkCore c) 0x0830) (leNat (k.spadRd (64 * r.rkey + 4 * i) 4)) (r.base + n) r.site) else none
  readAcc r.ofmt (b.get (256 * i + n)) b.a u

/-- The bytes a readout writes at each of its parts, and whether a result was clamped (R40). -/
def State.readBytes (s : State) (c : Fin 16) (r : Readout) : List (Nat × Bytes) × Bool :=
  let el := fun (l : List (Nat × Bool)) => l.flatMap (fun v => toLe (outBytes r.ofmt) v.1)
  let rows := List.range' r.row0 r.m
  if r.diag then
    let l := rows.map (fun i => s.readElem c r i i)
    ([(0, el l)], l.any (·.2))
  else if r.alayout then
    let l := (List.range 256).map (fun n => (512 * n + 2 * r.row0, rows.map (fun i => s.readElem c r i n)))
    (l.map (fun q => (q.1, el q.2)), l.any (fun q => q.2.any (·.2)))
  else
    let l := rows.flatMap (fun i => (List.range 256).map (fun n => s.readElem c r i n))
    ([(0, el l)], l.any (·.2))

/-- A readout goes on: its outputs are converted once the slots of its row keys are full, and written slot by slot up to the first whose tag
holds the write (R136, R153). -/
def State.readOut (s : State) (c : Fin 16) (r : Readout) : State × List (Nat × Bytes) :=
  let conv := s.readBytes c r
  let out := match r.left with
    | some l => l
    | none => conv.1.flatMap (fun q => slotPieces (64 * r.dst + q.1) q.2)
  let s := if r.left.isNone && conv.2 then s.stick (blkCore c) 0x0810 1 else s
  let (k, left) := s.cores[c].writePieces r.fill out
  (s.modCore c (fun _ => { k with readouts := k.readouts.map (fun e => if e.id = r.id then { e with left := some left } else e) }), left)

/-- READOUT_END (R136): the readout in progress goes on, and ends once its last slot is written. -/
def execReadoutEnd (c : Fin 16) (bank : Fin 2) (e : Ended) (s : State) : Host.Outcome State Fault Refusal :=
  .next (
    let k := s.cores[c]
    match k.readouts.find? (fun r => r.bank = bank && r.started) with
    | none => s
    | some r =>
      let keys := if r.sr && r.left.isNone then slotsOf (64 * r.rkey + 4 * r.row0) (4 * r.m) else []
      if s.stopped || !keys.all k.isFull then s
      else if e.chk ≠ .ok && !e.chk.isObj then (if r.left.isNone && (e.chk = .acc || (e.chk = .spad && r.sr)) then s.checkFailed c e.chk else s)
      else
        let (s, left) := (s.count (blkCore c) 0x0A18 e.stall).readOut c r
        if left.isEmpty then s.endReadout c r e.chk else s)

end Sys2Proof.Machine
end

