-- ==== Sys2Proof/Machine/Vfun.lean ====
section
/-! DEFINITION. VFUN: exp2, log2, rsqrt, tanh and sigmoid by the procedures of R49, with the tables and coefficients of Table 2.7, each the FP32 value nearest the exact quantity. -/

namespace Sys2Proof.Machine

/-- t[i] = 2^(i/64), i = 0–63 (Table 2.7). -/
def vfT : List (BitVec 32) :=
  [0x3F800000, 0x3F8164D2, 0x3F82CD87, 0x3F843A29, 0x3F85AAC3, 0x3F871F62, 0x3F88980F, 0x3F8A14D5,
   0x3F8B95C2, 0x3F8D1ADF, 0x3F8EA43A, 0x3F9031DC, 0x3F91C3D3, 0x3F935A2B, 0x3F94F4F0, 0x3F96942D,
   0x3F9837F0, 0x3F99E046, 0x3F9B8D3A, 0x3F9D3EDA, 0x3F9EF532, 0x3FA0B051, 0x3FA27043, 0x3FA43516,
   0x3FA5FED7, 0x3FA7CD94, 0x3FA9A15B, 0x3FAB7A3A, 0x3FAD583F, 0x3FAF3B79, 0x3FB123F6, 0x3FB311C4] ++
  [0x3FB504F3, 0x3FB6FD92, 0x3FB8FBAF, 0x3FBAFF5B, 0x3FBD08A4, 0x3FBF179A, 0x3FC12C4D, 0x3FC346CD,
   0x3FC5672A, 0x3FC78D75, 0x3FC9B9BE, 0x3FCBEC15, 0x3FCE248C, 0x3FD06334, 0x3FD2A81E, 0x3FD4F35B,
   0x3FD744FD, 0x3FD99D16, 0x3FDBFBB8, 0x3FDE60F5, 0x3FE0CCDF, 0x3FE33F89, 0x3FE5B907, 0x3FE8396A,
   0x3FEAC0C7, 0x3FED4F30, 0x3FEFE4BA, 0x3FF28177, 0x3FF5257D, 0x3FF7D0DF, 0x3FFA83B3, 0x3FFD3E0C]

/-- g[i] = 1 / (1 + i/64), i = 0–63 (Table 2.7). -/
def vfG : List (BitVec 32) :=
  [0x3F800000, 0x3F7C0FC1, 0x3F783E10, 0x3F74898D, 0x3F70F0F1, 0x3F6D7304, 0x3F6A0EA1, 0x3F66C2B4,
   0x3F638E39, 0x3F607038, 0x3F5D67C9, 0x3F5A740E, 0x3F579436, 0x3F54C77B, 0x3F520D21, 0x3F4F6475,
   0x3F4CCCCD, 0x3F4A4588, 0x3F47CE0C, 0x3F4565C8, 0x3F430C31, 0x3F40C0C1, 0x3F3E82FA, 0x3F3C5264,
   0x3F3A2E8C, 0x3F381703, 0x3F360B61, 0x3F340B41, 0x3F321643, 0x3F302C0B, 0x3F2E4C41, 0x3F2C7692] ++
  [0x3F2AAAAB, 0x3F28E83F, 0x3F272F05, 0x3F257EB5, 0x3F23D70A, 0x3F2237C3, 0x3F20A0A1, 0x3F1F1166,
   0x3F1D89D9, 0x3F1C09C1, 0x3F1A90E8, 0x3F191F1A, 0x3F17B426, 0x3F164FDA, 0x3F14F209, 0x3F139A86,
   0x3F124925, 0x3F10FDBC, 0x3F0FB824, 0x3F0E7835, 0x3F0D3DCB, 0x3F0C08C1, 0x3F0AD8F3, 0x3F09AE41,
   0x3F088889, 0x3F0767AB, 0x3F064B8A, 0x3F053408, 0x3F042108, 0x3F03126F, 0x3F020821, 0x3F010204]

/-- l[i] = −log2(g[i]) on the FP32 value g[i], i = 0–63 (Table 2.7). -/
def vfL : List (BitVec 32) :=
  [0x00000000, 0x3CB73CB3, 0x3D35D690, 0x3D8759C9, 0x3DB31FB7, 0x3DDE420E, 0x3E0462C4, 0x3E195751,
   0x3E2E00D1, 0x3E42615F, 0x3E567AEF, 0x3E6A4F70, 0x3E7DE0B5, 0x3E88983F, 0x3E92203D, 0x3E9B8925,
   0x3EA4D3C2, 0x3EAE00D1, 0x3EB71110, 0x3EC0052D, 0x3EC8DDD3, 0x3ED19BAF, 0x3EDA3F60, 0x3EE2C97E,
   0x3EEB3A9E, 0x3EF39355, 0x3EFBD42A, 0x3F01FED4, 0x3F060828, 0x3F0A0650, 0x3F0DF98A, 0x3F11E20E] ++
  [0x3F15C01A, 0x3F1993E4, 0x3F1D5DA0, 0x3F211D84, 0x3F24D3C3, 0x3F28808D, 0x3F2C2410, 0x3F2FBE7F,
   0x3F335004, 0x3F36D8CA, 0x3F3A58FE, 0x3F3DD0C9, 0x3F41404E, 0x3F44A7BB, 0x3F480731, 0x3F4B5ED6,
   0x3F4EAECF, 0x3F51F740, 0x3F553847, 0x3F58720A, 0x3F5BA4A5, 0x3F5ED038, 0x3F61F4E5, 0x3F6512C6,
   0x3F6829FA, 0x3F6B3AA0, 0x3F6E44CF, 0x3F7148A2, 0x3F744636, 0x3F773DA2, 0x3F7A2F03, 0x3F7D1A71]

/-- v[i] = 1/√mᵢ, i = 0–127 (Table 2.7). -/
def vfV : List (BitVec 32) :=
  [0x3F7F017E, 0x3F7D0D3E, 0x3F7B2452, 0x3F79464E, 0x3F7772CB, 0x3F75A969, 0x3F73E9CB, 0x3F723399,
   0x3F708681, 0x3F6EE232, 0x3F6D4660, 0x3F6BB2C5, 0x3F6A271A, 0x3F68A31D, 0x3F672691, 0x3F65B139,
   0x3F6442DB, 0x3F62DB41, 0x3F617A36, 0x3F601F87, 0x3F5ECB04, 0x3F5D7C7F, 0x3F5C33CC, 0x3F5AF0BF,
   0x3F59B330, 0x3F587AF7, 0x3F5747EE, 0x3F5619F2, 0x3F54F0DF, 0x3F53CC93, 0x3F52ACEE, 0x3F5191D1] ++
  [0x3F507B1D, 0x3F4F68B6, 0x3F4E5A7F, 0x3F4D505E, 0x3F4C4A38, 0x3F4B47F4, 0x3F4A497A, 0x3F494EB3,
   0x3F485787, 0x3F4763E2, 0x3F4673AC, 0x3F4586D3, 0x3F449D42, 0x3F43B6E6, 0x3F42D3AD, 0x3F41F383,
   0x3F411659, 0x3F403C1C, 0x3F3F64BD, 0x3F3E902C, 0x3F3DBE58, 0x3F3CEF34, 0x3F3C22B1, 0x3F3B58C0,
   0x3F3A9154, 0x3F39CC60, 0x3F3909D6, 0x3F3849AA, 0x3F378BD0, 0x3F36D03D, 0x3F3616E4, 0x3F355FBA] ++
  [0x3F3450FC, 0x3F32EF41, 0x3F319589, 0x3F304387, 0x3F2EF8F2, 0x3F2DB587, 0x3F2C7904, 0x3F2B432A,
   0x3F2A13C0, 0x3F28EA8C, 0x3F27C759, 0x3F26A9F4, 0x3F25922C, 0x3F247FD3, 0x3F2372BD, 0x3F226ABE,
   0x3F2167AF, 0x3F206968, 0x3F1F6FC4, 0x3F1E7AA0, 0x3F1D89D9, 0x3F1C9D4E, 0x3F1BB4E1, 0x3F1AD073,
   0x3F19EFE6, 0x3F191320, 0x3F183A05, 0x3F17647C, 0x3F16926C, 0x3F15C3BC, 0x3F14F857, 0x3F143026] ++
  [0x3F136B13, 0x3F12A90B, 0x3F11E9F9, 0x3F112DCA, 0x3F10746D, 0x3F0FBDCE, 0x3F0F09DD, 0x3F0E5889,
   0x3F0DA9C2, 0x3F0CFD79, 0x3F0C539F, 0x3F0BAC25, 0x3F0B06FD, 0x3F0A641A, 0x3F09C36D, 0x3F0924EC,
   0x3F088889, 0x3F07EE37, 0x3F0755ED, 0x3F06BF9E, 0x3F062B40, 0x3F0598C7, 0x3F05082A, 0x3F04795F,
   0x3F03EC5C, 0x3F036117, 0x3F02D788, 0x3F024FA6, 0x3F01C967, 0x3F0144C4, 0x3F00C1B4, 0x3F004030]

/-- c1 to c4 = (ln 2)^k / k! (Table 2.7). -/
def vfC : List (BitVec 32) :=
  [0x3F317218, 0x3E75FDF0, 0x3D635847, 0x3C1D955B]

/-- d1 to d5 = (−1)^(k+1) / (k × ln 2) (Table 2.7). -/
def vfD : List (BitVec 32) :=
  [0x3FB8AA3B, 0xBF38AA3B, 0x3EF6384F, 0xBEB8AA3B, 0x3E93BB63]

/-- k2 to k6 of tanh (Table 2.7). -/
def vfK : List (BitVec 32) :=
  [0xBEAAAAAB, 0x3E088889, 0xBD5D0DD1, 0x3CB327A4, 0xBC11371B]

/-- c_t = 2/ln 2 and c_s = 1/ln 2 (Table 2.7). -/
def vfCt : BitVec 32 := 0x4038AA3B
def vfCs : BitVec 32 := 0x3FB8AA3B

/-- An entry of a table of Table 2.7. -/
def tabAt (l : List (BitVec 32)) (i : Nat) : BitVec 32 := l.getD i 0

def one32 : BitVec 32 := 0x3F800000
def negOne32 : BitVec 32 := 0xBF800000
def half32 : BitVec 32 := 0x3F000000

/-- y × 2^m, rounded once if the result is subnormal, +inf on overflow (R49). -/
def scale2 (y : BitVec 32) (m : Int) : BitVec 32 :=
  match decF32 y with
  | .fin n q e => encF32 n q false (e + m)
  | _ => y

/-- The integer nearest ± m × 2^e, ties to even. -/
def rneInt (neg : Bool) (m : Nat) (e : Int) : Int :=
  let v : Nat :=
    if 0 ≤ e then m <<< e.toNat
    else
      let s := (-e).toNat
      let k := m >>> s
      let r := m % 2 ^ s
      let h := 2 ^ (s - 1)
      if h < r ∨ (r = h ∧ k % 2 = 1) then k + 1 else k
  if neg then -(v : Int) else v

/-- h = fma(r, h, c) over a list of coefficients, the highest first (R49). -/
def horner (r : BitVec 32) : BitVec 32 → List (BitVec 32) → BitVec 32
  | h, [] => h
  | h, c :: cs => horner r (ffma r h c) cs

/-- exp2 (R49). -/
def vexp2 (x : BitVec 32) : BitVec 32 :=
  match decF32 x with
  | .nan => qnan32
  | .inf n => if n then 0 else pinf32
  | .fin n q e =>
    if !n && !flt x 0x43000000 then pinf32
    else if flt x 0xC3160000 then 0
    else
      let j := rneInt n q (e + 6)
      let i := (j % 64).toNat
      let m := (j - i) / 64
      let r := fsub x (encInt false j (-6))
      let h := horner r (tabAt vfC 3) [tabAt vfC 2, tabAt vfC 1, tabAt vfC 0]
      let y := ffma (tabAt vfT i) (fmul r h) (tabAt vfT i)
      scale2 y m

/-- The exponent of a positive finite value and its fraction bits: f = m × 2^(1 − length) lies in [1, 2). -/
def normExp (m : Nat) (e : Int) : Int := e + (bitLen m : Int) - 1

/-- The first six fraction bits of f (R49). -/
def top6 (m : Nat) : Nat := (m <<< 6) / 2 ^ (bitLen m - 1) - 64

/-- log2 (R49). -/
def vlog2 (x : BitVec 32) : BitVec 32 :=
  match decF32 x with
  | .nan => qnan32
  | .inf n => if n then qnan32 else pinf32
  | .fin n m e =>
    if m = 0 then ninf32
    else if n then qnan32
    else
      let f := encF32 false m false (1 - (bitLen m : Int))
      let i := top6 m
      let u := ffma f (tabAt vfG i) negOne32
      let h := horner u (tabAt vfD 4) [tabAt vfD 3, tabAt vfD 2, tabAt vfD 1, tabAt vfD 0]
      let s := fadd (tabAt vfL i) (fmul u h)
      fadd (encInt false (normExp m e) 0) s

/-- rsqrt (R49). -/
def vrsqrt (x : BitVec 32) : BitVec 32 :=
  match decF32 x with
  | .nan => qnan32
  | .inf n => if n then qnan32 else 0
  | .fin n m e =>
    if m = 0 then (if n then ninf32 else pinf32)
    else if n then qnan32
    else
      let ex := normExp m e
      let odd := ex % 2 ≠ 0
      let ev := if odd then ex - 1 else ex
      let f := encF32 false m false (if odd then 2 - (bitLen m : Int) else 1 - (bitLen m : Int))
      let i := if odd then 64 + top6 m else top6 m
      let newton := fun (y : BitVec 32) =>
        let t := fmul f y
        let d := ffma (fneg t) y one32
        ffma (fmul half32 y) d y
      scale2 (newton (newton (tabAt vfV i))) (-(ev / 2))

/-- tanh (R49). -/
def vtanh (x : BitVec 32) : BitVec 32 :=
  if isNan32 x then qnan32
  else
    let a := x &&& 0x7FFFFFFF#32
    if flt a 0x39800000 then x
    else
      let y :=
        if !flt a 0x41100000 then one32
        else if flt a 0x3E800000 then
          let s := fmul a a
          let h := horner s (tabAt vfK 4) [tabAt vfK 3, tabAt vfK 2, tabAt vfK 1, tabAt vfK 0]
          ffma (fmul a s) h a
        else
          let z := vexp2 (fmul a vfCt)
          fdiv (fsub z one32) (fadd z one32)
      (y &&& 0x7FFFFFFF#32) ||| (x &&& 0x80000000#32)

/-- sigmoid (R49). -/
def vsigmoid (x : BitVec 32) : BitVec 32 :=
  if isNan32 x then qnan32
  else
    let z := vexp2 (fmul (fneg x) vfCs)
    fdiv one32 (fadd one32 z)

/-- VFUN's function by its code (Table 8.14). -/
def vfun (fn : Nat) (x : BitVec 32) : BitVec 32 :=
  if fn = 0 then vexp2 x else if fn = 1 then vlog2 x else if fn = 2 then vrsqrt x else if fn = 3 then vtanh x else vsigmoid x

end Sys2Proof.Machine
end

