-- ==== Sys2Proof/Machine/Vector.lean ====
section
/-! DEFINITION. The vector unit's instructions VOP, VRED and VFUN and their completion (R46 to R50, R237, R238). -/

namespace Sys2Proof.Machine

/-! Issue -/

/-- Whether every operand lies in the scratchpad. -/
def VecJob.inRange (j : VecJob) : Bool := (j.reads ++ j.writes).all (fun r => decide (r.1 + r.2 ≤ 786432))

/-- The fields of a vector instruction, its operands summed; `none` where an operand is out of range (R217, R237). -/
def vecOperands (k : Core) (w : Insn) (kind : VKind) : Option VecJob :=
  let g := k.exe
  let n := g.repl w 88 16 104
  let sa := g.sum w 46 14 112
  let dst := g.sum w 32 14 108
  let sb := if kind = .vop then g.sum w 60 14 116 else 0
  let sc := if kind = .vop then g.sum w 74 14 120 else 0
  let j : VecJob :=
    { id := k.nextId, kind := kind, fn := fld w 16 6, itype := fld w 22 2, otype := fld w 24 2, n := n.toNat, sa := sa.toNat, sb := sb.toNat,
      sc := sc.toNat, segs := if kind = .vred then fld w 60 14 else 0, stride := if kind = .vred then fld w 74 14 else 0, dst := dst.toNat,
      srcTag := fld w 28 2, fill := !bit w 30, bcastB := bit w 26, bcastC := bit w 27, push := pushQ w, got := [], left := none }
  if !within n 0 65535 || sa < 0 || 12288 < sa || dst < 0 || 12288 < dst || 4096 < j.segs
      || (j.usesB && (sb < 0 || 12288 < sb)) || ((j.usesC || j.isMxq) && (sc < 0 || 12288 < sc))
      || (j.isMxq && (j.n % 32 ≠ 0 || j.otype = 1)) || !j.inRange then none
  else some j

/-- A vector instruction enters the vector unit, or waits while four are held (R238). -/
def State.issueVec (s : State) (c : Fin 16) (w : Insn) (kind : VKind) : State :=
  let k := s.cores[c]
  match vecOperands k w kind with
  | none => s.insnOperand c .exec w
  | some j =>
    if 4 ≤ k.vecQ.length then s
    else s.arbitrated c w [(3, (j.reads ++ j.writes).flatMap (fun r => slotsOf r.1 r.2))] (fun s =>
      let s := s.modCore c (fun k => { k with nextId := k.nextId + 1, vecQ := k.vecQ ++ [j] })
      (s.oweHandle c j.push j.id).advance c .exec)

/-- VOP (R237). -/
def execVop (c : Fin 16) (w : Insn) (chk : Check) (s : State) : Host.Outcome State Fault Refusal :=
  .next (s.issue c .exec w 0x40 chk (fun s => s.issueVec c w .vop))

/-- VRED (R48, R237). -/
def execVred (c : Fin 16) (w : Insn) (chk : Check) (s : State) : Host.Outcome State Fault Refusal :=
  .next (s.issue c .exec w 0x41 chk (fun s => s.issueVec c w .vred))

/-- VFUN (R49, R237). -/
def execVfun (c : Fin 16) (w : Insn) (chk : Check) (s : State) : Host.Outcome State Fault Refusal :=
  .next (s.issue c .exec w 0x42 chk (fun s => s.issueVec c w .vfun))

/-! Results -/

/-- `n` elements of a type from bytes, converted exactly to FP32 (R237). -/
def elemsOf (t n : Nat) (bs : Bytes) : List (BitVec 32) :=
  (List.range n).map (fun i => decElem t (leAt bs (typeBytes t * i) (typeBytes t)))

/-- One element of VOP with the stickies it raises (R46, R47). -/
def vopElem (fn : Nat) (a b c : BitVec 32) : BitVec 32 × VFlags :=
  match fn with
  | 0x00 => let r := fadd a b; (r, opFlags [a, b] r false)
  | 0x01 => let r := fsub a b; (r, opFlags [a, b] r false)
  | 0x02 => let r := fmul a b; (r, opFlags [a, b] r false)
  | 0x03 => let r := ffma a b c; (r, opFlags [a, b, c] r false)
  | 0x04 => let r := fdiv a b; (r, opFlags [a, b] r true)
  | 0x05 => let r := fsqrt a; (r, opFlags [a] r false)
  | 0x06 => (fmax a b, {})
  | 0x07 => (fmin a b, {})
  | 0x08 => (fabs a, {})
  | 0x09 => (fneg a, {})
  | _ => (if isNan32 a then qnan32 else a, {})

/-- VRED's operation and its identity (R48). -/
def vredOp (fn : Nat) (a b : BitVec 32 × VFlags) : BitVec 32 × VFlags :=
  let r := if fn = 0 then fadd a.1 b.1 else if fn = 1 then fmax a.1 b.1 else fmin a.1 b.1
  (r, (a.2.or b.2).or (opFlags [a.1, b.1] r false))
def vredId (fn : Nat) : BitVec 32 := if fn = 0 then 0x80000000 else if fn = 1 then ninf32 else pinf32

/-- A block of MXQ (R50): its scale and its elements, which the spec does not give where the block holds a NaN or an Inf. -/
def mxqBlock (otype : Nat) (xs : List (BitVec 32)) : Byte × Bytes :=
  if xs.any (fun x => isNan32 x || isInf32 x) then (0xFF, (List.range 32).map (Config.mxqOpen otype xs))
  else if xs.all isZero32 then (0, xs.map (fun _ => 0))
  else let sc := mxScale otype xs
       (BitVec.ofNat 8 sc, xs.map (fun x => BitVec.ofNat 8 (mxElem otype sc x)))

/-- A list cut into pieces of 32. -/
def by32 {α : Type} : Nat → List α → List (List α)
  | 0, _ => []
  | n + 1, l => l.take 32 :: by32 n (l.drop 32)

/-- The bytes a job writes, by address, and its stickies (R47), from the slots it has read. A pole of VFUN sets OVERFLOW and not DIV_ZERO, and MXQ sets no
sticky, also where a block with an infinity gets the NaN scale (DESIGN CHOICE, log entry 22). -/
def VecJob.result (j : VecJob) : List (Nat × Bytes) × VFlags :=
  let src := fun (slot n : Nat) => elemsOf j.itype n (gotBytes j.got (64 * slot) (n * typeBytes j.itype))
  let enc := fun (l : List (BitVec 32)) => l.flatMap (fun x => toLe (typeBytes j.otype) (encElem j.otype x))
  match j.kind with
  | .vred =>
    let rs := (List.range j.segs).map (fun i =>
      reduceTree (vredOp j.fn) (vredId j.fn, {}) ((src (j.sa + j.stride * i) j.n).map (fun x => (x, {}))))
    (if j.segs = 0 then [] else [(64 * j.dst, enc (rs.map (·.1)))], (rs.map (·.2)).foldl VFlags.or {})
  | .vfun =>
    let rs := (src j.sa j.n).map (fun x => let r := vfun j.fn x; (r, opFlags [x] r false))
    (if j.n = 0 then [] else [(64 * j.dst, enc (rs.map (·.1)))], (rs.map (·.2)).foldl VFlags.or {})
  | .vop =>
    let xs := src j.sa j.n
    if j.n = 0 then ([], {})
    else if j.isMxq then
      let bs := (by32 (j.n / 32) xs).map (mxqBlock j.otype)
      ([(64 * j.dst, bs.flatMap (·.2)), (64 * j.sc, bs.map (·.1))], {})
    else
      let get := fun (used bc : Bool) (slot : Nat) =>
        if !used then List.replicate j.n 0 else if bc then List.replicate j.n ((src slot 1).headD 0) else src slot j.n
      let rs := (xs.zip ((get j.usesB j.bcastB j.sb).zip (get j.usesC j.bcastC j.sc))).map (fun (a, b, c) => vopElem j.fn a b c)
      ([(64 * j.dst, enc (rs.map (·.1)))], (rs.map (·.2)).foldl VFlags.or {})

/-- The slots a job reads, operand by operand, and those that it has still to read. -/
def VecJob.srcSlots (j : VecJob) : List Nat := (j.reads.flatMap (fun r => slotsOf r.1 r.2)).eraseDups
def VecJob.unread (j : VecJob) : Bool := j.srcSlots.any (fun n => (look j.got n).isNone)

/-- The oldest vector instruction goes on as far as the tags let it: it reads its slots one by one, and with all of them read it writes its
results slot by slot (R153, R219, R238). The core, and the job as it stands then with the stickies it raised now. -/
def Core.vecOn (k : Core) (j : VecJob) : Core × VecJob × VFlags :=
  let (k, got) := k.readSlots j.srcTag j.srcSlots j.got
  let j := { j with got := got }
  if j.unread then (k, j, {})
  else
    let (out, fl) := match j.left with
      | some l => (l, {})
      | none => (j.result.1.flatMap (fun q => slotPieces q.1 q.2), j.result.2)
    let (k, left) := k.writePieces j.fill out
    (k, { j with left := some left }, fl)

/-- The handle of a vector instruction: the slots it wrote from DST on (R221). -/
def VecJob.handle (j : VecJob) (c : Fin 16) : Word :=
  match j.writes with
  | [] => mkHandle j.dst 0 0 c.val
  | r :: _ => mkHandle j.dst ((r.1 + r.2 - 1) / 64 + 1 - j.dst) 0 c.val

/-- VECTOR_DONE (R219, R238): the oldest vector instruction goes on, and completes once its last result is written. -/
def execVectorDone (c : Fin 16) (r : Ended) (s : State) : Host.Outcome State Fault Refusal :=
  .next (
    match s.cores[c].vecQ with
    | [] => s
    | j :: rest =>
      if s.stopped then s
      else if r.chk ≠ .ok && !r.chk.isObj then (if r.chk = .spad && j.unread then s.checkFailed c r.chk else s)
      else
        let (k, j, fl) := s.cores[c].vecOn j
        let s := (s.modCore c (fun _ => { k with vecQ := j :: rest })).count (blkCore c) 0x0A18 r.stall
        let s := s.stick (blkCore c) 0x0838 (b2n fl.overflow + 2 * b2n fl.divZero + 4 * b2n fl.invalid)
        if j.left ≠ some [] then s
        else ((s.modCore c (fun k => { k with vecQ := rest })).payHandle c j.push j.id (j.handle c)).servePosted c r.chk)

end Sys2Proof.Machine
end

