-- ==== Sys2Proof/Machine/Image.lean ====
section
/-! DEFINITION. Context images (R241, R333): their places in the image area of HBM, their bytes, and what a save writes, a parked window's line changes and a restore reads (R182, R209, R240). -/

namespace Sys2Proof.Machine

/-- A core as a save keeps it: without its program memories and its prefetches (R241). The array's gating is the core's, not the context's. -/
def Core.saved (k : Core) : Core :=
  { k with imemF := [], imemE := [], desc := [], run := none, prefetch := [], gate := .gated, groups := 0, leaving := none }

/-- A core that a save has left: its array stays as it was, for its hold (R138). -/
def Core.left (k : Core) : Core := { gate := k.gate, groups := k.groups }

/-- A core that no context has used: closed windows, an empty scratchpad. -/
def Core.fresh : Core := {}

/-- A core of a restored context: its windows closed, each one's generation advanced (R392). -/
def Core.restored : Core := { Core.fresh with wins := Core.fresh.wins.map (fun w => { w with gen := w.gen + 1 }) }

/-- A core's part of an image, by the core's place in its partition. -/
def Image.coreAt (m : Image) (i : Nat) : Core × List Word := m.cores.getD i (Core.fresh, [])
def Image.setCore (m : Image) (i : Nat) (v : Core × List Word) : Image :=
  { m with cores := (m.cores ++ List.replicate (i + 1 - m.cores.length) (Core.fresh, [])).set i v }

/-- A core's place in its partition. -/
def State.placeOf (s : State) (c : Fin 16) : Nat := c.val - s.parts[s.partOf c].first

/-! The layout (Table 12.3, Table 8.16) -/

/-- The size of a context image in bytes. -/
def imageSize (cores : Nat) : Nat := 1024 * (4 + 2824 * cores + 144)

/-- Where a core's record, scratchpad and banks lie in an image, and its sync area. -/
def recordAt (i : Nat) : Nat := 1024 * (4 + 2824 * i)
def spadAt (i : Nat) : Nat := recordAt i + 8192
def bankAt (i b : Nat) : Nat := recordAt i + 1024 * (776 + 1024 * b)
def syncAt (cores : Nat) : Nat := 1024 * (4 + 2824 * cores)

/-- CORE_ACC_BANK (Table 2.9). -/
def Bank.view (b : Bank) : Word :=
  let st := match b.st with
    | .idle => 0
    | .accumulating => 1
    | .readout => 2
    | .held => 3
  let marked := b.cols.any (fun w => markOf w ≠ 0) || b.words.any (fun w => markOf w.2 ≠ 0)
  BitVec.ofNat 64 (put st 30 2 + put (b2n marked) 28 1 + put b.count 10 18 + put b.anchor.toNat 0 10)

/-- EXE_STATE of CORE_ENGINE_STATUS (Table 5.6). -/
def EState.exeCode : EState → Nat
  | .halted => 0
  | .running => 1
  | .runAhead => 1
  | .waitQueue => 2
  | .lull => 3
  | .waitArray => 4
  | .faulted => 5

/-- What the record holds of an engine. -/
def Engine.fields (g : Engine) : List Nat :=
  g.pc.toNat :: g.st.exeCode :: (g.sregs.toList.drop 1).map (·.toNat) ++ g.loops.flatMap (fun l => [l.start, l.last, l.count, l.iter, l.idxReg])

/-- What the record holds of bindings and a staging, of matrix instructions, and of windows. -/
def Binding.fields (b : Binding) : List Nat := [b.layer, b.strand, b2n b.sel, b.deadline]
def Core.bindFields (k : Core) : List Nat :=
  k.bindQ.flatMap Binding.fields ++ (k.bind.map Binding.fields).getD []
    ++ (k.staging.map (fun t => [t.wfmt, t.blocks, t.slot, t.tag, b2n t.taken])).getD []
def Core.arrayFields (k : Core) : List Nat :=
  k.arrayQ.flatMap (fun j => [b2n j.diag, j.bank.val, b2n j.clear, b2n j.biasEn, j.biasSlot, j.actSlot, j.ySlot, j.k0, j.k, j.m, j.anchor.toNat, j.wfmt, j.afmt,
    b2n j.staged, j.pc.toNat, j.done.length])
def Core.winFields (k : Core) : List Nat := k.wins.toList.flatMap (fun w => [b2n w.opened, w.base.toNat, w.len.toNat, w.gen.toNat, w.count.toNat])

/-- Bytes cut or filled to a length. -/
def fitTo (n : Nat) (bs : Bytes) : Bytes := (fillTo n bs).take n

/-- A local queue's 64 entries (Table 6.5). -/
def LQueue.bytes (q : LQueue) : Bytes :=
  fitTo 512 (q.slots.flatMap (fun e => match e with
    | .entry h _ _ => toLe 8 h.toNat
    | .reserved _ => toLe 8 0))

/-- The scratchpad tags of a core, a bit for each slot in rising order. -/
def Core.tagBytes (k : Core) : Bytes :=
  (List.range 1536).map (fun i => BitVec.ofNat 8 ((List.range 8).map (fun j => put (b2n (mget (fun _ => false) k.full (8 * i + j))) j 1)).sum)

/-- The engine-state record of a core (Table 8.16): its parts in the table's order. The spec gives the size of each part; where it gives no layout
inside one, the part's bytes are an open function of what it holds (log entry 24). -/
def Core.record (k : Core) (pipes : List Word) : Bytes :=
  fitTo 8192 (fitTo 168 (Config.recordBytes 0 k.fet.fields) ++ fitTo 168 (Config.recordBytes 0 k.exe.fields) ++ fitTo 96 (Config.recordBytes 1 k.bindFields)
    ++ fitTo 128 (Config.recordBytes 2 k.arrayFields) ++ k.queues.toList.flatMap LQueue.bytes ++ fitTo 8 (k.queues.toList.map (fun q => BitVec.ofNat 8 q.slots.length))
    ++ toLe 8 ((pipes.zipIdx.map (fun p => put (fld p.1 0 1) p.2 1)).sum) ++ fitTo 256 (Config.recordBytes 3 k.winFields) ++ k.tagBytes
    ++ toLe 8 k.banks[0].view.toNat ++ toLe 8 k.banks[1].view.toNat)

/-- Bytes as a sparse map, and the words of a bank as one, 16 B each in rising order of row and column. -/
def sparseBytes (bs : Bytes) : SMap Byte := (bs.zipIdx.filter (fun p => p.1 ≠ 0)).map (fun p => (p.2, p.1))
def Bank.bytes (b : Bank) : SMap Byte :=
  ((List.range 65536).filter (fun k => b.get k ≠ 0)).flatMap (fun k => (sparseBytes (toLe 16 (b.get k).toNat)).map (fun p => (16 * k + p.1, p.2)))

/-- The sync area: the values in binding order, then each handle queue's 32 entries and its occupancy, the rest 0 (R333). -/
def syncBytes (values : List Word) (ghqs : List (List Word)) : Bytes :=
  fitTo 147456 (values.flatMap (fun w => toLe 8 w.toNat) ++ ghqs.flatMap (fun q => fitTo 256 (q.flatMap (fun h => toLe 8 h.toNat)) ++ toLe 8 q.length))

/-! Bytes in memory -/

/-- A range of memory that holds just what a sparse map gives. -/
def State.layBytes (s : State) (a n : Nat) (m : SMap Byte) : State :=
  let rest := s.mem.filter (fun c => decide (c.1 < a) || decide (a + n ≤ c.1))
  { s with mem := (m.filter (fun e => decide (e.1 < n))).foldl (fun l e => mset memDefault l (a + e.1) e.2) rest }

/-- A range of memory as a sparse map. -/
def State.sparseAt (s : State) (a n : Nat) : SMap Byte :=
  (s.mem.filter (fun c => decide (a ≤ c.1) && decide (c.1 < a + n))).map (fun c => (c.1 - a, c.2))

/-- Whole lines of HBM written afresh, with their traffic (R168, R377). -/
def State.layHbm (s : State) (a n : Nat) (m : SMap Byte) : State :=
  let s := (s.countHbm true a n).layBytes a n m
  { s with bad := s.bad.filter (fun b => decide (64 * b.1 + 64 ≤ a) || decide (a + n ≤ 64 * b.1)) }

/-! Saving -/

/-- The image's header: which bank areas hold data. -/
def Image.header (m : Image) : Bytes :=
  fitTo 4096 (Config.recordBytes 4 (m.cores.flatMap (fun k => [b2n (k.1.banks[0].st ≠ .idle), b2n (k.1.banks[1].st ≠ .idle)])))

/-- A core's part of an image written: the record, the scratchpad, and each bank that is not idle (R241). -/
def State.laySaved (s : State) (base i : Nat) (k : Core × List Word) : State :=
  let s := (s.layHbm (base + recordAt i) 8192 (sparseBytes (k.1.record k.2))).layHbm (base + spadAt i) 786432 k.1.spad
  forAll [0, 1] (fun (b : Fin 2) s => if k.1.banks[b].st = .idle then s else s.layHbm (base + bankAt i b.val) 1048576 k.1.banks[b].bytes) s

/-- The values of a context's bound objects, and its handle queues, as they stand (R209). -/
def boundObjs (x : Ctx) : List Nat :=
  match x.prog with
  | some g => (List.range g.cflags).map (768 + x.cflagBase + ·) ++ (List.range g.ctrs).map (8960 + x.ctrBase + ·)
      ++ (List.range g.bars.length).map (16128 + x.barBase + ·)
  | none => []

/-- The header and the sync area of a resident context's image written (R209, R333). -/
def State.saveSync (s : State) (id : Nat) : State :=
  match s.ctx? id with
  | some x =>
    let m := { x.img.getD {} with
      sync := (boundObjs x).map s.obj
      ghqs := x.ghqs.map (fun q => (s.ghq q).entries) }
    let s := s.setCtx id { x with img := some m }
    (s.layHbm x.imgBase 4096 (sparseBytes m.header)).layHbm (x.imgBase + syncAt s.parts[x.part].cores) 147456 (sparseBytes (syncBytes m.sync m.ghqs))
  | none => s

/-! Changes of a saved image -/

/-- Where an image's bytes are: in the image area, or in the host's buffer. -/
def Ctx.imgPlace (x : Ctx) : Nat := if x.imgAt = .host then hostBase + x.imgBuf else x.imgBase

/-- Bytes of a saved image written where it lies, HBM traffic counted there (R182, R168); whether they could be: a line that cannot be read is not written
in part (R377). -/
def State.imagePoke (s : State) (x : Ctx) (off : Nat) (bs : Bytes) (counted : Bool := true) : Bool × State :=
  if x.imgAt = .host then (true, s.pokeN (x.imgPlace + off) bs)
  else if counted then s.writeHbm (x.imgPlace + off) bs else s.writeLines (x.imgPlace + off) bs

/-- An image of a context that cannot be read or written (Table 14.2): the context faults, recorded at a core of its partition. -/
def State.imageLost (s : State) (id place : Nat) : State :=
  match s.ctx? id with
  | some x => s.faultCtx id (16 + s.parts[x.part].first + place) 0x1013
  | none => s

/-- What becomes of a write of an image. -/
def State.imagePoked (r : Bool × State) (id place : Nat) : State := if r.1 then r.2 else r.2.imageLost id place

/-- Lines written into a core's scratchpad as window arrivals: each slot's tag becomes full (Table 6.1). -/
def Core.putLines (k : Core) (slot : Nat) (bs : Bytes) : Core :=
  ((slotsOf (64 * slot) bs.length).foldl (fun k n => k.setFull n true) k).spadWr (64 * slot) bs

/-- Lines for a parked window: written into the saved image, with the tags of their slots (R182). -/
def State.parkedLines (s : State) (id place slot : Nat) (bs : Bytes) : State :=
  match s.ctx? id with
  | some x =>
    match x.img with
    | some m =>
      let (d, pipes) := m.coreAt place
      let d := d.putLines slot bs
      let s := s.setCtx id { x with img := some (m.setCore place (d, pipes)) }
      let (ok, s) := s.imagePoke x (spadAt place + 64 * slot) bs
      let (tags, s) := s.imagePoke x (recordAt place + 4928 + slot / 8)
        ((d.tagBytes.drop (slot / 8)).take ((slot + bs.length / 64 - 1) / 8 - slot / 8 + 1)) false
      State.imagePoked (ok && tags, s) id place
    | none => s
  | none => s

/-- A completion flag set in a saved image (R207, R208, R209): a pipeline flag of a core's part, or a bound flag of a context that is not resident.
A flag that is set already is an overrun, which faults a context of STRICT_SYNC (R193). A counter gains 1 (R195). -/
def State.imageFlag (s : State) (id place i : Nat) : State :=
  match s.ctx? id with
  | some x =>
    let m := x.img.getD {}
    let over_ := fun (s : State) (w : Word) =>
      if !bit w 0 then s
      else
        let s := (s.stick blkSYN 0x0200 (2 ^ x.part.val)).count blkSYN 0x0210
        if bit x.attr 1 then s.faultCtx id blkSYN 0x0201 else s.record blkSYN .none 0x0201 (s.errCtx (some id))
    if i < 768 then
      let (d, pipes) := m.coreAt place
      let pipes := pipes ++ List.replicate (48 - pipes.length) 0
      let w := pipes.getD (i % 48) 0
      let pipes := pipes.set (i % 48) (w ||| (if bit w 0 then 2 else 1))
      let awaited := m.waits.any (fun v => match v.kind with
        | .flagTake j | .flagTest j => decide (j = 48 * (s.parts[x.part].first + place) + i % 48)
        | _ => false)
      let s := s.setCtx id { x with img := some (m.setCore place (d, pipes)), met := x.met || awaited }
      let r := s.imagePoke x (recordAt place + 4664) (toLe 8 ((pipes.zipIdx.map (fun p => put (fld p.1 0 1) p.2 1)).sum)) false
      if r.1 then over_ r.2 w else State.imagePoked r id place
    else
      let flag := decide (objKind i = .flag)
      let n := if flag then i - 768 else ((x.prog.map (·.cflags)).getD 0) + (i - 8960)
      let w := m.sync.getD n 0
      let v := if flag then w ||| (if bit w 0 then 2 else 1) else withFld w 0 32 ((fld w 0 32 + 1) % 2 ^ 32)
      let s := s.setCtx id { x with img := some { m with sync := m.sync.set n v } }
      let r := s.imagePoke x (syncAt s.parts[x.part].cores + 8 * n) (toLe 8 v.toNat)
      if r.1 then (if flag then over_ r.2 w else r.2) else State.imagePoked r id 0
  | none => s

/-! Restoring -/

/-- A core's part of an image read from HBM; whether every line could be read (R377). -/
def State.readPart (s : State) (base i : Nat) (k : Core) : Bool × State :=
  let parts := [(base + recordAt i, 8192), (base + spadAt i, 786432)]
    ++ ([0, 1] : List (Fin 2)).flatMap (fun b => if k.banks[b].st = .idle then [] else [(base + bankAt i b.val, 1048576)])
  parts.foldl (fun (acc : Bool × State) r => let (ok, t) := acc.2.readHbm [] r.1 r.2; (acc.1 && ok, t)) (true, s)

/-- A whole image of a context laid out: header, cores and sync area. -/
def State.layImage (s : State) (x : Ctx) (cores : Nat) : State :=
  let m := x.img.getD {}
  let s := s.layHbm x.imgBase (imageSize cores) []
  let s := forAll (m.cores.zipIdx) (fun k s => s.laySaved x.imgBase k.2 k.1) s
  (s.layHbm x.imgBase 4096 (sparseBytes m.header)).layHbm (x.imgBase + syncAt cores) 147456 (sparseBytes (syncBytes m.sync m.ghqs))

/-- The bytes of an image that a save has written, as offset and length: what moves over VCL with it (R333). -/
def Image.parts (m : Image) (cores : Nat) : List (Nat × Nat) :=
  [(0, 4096)] ++ (List.range cores).flatMap (fun i =>
    [(recordAt i, 794624)] ++ ([0, 1] : List (Fin 2)).flatMap (fun b => if (m.coreAt i).1.banks[b].st = .idle then [] else [(bankAt i b.val, 1048576)]))
    ++ [(syncAt cores, 147456)]

/-- An image copied from the image area to the host's buffer, or back, its traffic counted on both sides (R284, R293, R296); whether it could be read: no part
with an unreadable line is passed on (R376). -/
def State.moveImage (s : State) (m : Image) (cores base buf : Nat) (out : Bool) : Bool × State :=
  (m.parts cores).foldl (fun (acc : Bool × State) r =>
    let s := acc.2
    let (src, dst) := if out then (base + r.1, hostBase + buf + r.1) else (hostBase + buf + r.1, base + r.1)
    let bytes := s.sparseAt src r.2
    let (ok, s) := if out then s.readHbm [] src r.2 else (true, s)
    if !ok then (false, s)
    else (acc.1, (if out then s.layBytes dst r.2 bytes else s.layHbm dst r.2 bytes).hostMoved out (hostBase + buf + r.1) r.2 2)) (true, s)

/-- The scratchpads and the sync values of an image as its bytes now hold them: a host may have changed them in its buffer. -/
def State.rereadImage (s : State) (m : Image) (cores base : Nat) : Image :=
  let word := fun (o : Nat) => BitVec.ofNat 64 (leNat (s.peekN (base + syncAt cores + o) 8))
  let n := m.sync.length
  { m with
    cores := m.cores.zipIdx.map (fun k => ({ k.1.1 with spad := s.sparseAt (base + spadAt k.2) 786432 }, k.1.2))
    sync := (List.range n).map (fun i => word (8 * i))
    ghqs := (List.range m.ghqs.length).map (fun q =>
      (List.range (min 32 (word (8 * n + 264 * q + 256)).toNat)).map (fun i => word (8 * n + 264 * q + 8 * i))) }

/-- The first free place of an image's size in the image area (R330; DESIGN CHOICE, log entry 24). -/
def State.imageFit (s : State) (id cores : Nat) : Option Nat :=
  let used := (s.ctxs.filter (fun x => decide (x.1 ≠ id) && decide (x.2.imgBase ≠ 0))).map (fun x => (x.2.imgBase, imageSize s.parts[x.2.part].cores))
  let n := imageSize cores
  minBy (fun a => a) ((imagesBase :: used.map (fun u => u.1 + u.2)).filter (fun a => decide (a + n ≤ ckptBase) && used.all (fun u => !overlap a n u.1 u.2)))

end Sys2Proof.Machine
end

