-- ==== Sys2Proof/Machine/Sched.lean ====
section
/-! DEFINITION. Shared operations of contexts and scheduling (12_contexts_scheduling): a core's part of a context image and parked windows (R181, R208, R209, R333), starting engines (R216, R240), run starts (R73, R107), arming steps (R334), switches (R335 to R338) and the end of a step or a side task (R347), with the HALT that ends them (R222). -/

namespace Sys2Proof.Machine

/-! Images -/

/-- A core's open windows parked, in ascending order, while the parked table has room (R181). -/
def State.parkWins (s : State) (c : Fin 16) (id : Nat) : State :=
  forAll (List.finRange 16) (fun n s =>
    let v := s.cores[c].wins[n]
    if v.opened && s.syn.parked.length < 256 then
      { s with syn := { s.syn with parked := s.syn.parked ++ [⟨c, n, id, v.gen, v.count, v.len, v.base⟩] } }
    else s) s

/-- A core's parked windows given back their counters at a restore (R184). -/
def State.unparkWins (s : State) (c : Fin 16) (id : Nat) : State :=
  let mine := s.syn.parked.filter (fun k => k.core = c && k.ctx = id)
  let s := forAll mine (fun k s => s.modCore c (fun e => e.setWin k.win.val { e.win k.win.val with count := k.count })) s
  { s with syn := { s.syn with parked := s.syn.parked.filter (fun k => !(k.core = c && k.ctx = id)) } }

/-- A core's state saved into its context's image in HBM, its pipeline flags and waits with it; the core is left without a context
(R146, R181, R208, R209). -/
def State.saveCore (s : State) (c : Fin 16) : State :=
  match s.ctxOn c with
  | none => s
  | some id =>
    match s.ctx? id with
    | none => s.modCore c Core.left
    | some x =>
      let s := s.cancelAhead c
      let i := s.placeOf c
      let pipes := (List.range 48).map (fun n => BitVec.ofNat 64 (fld (s.obj (48 * c.val + n)) 0 2))
      let at_ := fun (e : Eng) => if (s.doing c e) = .runAhead then EState.waitQueue else s.doing c e
      let k := s.cores[c].saved
      let k := { k with fet := { k.fet with st := at_ .fetch }, exe := { k.exe with st := at_ .exec } }
      let m := (x.img.getD {}).setCore i (k, pipes)
      let s := s.laySaved x.imgBase i (k, pipes)
      let ws := (s.syn.waits.filter (fun w => w.core = c)).map (SyncWait.shift x (fun i b => i - b))
      let s := s.setCtx id { x with img := some { m with waits := m.waits.filter (fun w => w.core ≠ c) ++ ws }, imgAt := .hbm, met := false }
      let s := (s.parkWins c id).freePipe c
      let s : State := { s with syn := { s.syn with waits := s.syn.waits.filter (fun w => w.core ≠ c) } }
      s.modCore c Core.left

/-- A queue's configuration from an image's word (Table 5.7). -/
def LQueue.withCfg (q : LQueue) (v : BitVec 16) : LQueue :=
  { q with exeToFet := bit v 15, limitM1 := BitVec.ofNat 5 (fld v 8 5), depthM1 := BitVec.ofNat 6 (fld v 0 6) }

/-- A sparse memory from a list, entries of 0 left out. -/
def sparse {α : Type} [DecidableEq α] (z : α) (l : List α) : SMap α := (l.zipIdx.filter (fun p => p.1 ≠ z)).map (fun p => (p.2, p.1))

/-- Where a context's program image lies in Obinha's own area of HBM, and its size (R239, R240; the place is a DESIGN CHOICE, log entry 119). -/
def progAt (id : Nat) : Nat := 2 ^ 28 + 2 ^ 18 * (id % 1024)
def Program.size (g : Program) : Nat := 64 + 16 * (g.fet.length + g.exe.length) + 64 * g.descs.length + 8 * g.bars.length

/-- A core's program memories loaded from a package (R240). -/
def Core.withProgram (k : Core) (g : Option Program) : Core :=
  { k with imemF := sparse 0 ((g.map (·.fet)).getD []), imemE := sparse 0 ((g.map (·.exe)).getD []), desc := sparse 0 ((g.map (·.descs)).getD []) }

/-- The highest step of a context that the member has armed (R336). -/
def Ctx.highest (x : Ctx) : Word := x.armed.getD (x.cons - 1)

/-- CORE_STEP of a context (R52): the step it has armed, else the last one; 0 before its first step is armed (DESIGN CHOICE, log entry 87). -/
def Ctx.coreStep (x : Ctx) : Word := if x.armed.isNone && x.cons = x.startStep then 0 else x.highest

/-- A context's part put on a core: its image, its program (R240), its registers from the context's attributes, its pipeline flags and
its waits, each of which returns at once if it is met by now (R208, R209). -/
def State.loadCore (s : State) (c : Fin 16) (id : Nat) (task : Option Nat) : State :=
  match (s.ctx? id).filter (fun x => x.st ≠ .faulted) with
  | none => s
  | some x =>
    let m := x.img.getD {}
    let (k, pipes) := m.coreAt (s.placeOf c)
    let (readable, s) := s.readPart x.imgBase (s.placeOf c) k
    let s := (s.readHbm [] (progAt id) ((x.prog.map Program.size).getD 0)).2
    if !readable then s.faultCtx id (blkCore c) 0x1013
    else
    let g := x.prog
    let qs : Vector LQueue 8 := Vector.ofFn (fun i => (k.queues[i]).withCfg ((g.map (·.qcfg)).getD [] |>.getD i.val 0))
    let k : Core := { k.withProgram g with queues := qs, run := some ⟨id, task⟩ }
    let s := s.modCore c (fun o => Core.ramp { k with gate := o.gate, groups := o.groups })
    let head := objHead x.part x.cslot 0
    let s := forAll (List.range 48) (fun n s => s.setObj (48 * c.val + n) (BitVec.ofNat 64 (head + (pipes.getD n 0).toNat))) s
    let b := blkCore c
    let s := s.setReg b 0x0820 (BitVec.ofNat 64 (b2n (bit x.attr 3) + 2 * b2n (bit x.attr 2)))
    let s := s.setReg b 0x0828 x.seed
    let s := s.setReg b 0x0830 x.coreStep
    let s := s.setReg b 0x0998 (BitVec.ofNat 64 (b2n (bit x.attr 4)))
    let s := s.setReg b 0x0A00 (BitVec.ofNat 64 (b2n (bit x.attr 5)))
    let ws := (m.waits.filter (fun w => w.core = c)).map (SyncWait.shift x (fun i b => i + b))
    let s := s.setCtx id { x with img := some { m with waits := m.waits.filter (fun w => w.core ≠ c) } }
    let s := s.unparkWins c id
    let s : State := { s with syn := { s.syn with waits := s.syn.waits ++ ws } }
    s.serveWaits.fireHeld

/-! Starting engines (R216) -/

/-- Both engines of a core started at instruction 0 with their registers; entries left in the local queues are discarded (R222), the
binding FIFO and the current binding emptied (R229). -/
def State.startEngines (s : State) (c : Fin 16) (regs : List (Nat × Word)) : State :=
  let left := s.cores[c].queues.toList.any (fun q => !q.slots.isEmpty)
  let s := if left then (s.stick (blkCore c) 0x0B00 8).record (blkCore c) .none 0x100D (s.errCtx (s.ctxOn c)) else s
  let g : Engine := regs.foldl (fun g r => g.wr r.1 r.2) { st := .running }
  s.modCore c (fun k => { k with fet := g, exe := g, bindQ := [], bind := none
                                 queues := k.queues.map (fun q => { q with slots := [], pushes := [] }) })

/-- The registers of a rim step on a core (Table 8.1). -/
def State.stepRegs (s : State) (c : Fin 16) (w : Work) : List (Nat × Word) :=
  let r := s.rims[s.partOf c]
  let (i, n) := s.seatOf c
  let own := if s.twin.halved.contains (s.partOf c) && s.placeOf c ≠ i then
      ((s.twin.seated.find? (fun t => t.1 = s.partOf c)).map (·.2)).getD r.own else r.own
  [(1, w.argblk), (2, BitVec.ofNat 64 w.rows), (3, BitVec.ofNat 64 i), (4, BitVec.ofNat 64 n), (5, BitVec.ofNat 64 own),
   (6, BitVec.ofNat 64 r.n), (7, BitVec.ofNat 64 w.pinned)]

/-! Work -/

/-- A unit of work of a context changed. -/
def Ctx.modWork (x : Ctx) (w : Work) (f : Work → Work) : Ctx :=
  { x with queue := x.queue.map (fun v => if v.cmd = w.cmd then f v else v) }

/-- A unit of work taken out of its context's queue. -/
def Ctx.dropWork (x : Ctx) (w : Work) : Ctx := { x with queue := x.queue.filter (fun v => v.cmd ≠ w.cmd) }

/-- A context's oldest step that has not completed. -/
def Ctx.oldest (x : Ctx) : Option Work := x.queue.find? (fun w => !w.task)

/-- Whether a context has a step armed, running or pre-empted. -/
def Ctx.inFlight (x : Ctx) : Bool := x.armed.isSome

/-- A task pre-empted on a core (R348). -/
def State.preemptTask (s : State) (c : Fin 16) : State :=
  match s.cores[c].run with
  | some ⟨id, some cmd⟩ =>
    let s := s.saveCore c
    let s := s.modCtx id (fun x => { x with queue := x.queue.map (fun v =>
      if v.cmd = cmd then { v with st := .preempted, core := c.val } else v) })
    s.count blkCTL 0x0570 1 (s.partOf c).val
  | _ => s

/-! Run starts (R73, R107) -/

/-- A message to another member's Obinha. -/
def State.tell (s : State) (p : Fin 4) (member : Nat) (m : RimMsg) : State :=
  let dst := s.rims[p].members.getD member 0xFFFF
  s.sendCtrlMsg dst (.obinha dst m)

/-- A message to every other member. -/
def State.tellAll (s : State) (p : Fin 4) (m : RimMsg) : State := forAll s.rims[p].owners (fun k s => s.tell p k m) s

/-- Whether this member leads its rim. -/
def Rim.leads (r : Rim) : Bool := r.own == r.lead

/-- The member's own plaits by layer, with their stored bytes: its part of the combined plait table (R107, R458). -/
def State.ownTable (s : State) (model epoch : Nat) : List (Nat × Nat × Nat) :=
  let es := s.enc.dir.filter (fun e => e.model = model && e.epoch = epoch)
  ((es.map DirEntry.layer).eraseDups).map (fun l =>
    let of := es.filter (fun e => e.layer = l)
    (l, (of.map (fun e => e.countM1 + 1)).sum, (of.map (·.length)).sum))

/-- Whether a half of the decode-table slots holds no references. -/
def State.halfFree (s : State) (p : Fin 4) (half : Bool) : Bool :=
  (s.tslots[p]).all (fun t => decide (t.1 / 128 ≠ b2n half) || t.2.refs = 0)

/-- The part of the combined plait table that a departed twin has, from its shadow (R390). -/
def State.shadowTable (s : State) (model epoch : Nat) : List (Nat × Nat × Nat) :=
  let es := s.twin.shadow.filter (fun e => e.1 % 2 ^ 16 = model && e.1 / 2 ^ 50 % 2 ^ 8 = epoch)
  let layer := fun (e : Nat × Shadow) => e.1 / 2 ^ 16 % 2 ^ 12
  ((es.map layer).eraseDups).map (fun l =>
    let of := es.filter (fun e => layer e = l)
    (l, (of.map (fun e => e.2.count)).sum, (of.map (fun e => e.2.len)).sum))

/-- The members that this device is on a partition's rim: its own index, and that of a seat taken (R390). -/
def State.seats (s : State) (p : Fin 4) : List Nat := s.rims[p].own :: ((s.twin.seated.find? (fun t => t.1 = p)).map (·.2)).toList

/-- What each member that this device is reports to the lead member; the lead member notes its own. -/
def State.toLead (s : State) (p : Fin 4) (m : Nat → RimMsg) (note : Nat → State → State) : State :=
  forAll (s.seats p) (fun k s => if s.rims[p].leads then note k s else s.tell p s.rims[p].lead (m k)) s

/-- The table of one of the members that this device is. -/
def State.seatTable (s : State) (p : Fin 4) (k model epoch : Nat) : List (Nat × Nat × Nat) :=
  if k = s.rims[p].own then s.ownTable model epoch else s.shadowTable model epoch

/-- What tells a run apart among the members: its context, weight epoch and first step. -/
def Run.key (u : Run) : Nat × Nat × Word := (u.ctx, u.epoch, u.first)

/-- The stored bytes by layer of owners other than a member, frames counted with layer 0 (R110). -/
def combineTables (reps : List TableRep) (member : Nat) : List (Nat × Nat) :=
  let all := (reps.filter (fun r => r.member ≠ member)).flatMap (fun r => r.layers.map (fun l => (if l.1 = 0xFFF then 0 else l.1, l.2.2)))
  ((all.map (·.1)).eraseDups).map (fun l => (l, ((all.filter (fun a => a.1 = l)).map (·.2)).sum))

/-- A table received, in the place of an earlier one of its model and weight epoch (R458). -/
def Rim.setTable (r : Rim) (key : Nat × Nat) (layers : List (Nat × Nat)) : Rim := { r with tables := r.tables.filter (fun t => t.1 ≠ key) ++ [(key, layers)] }

/-- The members' parts of a combined table that was sent as rows of owner, layer, number and stored bytes. -/
def tableReps (model epoch : Nat) (rows : List (Nat × Nat × Nat × Nat)) : List TableRep :=
  ((rows.map (·.1)).eraseDups).map (fun k => ⟨model, epoch, k, (rows.filter (fun e => e.1 = k)).map (·.2)⟩)

/-- A run map put in place for the run that it is for, with the combined table (R73, R107, R458). -/
def State.applyRunMap (s : State) (p : Fin 4) (key : Nat × Nat × Word) (half : Bool) (gens : List (BitVec 2))
    (table : List (Nat × Nat × Nat × Nat)) : State :=
  match s.rims[p].run with
  | some u =>
    match s.ctx? u.ctx with
    | some x =>
      if u.key ≠ key then s
      else
        let s := s.modRim p (fun r => r.setTable (x.model, u.epoch) (combineTables (tableReps x.model u.epoch table) r.own))
        s.modRim p (fun r => { r with
          run := some { u with half := half, gens := gens, ready := true }
          counts := r.counts.filter (fun c => !(c.model = x.model && c.epoch = u.epoch))
            ++ table.map (fun e => ⟨x.model, u.epoch, e.1, e.2.1, e.2.2.1⟩) })
    | none => s
  | none => s

/-- The members whose run-start reports the lead member has of a run. -/
def Rim.reportsFor (r : Rim) (key : Nat × Nat × Word) : List Nat := (r.runReps.filter (fun k => k.1 = key)).map (·.2)

/-- A member's table noted in the lead member's combined one: a later one takes the place of an earlier one (R458). -/
def Rim.noteTab (r : Rim) (t : TableRep) : Rim :=
  { r with tabReps := r.tabReps.filter (fun u => !(u.model = t.model && u.epoch = t.epoch && u.member = t.member)) ++ [t] }

/-- The reports that the lead member has of a model's weight epoch. -/
def Rim.reportsOf (r : Rim) (model epoch : Nat) : List TableRep := r.tabReps.filter (fun t => t.model = model && t.epoch = epoch)

/-- A run-start report noted by the lead member, and its table in the combined one (R107). -/
def Rim.noteRun (r : Rim) (key : Nat × Nat × Word) (model k : Nat) (table : List (Nat × Nat × Nat)) : Rim :=
  { r.noteTab ⟨model, key.2.1, k, table⟩ with runReps := r.runReps.filter (fun e => e ≠ (key, k)) ++ [(key, k)] }

/-- The lead member, once every member has reported, sends the run map with the combined plait table and puts it in place itself. -/
def State.leadRun (s : State) (p : Fin 4) : State :=
  let r := s.rims[p]
  match r.run with
  | some u =>
    let reps := r.reportsFor u.key
    if r.leads && !u.ready && decide (r.n ≤ reps.length) then
      match (s.ctx? u.ctx).bind (fun x => s.model? x.model) with
      | some m =>
        let table := (r.reportsOf m.id u.epoch).flatMap (fun t => t.layers.map (fun l => (t.member, l)))
        let base := 128 * b2n u.half
        let gens := (List.range (r.n * m.nfmt)).map (fun i => (s.tslot p (base + i)).gen + 1)
        let s := s.tellAll p (.runMap (BitVec.ofNat 16 u.ctx) (BitVec.ofNat 8 u.epoch) u.first u.half gens table)
        (s.modRim p (fun r => { r with runReps := r.runReps.filter (fun k => k.1 ≠ u.key) })).applyRunMap p u.key u.half gens table
      | none => s
    else s
  | none => s

/-- The run-start reports of this device, sent once the half of its new run holds no references (R73). -/
def State.reportRun (s : State) (p : Fin 4) : State :=
  match s.rims[p].run with
  | some u =>
    if !u.sent && s.halfFree p u.half then
      let model := ((s.ctx? u.ctx).map (·.model)).getD 0xFFFF
      let table := fun (k : Nat) => s.seatTable p k model u.epoch
      let s := s.modRim p (fun r => { r with run := some { u with sent := true } })
      (s.toLead p (fun k => .runReport (BitVec.ofNat 16 u.ctx) (BitVec.ofNat 8 u.epoch) u.first k (table k))
        (fun k s => s.modRim p (fun r => r.noteRun u.key model k (table k)))).leadRun p
    else s
  | none => s

/-- A new run of a context in a weight epoch from a step on: it takes the half that the run before it did not use. The run of a pre-empted step is
kept beside them (R73, R337). -/
def State.startRun (s : State) (p : Fin 4) (id epoch : Nat) (first : Word) : State :=
  let held := s.parts[p].preempt
  let s := s.modRim p (fun r => { r with
    run := some { ctx := id, epoch := epoch, half := !((r.run.map (·.half)).getD true), gens := [], sent := false, ready := false, first := first }
    prev := r.run, heldRun := if held.isSome && r.prev.map (·.ctx) = held then r.prev else r.heldRun })
  s.reportRun p

/-- What follows a change of a rim's landing, decoding or run: a due run-start report, the progress through the layers, and the faults of
instructions that need a plait which cannot come any more (R232). -/
def State.settleRim (s : State) (p : Fin 4) : State :=
  forAll (s.coresOf p) (fun c s => s.faultMissing c) ((s.reportRun p).progress p)

/-! Verdicts on weight epochs (R117 to R120) -/

/-- The flip step F of the pin window in which a step of a context lies (R117, R120): of the flip that is pending or committed, else of the one before
it, whose window goes on beside it. -/
def State.pinFlip (s : State) (id : Nat) (x : Ctx) (t : Word) : Option Word :=
  let inside := fun (f e : Word) => stepLe f t && !stepLe e t
  match (s.rims[x.part].flipOf id).filter (fun f => inside f.step (f.step + BitVec.ofNat 64 f.pin)) with
  | some f => some f.step
  | none => x.pinFrom.filter (fun f => x.oldEpoch.isSome && inside f x.pinUntil)

/-- The pin window's verdicts the lead member can give: for each step in turn once all members have reported (R120). -/
def State.leadPins (s : State) (p : Fin 4) : State :=
  let rec go : Nat → State → State
    | 0, s => s
    | n + 1, s =>
      let r := s.rims[p]
      let full := fun (q : Nat × Word × Nat × Nat) => decide (r.n ≤ (r.pins.filter (fun e => e.1 = q.1 && e.2.1 = q.2.1)).length)
      let first := fun (q : Nat × Word × Nat × Nat) => r.pins.all (fun e => e.1 ≠ q.1 || stepLe q.2.1 e.2.1)
      match r.pins.find? (fun q => full q && first q) with
      | some q =>
        let (id, t) := (q.1, q.2.1)
        let some_ := r.pins.any (fun e => e.1 = id && e.2.1 = t && decide (0 < e.2.2.2))
        let from_ := ((s.ctx? id).bind (fun x => s.pinFlip id x t)).getD t
        let prior := !r.duals.any (fun d => d.1 = id && !d.2.2 && stepLe from_ d.2.1)
        let v := some_ && prior
        let s := s.tellAll p (.pinVerdict (BitVec.ofNat 16 id) t v)
        go n (s.modRim p (fun r => { r with
          duals := r.duals.filter (fun d => !(d.1 = id && d.2.1 = t)) ++ [(id, t, v)], pins := r.pins.filter (fun e => !(e.1 = id && e.2.1 = t)) }))
      | none => s
  if s.rims[p].leads then go s.rims[p].pins.length s else s

/-- A member's report of a step's pinned rows noted by the lead member. -/
def Rim.notePins (r : Rim) (id : Nat) (t : Word) (k pinned : Nat) : Rim :=
  { r with pins := r.pins.filter (fun e => !(e.1 = id && e.2.1 = t && e.2.2.1 = k)) ++ [(id, t, k, pinned)] }


/-- The report of a step's pinned rows, when the step lies in the pin window (R120); a seat taken has none of its own. -/
def State.reportPins (s : State) (id : Nat) (x : Ctx) (t : Word) (pinned : Nat) : State :=
  let p := x.part
  let own := s.rims[p].own
  if (s.pinFlip id x t).isSome then
    (s.toLead p (fun k => .pinReport (BitVec.ofNat 16 id) t k (if k = own then pinned else 0))
      (fun k s => s.modRim p (fun r => r.notePins id t k (if k = own then pinned else 0)))).leadPins p
  else s

/-- A commit or cancel of a context's flip applied on a member: on commit the command completes and step F's run starts; a cancelled flip leaves no
verdicts on pinned rows (R118). -/
def State.applyFlip (s : State) (p : Fin 4) (id : Nat) (step : Word) (commit : Bool) : State :=
  match s.rims[p].flipOf id with
  | some f =>
    if f.verdict.isSome || f.step ≠ step then s
    else if commit then
      let s := (s.modRim p (fun r => { r with flips := r.flips.map (fun (g : Flip) => if g.ctx = id then { g with verdict := some true } else g) })).complete
        f.cmd stOk
      s.startRun p f.ctx f.epoch f.step
    else
      -- the window of an earlier flip that takes in the same steps goes on
      let gone := fun (t : Word) => stepLe f.step t && !(((s.ctx? id).map (fun x => x.oldEpoch.isSome && !stepLe x.pinUntil t)).getD false)
      let s := (s.stick blkRIM 0x0240 (2 ^ 9) p.val).modRim p (fun r => (r.endFlip id).endPins id gone)
      s.complete f.cmd stInvalid
  | none => s

/-- The lead member's verdict on a context's flips whose step F − 1 it arms (R118): commit where every member has accepted the flip that it has
accepted itself, cancel otherwise. -/
def State.leadFlip (s : State) (p : Fin 4) (id : Nat) (t : Word) : State :=
  let r := s.rims[p]
  let mine := (r.flipOf id).filter (fun f => f.verdict.isNone && f.step = t + 1)
  let theirs := r.early.any (fun e => e.1 = id && e.2.2.1 = t + 1)
  if r.leads && (mine.isSome || theirs) then
    let commit := (mine.map (fun f => decide (r.n ≤ f.reports.length))).getD false
    let s := s.modRim p (fun r => { r with early := r.early.filter (fun e => !(e.1 = id && stepLe e.2.2.1 (t + 1))) })
    (s.tellAll p (.flipVerdict (BitVec.ofNat 16 id) (t + 1) commit)).applyFlip p id (t + 1) commit
  else s

/-- A member's acceptance of a flip as the lead member takes it: it counts for the flip that the lead member has accepted too, waits for the lead
member's own acceptance, or comes after the verdict was due and is cancelled at once (R118). -/
def State.noteFlip (s : State) (p : Fin 4) (id epoch : Nat) (step : Word) (k : Nat) : State :=
  let r := s.rims[p]
  let late := ((s.ctx? id).map (fun x => stepLe (step - 1) x.highest)).getD false
  match (r.flipOf id).filter (fun f => f.epoch = epoch && f.step = step && f.verdict.isNone) with
  | some _ => s.modRim p (fun r => { r with flips := r.flips.map (fun (g : Flip) =>
      if g.ctx = id then { g with reports := g.reports.filter (· ≠ k) ++ [k] } else g) })
  | none =>
    if late then s.tell p k (.flipVerdict (BitVec.ofNat 16 id) step false)
    else s.modRim p (fun r => { r with early := r.early.filter (fun e => !(e.1 = id && e.2.2.2 = k)) ++ [(id, epoch, step, k)] })

/-- The acceptance of a flip reported to the lead member. -/
def State.reportFlip (s : State) (p : Fin 4) (f : Flip) : State :=
  s.toLead p (fun k => .flipReport (BitVec.ofNat 16 f.ctx) (BitVec.ofNat 8 f.epoch) f.step k) (fun k s => s.noteFlip p f.ctx f.epoch f.step k)

/-- Whether the verdicts let a member arm a step (R118, R120). -/
def State.verdictsIn (s : State) (id : Nat) (x : Ctx) (t : Word) : Bool :=
  let r := s.rims[x.part]
  (match r.flipOf id with
   | some f => f.verdict.isSome || r.leads || !(stepLe (f.step - 1) t)
   | none => true)
  && ((s.pinFlip id x t).isNone || r.duals.any (fun d => d.1 = id && d.2.1 = t))

/-! Arming (R334, R216) -/

/-- Whether a step of a context holding TIMING_EXACT has lost the promise at its arming (R344): the setting and the cap of its first step are held
against PWR_CFG as it stands, and a throttle level that lasts is no throttle step (DEDUCED, log entry 107). -/
def State.lostAtArm (s : State) (p : Fin 4) (id : Nat) (x : Ctx) : Bool :=
  let q := s.parts[p]
  bit x.attr 0 && (q.mode ≠ .cyclic || q.held || (s.twin.seated.any (fun t => t.1 = p)) || x.replay.isSome
    || (x.pwrCfg.map (fun v => decide (fld v 0 32 ≠ fld (s.reg blkPWR 0x0200) 0 32))).getD false
    || decide ((q.table.bind (fun t => t.tab[q.slot]?)).map (fun e => e.ctx.toNat) ≠ some id))

/-- A step that is running on a partition loses the timing promise. -/
def State.loseTiming (s : State) (p : Fin 4) : State :=
  match s.parts[p].running with
  | some id => s.modCtx id (fun x => { x with queue := x.queue.map (fun (w : Work) => if w.task || w.st = WState.queued then w else { w with lost := true }) })
  | none => s

/-- The cores on which a context's step runs: all of its partition, or its half when the partition serves two seats (R390, R392). -/
def State.coresFor (s : State) (p : Fin 4) (upper : Bool) : List (Fin 16) :=
  let l := s.coresOf p
  if s.twin.halved.contains p then (if upper then l.drop (l.length / 2) else l.take (l.length / 2)) else if upper then [] else l

/-- A step's engines started on its cores: each is loaded with the context unless it holds it already. -/
def State.startStep (s : State) (id : Nat) (w : Work) (cores : List (Fin 16)) : State :=
  forAll cores (fun c s =>
    let s := if s.cores[c].run = some ⟨id, none⟩ then s
      else ((match s.cores[c].run with
        | some ⟨_, some _⟩ => s.preemptTask c
        | _ => s.saveCore c)).loadCore c id none
    let s := s.setReg (blkCore c) 0x0830 w.step
    if w.rows = 0 || s.cores[c].run ≠ some ⟨id, none⟩ then s else s.startEngines c (s.stepRegs c w)) s

/-- The oldest queued step of a partition's running context is armed and its engines are started (R334). -/
def State.armStep (s : State) (p : Fin 4) (id : Nat) (x : Ctx) (w : Work) : State :=
  let s := s.leadFlip p id w.step
  match s.ctx? id with
  | none => s
  | some x' =>
    -- step F: the new weight epoch takes over (R118, R119)
    let f := (s.rims[p].flipOf id).filter (fun f => f.verdict = some true && f.step = w.step)
    let x' := match f with
      | some f => { x' with oldEpoch := some x'.epoch, epoch := f.epoch, pinFrom := some f.step, pinUntil := f.step + BitVec.ofNat 64 f.pin }
      | none => x'
    let s := if f.isSome then s.modRim p (fun r => r.endFlip id) else s
    let r := s.rims[p]
    let single := r.duals.any (fun d => d.1 = id && d.2.1 = w.step && !d.2.2)
    let expired := decide (0 < w.pinned) && single
    let w' := { w with st := .running, expired := expired, lost := s.lostAtArm p id x }
    let x' := ({ x' with armed := some w.step, pwrCfg := some (x'.pwrCfg.getD (s.reg blkPWR 0x0200)) }).modWork w (fun _ => w')
    let s := s.setCtx id x'
    let s := if f.isSome then s.ctxRecord id else s
    let s := s.startStep id w' (if w.rows = 0 then (s.coresFor p false).filter (fun c => s.cores[c].run = some ⟨id, none⟩) else s.coresFor p false)
    let s := s.modRim p (fun r => { r with step := w.step, timers := [] })
    let s := if s.rims[p].phase = .formed then s.beginLayer p id x' w.step 0 else s
    s.settleRim p

/-! The end of a side task (R347) -/

/-- A side task whose core's engines have both halted ends: its part of the image is kept and its completion written. -/
def State.endTask (s : State) (c : Fin 16) : State :=
  let k := s.cores[c]
  match k.run with
  | some ⟨id, some cmd⟩ =>
    if k.fet.st = .halted && k.exe.st = .halted then
      match s.ctx? id with
      | some x =>
        match x.queue.find? (fun w => w.cmd = cmd) with
        | some w => ((s.saveCore c).modCtx id (fun x => { x.dropWork w with since := s.podTime })).finishWork w stOk 0 0 0
        | none => s.saveCore c
      | none => s
    else s
  | _ => s

/-- HALT (R222): the engine stops once its own outstanding work is complete. -/
def execHalt (c : Fin 16) (e : Eng) (w : Insn) (chk : Check) (s : State) : Host.Outcome State Fault Refusal :=
  .next (s.issue c e w 0x02 chk (fun s =>
    let k := s.cores[c]
    let busy := match e with
      | .fetch => !(k.streams.isEmpty && k.puts.isEmpty)
      | .exec => !(k.arrayQ.isEmpty && k.readouts.isEmpty && k.vecQ.isEmpty && k.queues.toList.all (fun q => q.pushes.isEmpty))
    if busy then s
    else
      let pc := (s.eng c e).pc
      let s := (s.doneNow c e w).modEng c e (fun g => { g with st := .halted, pc := pc, loops := [] })
      (s.endTask c).settleRim (s.partOf c)))

/-! Switches (R335 to R338) -/

/-- The outgoing context of a partition saved, core by core, with its header and a copy of its sync values (R338, action 2, R209). -/
def State.saveOut (s : State) (p : Fin 4) : State :=
  match s.parts[p].running with
  | some r =>
    let mine := (s.coresOf p).filter (fun c => s.cores[c].run = some ⟨r, none⟩)
    (forAll mine (fun c s => s.saveCore c) s).saveSync r
  | none => s

/-- The run of a context whose pre-empted step resumes is the present one again (R337). -/
def Rim.resume (r : Rim) (i : Nat) : Rim :=
  let mine := fun (u : Option Run) => decide (u.map (·.ctx) = some i)
  if mine r.run then r
  else if mine r.prev then { r with run := r.prev, prev := r.run }
  else if mine r.heldRun then { r with run := r.heldRun, prev := r.run, heldRun := none }
  else { r with run := r.prev, prev := r.run }

/-- The switch instant of a context that is ready to leave: the images move, and the incoming context's run starts unless it resumes a
pre-empted step (R338). A save cancels run-ahead first (R146). A run that starts inside a pin window covers the new weight epoch alone (DESIGN CHOICE,
log entry 124). -/
def State.moveTo (s : State) (p : Fin 4) (inc : Option Nat) : State :=
  let s := s.modPart p (fun q => { q with switch := .moving inc })
  let s := (forAll (s.coresOf p) (fun c s => s.cancelAhead c) s).dropStrangers p
  match inc with
  | some i =>
    match s.ctx? i with
    | some x =>
      if s.parts[p].preempt = some i then s.modRim p (fun r => r.resume i)
      else if s.isRimCtx x then s.startRun p i x.epoch x.cons else s
    | none => s
  | none => s

/-- The lead member names H once every member has reported (R336). -/
def State.leadSwitch (s : State) (p : Fin 4) : State :=
  let r := s.rims[p]
  match s.parts[p].switch, s.parts[p].running with
  | .awaiting inc reps, some out =>
    if r.leads && decide (r.n ≤ reps.length) then
      let h := reps.foldl (fun h k => if stepLe h k.2 then k.2 else h) ((reps.head?.map (·.2)).getD 0)
      (s.tellAll p (.switchVerdict (BitVec.ofNat 16 out) h)).modPart p (fun q => { q with switch := .through inc h })
    else s
  | _, _ => s

/-- A switch whose outgoing context has completed step H goes on to move the images. -/
def State.passH (s : State) (p : Fin 4) : State :=
  match s.parts[p].switch, s.parts[p].running.bind s.ctx? with
  | .through inc h, some x => if x.armed.isNone && stepLe (h + 1) x.cons then s.moveTo p inc else s
  | _, _ => s

/-- A pre-emptive switch: the running step is pre-empted at whatever instruction it has reached (R336). -/
def State.preemptFor (s : State) (p : Fin 4) (out : Nat) (inc : Option Nat) : State :=
  let s := s.modCtx out (fun x => { x with queue := x.queue.map (fun w => if !w.task && some w.step = x.armed then { w with st := .preempted } else w) })
  let s := (s.count blkCTL 0x0570 1 p.val).modPart p (fun q => { q with preempt := some out, outgoing := some out })
  (s.modRim p (fun r => { r with timers := [], paused := true })).moveTo p inc

/-- The highest armed step of the outgoing context reported for a switch verdict; the lead member notes its own with those that have come (R336). -/
def State.reportSwitch (s : State) (p : Fin 4) (out : Nat) (x : Ctx) (inc : Option Nat) : State :=
  if s.rims[p].leads then
    let came := (s.parts[p].early.filter (fun e => e.1 = out)).map (·.2)
    let mine := (s.seats p).map (fun k => (k, x.highest))
    (s.modPart p (fun q => { q with switch := .awaiting inc (mine ++ came), early := q.early.filter (fun e => e.1 ≠ out) })).leadSwitch p |>.passH p
  else (s.modPart p (fun q => { q with switch := .awaiting inc [] })).toLead p (fun k => .switchReport (BitVec.ofNat 16 out) k x.highest) (fun _ s => s)

/-- A switch by a verdict (R336); a partition outside a rim, or one whose context is no rim context, decides alone. -/
def State.boundaryTo (s : State) (p : Fin 4) (out : Nat) (x : Ctx) (inc : Option Nat) : State :=
  let s := s.modPart p (fun q => { q with outgoing := some out })
  if s.isRimCtx x && s.rims[p].phase = .formed then
    s.reportSwitch p out x inc
  else (s.modPart p (fun q => { q with switch := .through inc x.highest })).passH p

/-- A switch to a context, or to none, begun at its instant; `edge` tells a schedule-slot edge (R336, R337, R342). -/
def State.switchTo (s : State) (p : Fin 4) (inc : Option Nat) (edge : Bool) : State :=
  let q := s.parts[p]
  if q.running = inc && q.switch = .idle then s
  else
    let s := s.count blkCTL 0x0568 1 p.val
    match q.running, q.running.bind s.ctx? with
    | some out, some x =>
      match q.preempt with
      | some held =>
        -- the pre-empted step resumes and completes first (R337)
        let s := s.modPart p (fun q => { q with next := if inc = some held then none else inc })
        s.boundaryTo p out x (some held)
      | none =>
        let lc := ((inc.bind s.ctx?).map (fun i => !i.be)).getD false
        if x.armed.isSome && (edge || (lc && x.be)) then s.preemptFor p out inc
        else if edge then s.moveTo p inc
        else s.boundaryTo p out x inc
    | _, _ => match q.preempt with
      | some held => (s.modPart p (fun q => { q with next := if inc = some held then none else inc })).moveTo p (some held)
      | none => s.moveTo p inc

/-- Whether a stream, a readout or a vector instruction can go no further because a tag holds it. -/
def State.streamHeld (s : State) (c : Fin 16) (t : Stream) : Bool :=
  !s.awaitsHost c t && decide ((s.runStream c t []).cores[c].streams = s.cores[c].streams)
def State.readoutHeld (s : State) (c : Fin 16) (r : Readout) : Bool :=
  match r.left with
  | some l => decide ((s.cores[c].writePieces r.fill l).2 = l)
  | none => r.sr && !(slotsOf (64 * r.rkey + 4 * r.row0) (4 * r.m)).all s.cores[c].isFull

/-- Whether the work that a core's save waits for is over (R146, R241): no PUT is unanswered, no block is in progress in the array, no vector
instruction is left, and every outstanding stream and readout in progress is complete or held by a tag, which no command can end while the
engines stand still (DESIGN CHOICE, log entry 88). -/
def State.coreDrained (s : State) (c : Fin 16) : Bool :=
  let k := s.cores[c]
  k.puts.isEmpty && k.streams.all (s.streamHeld c) && (k.readouts.filter (·.started)).all (s.readoutHeld c)
    && k.vecQ.isEmpty && k.arrayQ.all (fun j => (List.range (j.k / 32)).all (fun b => !k.blockBegun j b))

/-- The same of a partition's cores. -/
def State.drained (s : State) (p : Fin 4) : Bool := (s.coresOf p).all s.coreDrained

/-- The cores of a list whose side task has not drained, and the side tasks told to stop for a context (R146, R348). -/
def State.undrained (s : State) (l : List (Fin 16)) : List (Fin 16) :=
  l.filter (fun c => (s.cores[c].run.bind (·.task)).isSome && !s.coreDrained c)
def State.callOff (s : State) (id : Nat) (l : List (Fin 16)) : State :=
  forAll (l.filter (fun c => (s.cores[c].run.bind (·.task)).isSome)) (fun c s => (s.cancelAhead c).modCore c (fun k => { k with leaving := some id })) s

/-- The context of the current schedule slot, when it is resident; none for an open one (R342). -/
def State.slotCtx (s : State) (p : Fin 4) : Option Nat :=
  let q := s.parts[p]
  ((q.table.bind (fun (t : SchedTable) => t.tab[q.slot]?)).map (fun (e : SchedEntry) => e.ctx.toNat)).filter (fun (i : Nat) =>
    i ≠ 0xFFFF && ((s.ctx? i).map (fun (x : Ctx) => x.isRes && x.part = p)).getD false)

/-- What follows a resumed step `h` of a context: the context named next, or in cyclic mode the slot's, runs once it is complete (R337, R342). -/
def State.goOn (s : State) (p : Fin 4) (i : Nat) (h : Word) : State :=
  let slot := s.slotCtx p
  let after := if s.parts[p].mode = .cyclic then (if slot = some i then none else some slot) else s.parts[p].next.map some
  match after with
  | some n => (s.modPart p (fun q => { q with next := none, switch := .through n h, outgoing := some i })).passH p
  | none => s

/-! Blocked contexts (R345) -/

/-- Whether a saved engine waits on a sync object, a handle queue or a tag: one in lull at a tag that has changed since does not. -/
def Core.engineWaits (k : Core) (e : Eng) (waits : List SyncWait) (c : Fin 16) : Bool :=
  let g := k.eng e
  let held := k.tagHolds e || waits.any (fun w => w.core = c && w.eng = e)
  g.st = .waitQueue || (g.st = .lull && (held || !tagOp (k.insnAt e))) || (g.st = .running && held)

/-- Whether a resident context is blocked (R345): it has no work, or on the cores it is on its engines are in lull, and where it was saved they
waited, and no wait has been satisfied since. -/
def State.ctxBlocked (s : State) (id : Nat) (x : Ctx) : Bool :=
  let m := x.img.getD {}
  let live := allCores.filter (fun c => s.ctxOn c = some id)
  let states := live.flatMap (fun c => [s.doing c .fetch, s.doing c .exec])
  let kept := ((m.cores.zipIdx).map (fun k => (k.1.1.withProgram x.prog, Fin.ofNat 16 (s.parts[x.part].first + k.2)))).filter (fun k => !live.contains k.2)
  let waits := fun (k : Core) (c : Fin 16) (e : Eng) => (k.eng e).st = .halted || k.engineWaits e m.waits c
  x.queue.isEmpty
    || ((states.contains .lull || kept.any (fun k => k.1.fet.st ≠ .halted || k.1.exe.st ≠ .halted))
      && states.all (fun e => e = .lull || e = .halted)
      && kept.all (fun k => waits k.1 k.2 .fetch && waits k.1 k.2 .exec) && !x.met)

/-- The end of a switch (R338): the outgoing image is saved and the incoming context becomes running; a pre-empted step resumes. -/
def State.endSwitch (s : State) (p : Fin 4) (inc : Option Nat) : State :=
  let blocked := ((s.parts[p].running.bind (fun o => (s.ctx? o).map (s.ctxBlocked o))).getD false)
  let s := s.saveOut p
  let old := s.parts[p].running
  let s := match old with
    | some o =>
      -- one that was blocked before has been blocked since then (R346)
      s.modCtx o (fun (x : Ctx) => if x.st = CState.running then { x with st := CState.resident, since := if blocked then x.since else s.podTime } else x)
    | none => s
  let resumed := inc.isSome && s.parts[p].preempt = inc
  let s := s.modPart p (fun q => { q with
    running := inc, switch := .idle, outgoing := if resumed then none else q.preempt, preempt := if resumed then none else q.preempt })
  match inc with
  | none => s
  | some i =>
    match s.ctx? i with
    | none => s
    | some x =>
      let s := s.setCtx i { x with st := .running }
      let s := forAll (s.coresFor p false) (fun c s => (match s.cores[c].run with
        | some ⟨_, some _⟩ => if resumed then s.preemptTask c else s
        | _ => s)) s
      let s := forAll ((s.coresFor p false).filter (fun c => s.cores[c].run.isNone)) (fun c s =>
        s.loadCore c i none) s
      let s := s.modRim p (fun r => { r with paused := false, step := x.cons })
      if resumed then
        let s := s.modCtx i (fun x => { x with queue := x.queue.map (fun (w : Work) => if w.st = WState.preempted && !w.task then { w with st := WState.running } else w) })
        let s := match s.ctx? i, x.armed with
          | some x, some t => s.beginLayer p i x t 0
          | _, _ => s
        (s.goOn p i (x.armed.getD 0)).settleRim p
      else s.settleRim p

end Sys2Proof.Machine
end

