-- ==== Sys2Proof/Machine/Arrive.lean ====
section
/-! DEFINITION. What arrives for this device over the fabric: the reassembly table (R265), PUT packets and parked windows (R175 to R184), remote signals (R204 to R207), barrier packets (R202, R203), re-requests and aborts of a rim (R114, R115), checkpoint writes (R387), ACKs and retransmissions (R257, R264). -/

namespace Sys2Proof.Machine

/-! Windows as a packet finds them (R175, R181 to R183) -/

/-- What a window that a packet names is here: live in its core, parked, open in a saved context without a parked entry, or none of
these. -/
inductive WinAt where
  | live (x : Nat)
  | parked (k : Parked)
  | unparked
  | closed
deriving DecidableEq, Repr

/-- Whether a context holds, in a saved image, an open window of a core with a generation. -/
def State.savedWin (s : State) (x : Ctx) (c : Fin 16) (n : Nat) (gen : BitVec 8) : Bool :=
  match x.img with
  | some m =>
    let v := (m.coreAt (c.val - s.parts[x.part].first)).1.win n
    decide (s.parts[x.part].first ≤ c.val) && v.opened && decide (v.gen = gen)
  | none => false

/-- The window of a core that has a number and is open in a generation: the live one first. -/
def State.winAt (s : State) (c : Fin 16) (n : Nat) (gen : BitVec 8) : WinAt :=
  let v := s.cores[c].win n
  match s.ctxOn c with
  | some x => if v.opened && v.gen = gen then .live x else elsewhere
  | none => elsewhere
where
  /-- A window of that generation that is not live. -/
  elsewhere : WinAt :=
    match s.syn.parked.find? (fun k => k.core = c && k.win.val = n % 16 && k.gen = gen) with
    | some k => .parked k
    | none =>
      if s.ctxs.any (fun x => decide (s.ctxOn c ≠ some x.1) && s.savedWin x.2 c n gen) then .unparked else .closed

/-- A packet refused for a closed window or a stale generation (R175, R204). -/
def State.lateArrival (s : State) (c : Fin 16) : State :=
  ((s.stick (blkCore c) 0x0A08 (2 ^ 4)).count (blkCore c) 0x0A40).record (blkCore c) .none 0x1009 (s.errCtx (s.ctxOn c))

/-- A packet refused for passing the end of its window (R175). -/
def State.winRange (s : State) (c : Fin 16) : State :=
  (s.stick (blkCore c) 0x0A08 (2 ^ 5)).record (blkCore c) .none 0x1009 (s.errCtx (s.ctxOn c))

/-- A PUT packet at its destination core (R175, R178, R182): the answer's code and what is written. -/
def State.putArrives (s : State) (p : Packet) : Nat × State :=
  let c : Fin 16 := Fin.ofNat 16 (fld p.word 0 4)
  let n := fld p.word 4 4
  let gen : BitVec 8 := BitVec.ofNat 8 (fld p.word 8 8)
  let off := fld p.word 16 14
  let lines := p.payload.length / 64
  match s.winAt c n gen with
  | .live _ =>
    let v := s.cores[c].win n
    if v.len.toNat < off + lines then (2, s.winRange c)
    else
      let s := s.modCore c (fun k => (k.putLines (v.base.toNat + off) p.payload).setWin n { v with count := v.count + BitVec.ofNat 32 lines })
      (0, (s.count (blkCore c) 0x0A38 lines).serveWaits.fireHeld)
  | .parked k =>
    if k.len.toNat < off + lines then (2, s.winRange c)
    else
      let s := s.parkedLines k.ctx (s.placeOf c) (k.base.toNat + off) p.payload
      let s : State := { s with syn := { s.syn with parked := s.syn.parked.map (fun (q : Parked) =>
        if q = k then { q with count := q.count + BitVec.ofNat 32 lines } else q) } }
      (0, (s.count (blkCore c) 0x0A38 lines).noteMet.fireHeld)
  | .unparked => (3, s)
  | .closed => (1, s.lateArrival c)

/-! Signals (R204, R205) -/

/-- Held signals that the table may hold (R204). -/
def heldMax : Nat := 1024

/-- A count-gated signal at its destination (R204): the answer's code and what becomes of it. The window is judged before the held table and the target
(DESIGN CHOICE, log entry 101). -/
def State.signalArrives (s : State) (p : Packet) : Nat × State :=
  let s := s.count blkSYN 0x0250
  let c : Fin 16 := Fin.ofNat 16 (fld p.word 0 4)
  let n := fld p.word 4 4
  let gen : BitVec 8 := BitVec.ofNat 8 (fld p.word 8 8)
  let target := fld p.word 16 14
  let hold := fun (id : Nat) =>
    let good := match s.ctx? id with
      | some x => (objKind target = .flag || objKind target = .counter) && (translate x 0 0 target).isSome
      | none => false
    if !good then (4, s)
    else if heldMax ≤ s.syn.held.length then (3, (s.stick blkSYN 0x0208 (2 ^ 6)).count blkSYN 0x0260 |>.record blkSYN .none 0x0206)
    else
      let h : Held := ⟨c, Fin.ofNat 16 n, gen, BitVec.ofNat 32 (leAt p.payload 0 4), bit p.word 30, target, id, p.src, p.pseq, p.word, false, false⟩
      let s : State := { s with syn := { s.syn with held := s.syn.held ++ [h] } }
      let s := s.fireHeld
      (5, { s with syn := { s.syn with heldPeak := max s.syn.heldPeak s.syn.held.length } })
  match s.winAt c n gen with
  | .closed => (1, s.lateArrival c)
  | .unparked => (3, s)
  | .live x => hold x
  | .parked k => hold k.ctx

/-- The completion flag of a remote signal set, wherever its context's flags are now: on the core, in the sync unit, or in the context's image (R158,
R207 to R209, R222). -/
def State.flagFor (s : State) (c : Fin 16) (id i : Nat) : State :=
  if s.ctxOn c = some id then s.setFlagOn c i
  else
    match s.ctx? id with
    | some x =>
      let place := if x.model = 0xFFFF then s.placeOf c else i / 48
      if x.st = .faulted then s
      else if objKind i = .pipe then
        if (if x.model = 0xFFFF then i / 48 = 0 else decide (place < s.parts[x.part].cores)) then s.imageFlag id place i else s.syncFault (some id) 1 0x0203
      else match translate x s.parts[x.part].first s.parts[x.part].cores i with
        | some o => if x.isRes then s.syncSet o (some id) else if objKind i = .barrier then s.syncFault (some id) 2 0x0204 else s.imageFlag id place i
        | none => s.syncFault (some id) 1 0x0203
    | none => s

/-- A remote signal's final answer at its sender (R207): refusals recorded, the completion flag set. -/
def State.endSignal (s : State) (r : RsigOut) (code : Nat) : State :=
  let s :=
    if code = 0 then s
    else
      let c := if code = 1 then 1 else if code = 4 then 2 else 3
      let v := put r.core.val 40 4 + put c 36 4 + put r.win 32 4 + put code 16 4 + r.dst.toNat
      ((s.stick blkSYN 0x0208 (2 ^ 5)).setReg blkSYN 0x0248 (BitVec.ofNat 64 v)).record blkSYN .none 0x0206 (s.errCtx (some r.ctx))
  match r.flag with
  | some i => s.flagFor r.core r.ctx i
  | none => s

/-- RSIG_DONE at the sender of a signal (R207). -/
def State.signalDone (s : State) (p : Packet) : Nat × State :=
  let q : BitVec 16 := BitVec.ofNat 16 (fld p.word 0 16)
  let code := fld p.word 16 4
  match pull (fun (r : RsigOut) => r.dst = p.src && r.pseq = q) s.fab.rsigs with
  | some (r, rest) => (0, ({ s with fab := { s.fab with rsigs := rest } } : State).endSignal r code)
  | none =>
    -- the answer has overtaken the ACK that says HELD
    match pull (fun (o : OutPkt) => o.pkt.dst = p.src && o.pkt.pseq = q && o.pkt.typ = 0x03) s.fab.outst with
    | some (o, rest) =>
      let s := ({ s with fab := { s.fab with outst := rest } } : State).packetGone o.pkt
      match o.agent, o.ctx with
      | .rsignal c w f, some x => (0, s.endSignal ⟨c, x, o.pkt.dst, q, w, f⟩ code)
      | _, _ => (0, s)
    | none => (6, s)

/-! Barriers (R202, R203) -/

/-- A barrier packet that matches nothing here (R202). -/
def State.noBarrier (s : State) : State := (s.stick blkSYN 0x0208 2).record blkSYN .none 0x0203

/-- An arrival packet at a barrier's home (R202). -/
def State.arriveRx (s : State) (p : Packet) : Nat × State :=
  match s.barOf s.ownEp (fld p.word 0 10) with
  | some i => (0, if bit (s.obj i) 34 then s else s.barCount i)
  | none => (6, s.noBarrier)

/-- A break packet at a barrier's home (R203). -/
def State.breakRx (s : State) (p : Packet) : Nat × State :=
  match s.barOf s.ownEp (fld p.word 0 10) with
  | some i => let w := s.obj i
              (0, (s.barBroken i).sendRelease w true)
  | none => (6, s.noBarrier)

/-- The bank that a packet's epoch bit names (Table 9.6). -/
def State.bankOf (s : State) (p : Packet) : RBank := s.fab.banks[b2n (bit p.flags 6)]'(by unfold b2n; split <;> decide)

/-- A bank's valid ports with a direction code. -/
def RBank.portsTo (b : RBank) (dir : Nat) : List Nat := (b.ports.zipIdx.filter (fun p => p.1.valid && p.1.dir.toNat = dir)).map (·.2)

/-- A packet waiting in the router for an output link. -/
def State.enqueue (s : State) (p : Packet) (input : Option (Fin 20)) (kind : Nat) : State :=
  { s with fab := { s.fab with queue := s.fab.queue ++ [⟨p, input, kind⟩] } }

/-- The direction code of a multicast copy: MC_DIM names the dimension, MC_DIR the direction in it (Table 9.6, R266). -/
def mcDir (p : Packet) : Nat := 2 * fld p.flags 9 1 + fld p.flags 10 1

/-- A multicast copy on its way (R266): it leaves by the port of its direction, and is lost where there is none; meanwhile it fills the buffer of the
link it came on (R262). -/
def State.mcSend (s : State) (p : Packet) (input : Option (Fin 20)) : State :=
  if (s.bankOf p).portsTo (mcDir p) = [] then ((s.stick blkFAB 0x0208 (2 ^ 7)).count blkFAB 0x0300).record blkFAB .none 0x0308
  else s.enqueue p input 2

/-- A multicast copy going on (R266): HOPS lowered, forwarded in the same direction if any remain. -/
def State.mcForward (s : State) (p : Packet) (input : Option (Fin 20)) : State :=
  if p.hops.toNat ≤ 1 then s else s.mcSend { p with hops := p.hops - 1 } input

/-- The column multicast that a row release with COLUMN_NEXT starts: the same release, named by the same home (R202, R266). -/
def State.columnNext (s : State) (p : Packet) : State :=
  let n := s.fab.inject.length
  let s := s.multicast 0x07 (BitVec.ofNat 32 (fld p.word 0 11)) true
  { s with fab := { s.fab with inject := s.fab.inject.take n ++ (s.fab.inject.drop n).map (fun (q : Packet) => { q with src := p.src }) } }

/-- A barrier release at a device on its way (R202, R203, R266). -/
def State.releaseRx (s : State) (p : Packet) (input : Option (Fin 20)) : State :=
  let s := match s.barOf p.src (fld p.word 0 10) with
    | some i => if bit p.word 10 then s.barBroken i else s.barRelease i
    | none => s.noBarrier
  let s := if bit p.word 11 then s.columnNext p else s
  s.mcForward p input

/-! The rim's packets (R114, R115) -/

/-- The partition whose rim has a digest. -/
def State.rimBy (s : State) (digest : Nat) : Option (Fin 4) :=
  (List.finRange 4).find? (fun p => (s.rims[p].phase = .formed || s.rims[p].phase = .dissolving) && s.rims[p].digest.toNat = digest)

/-- Whether this device injects for an owner index on a partition: its own seat, or one it holds or has taken (R389, R390). -/
def State.serves (s : State) (p : Fin 4) (owner : Nat) : Bool :=
  owner == s.rims[p].own || s.twin.seated.any (fun t => t.1 = p && t.2 = owner) || s.twin.hold.any (fun t => t.1 = p && t.2.1 = owner)

/-- A re-request at an owner (R115): absorbed into the same repair in progress. -/
def State.rereqRx (s : State) (p : Packet) : Nat × State :=
  match s.rimBy (leAt p.payload 0 4) with
  | some q =>
    if s.serves q (fld p.word 0 6) then
      let r : Repair := ⟨leAt p.payload 4 2, BitVec.ofNat 64 (leAt p.payload 8 8), decide (leAt p.payload 6 1 = 1), fld p.word 0 6, 0, true⟩
      let busy := s.rims[q].repairs.any (fun t => t.layer = r.layer && t.step = r.step && t.ccw = r.ccw && t.owner = r.owner)
      (0, if busy then s else s.modRim q (fun m => { m with repairs := m.repairs ++ [r] }))
    else (6, s)
  | none => (6, s)

/-- Whether an abort of a model's step meets a context of a partition (R114). -/
def Ctx.abortHits (x : Ctx) (p : Fin 4) (model : Nat) (step : Word) : Bool :=
  x.part = p && x.st ≠ .faulted && x.model = model && stepLe x.startStep step && stepLe (abortStep x) step

/-- An abort from another member (R114): every context it meets is torn down with cause 0x0404. -/
def State.abortRx (s : State) (p : Packet) : Nat × State :=
  match s.rimBy (leAt p.payload 0 4) with
  | some q =>
    let s := s.stick blkRIM 0x0240 (2 ^ 5) q.val
    let hit := (s.ctxs.filter (fun x => x.2.abortHits q (leAt p.payload 4 2) (BitVec.ofNat 64 (leAt p.payload 8 8)))).map (·.1)
    (0, forAll hit (fun x s => (s.record blkRIM .k 0x0404 (s.errCtx (some x))).tearDown x 0x0404 false) s)
  | none => (6, s)

/-! Checkpoint writes (R387) -/

/-- A write into this device's checkpoint region; one that would pass its end matches no region. -/
def State.hbmWriteRx (s : State) (p : Packet) : Nat × State :=
  let a := 64 * p.word.toNat
  if a + p.payload.length ≤ ckptSize then (0, (s.writeHbm (ckptBase + a) p.payload).2) else (6, s)

/-! Reassembly (R265) -/

/-- A packet processed once: its answer recorded, unless it is to be sent again, and sent. -/
def State.process (s : State) (p : Packet) (act : State → Nat × State) : State :=
  let (code, s) := act s
  let s : State := if code = 3 then s else { s with fab := { s.fab with reasm := s.fab.reasm.map (fun (e : Reasm) =>
    if e.src = p.src then { e with done := e.done ++ [(p.pseq, code)] } else e) } }
  s.sendAck p code

/-- A sequenced packet at its destination (R265). -/
def State.receive (s : State) (p : Packet) (act : State → Nat × State) : State :=
  match s.fab.reasm.find? (fun e => e.src = p.src) with
  | none =>
    if 2048 ≤ s.fab.reasm.length then (s.count blkFAB 0x02E0).sendAck p 3
    else ({ s with fab := { s.fab with reasm := s.fab.reasm ++ [⟨p.src, p.pseq - 255, [], s.podTime⟩] } } : State).process p act
  | some e =>
    let set := fun (e : Reasm) => ({ s with fab := { s.fab with reasm := s.fab.reasm.map (fun (x : Reasm) => if x.src = p.src then e else x) } } : State)
    let e := { e with lastAt := s.podTime }
    let d := (p.pseq - e.low).toNat
    if 32768 ≤ d then (set e).sendAck p 0
    else
      let low := if 512 ≤ d then p.pseq - 511 else e.low
      let e := { e with low := low, done := e.done.filter (fun a => decide ((a.1 - low).toNat < 512)) }
      match e.done.find? (fun a => a.1 = p.pseq) with
      | some a => (set e).sendAck p a.2
      | none => (set e).process p act

/-! Answers (R257, R264) -/

/-- The code a PUT reports once a packet of it was answered: 0x8 for any WINDOW_CLOSED, 0x9 for any other refusal (R177). -/
def putCode (old answer : Nat) : Nat := if answer = 0 then old else if answer = 1 ∨ old = 8 then 8 else 9

/-- An ACK at the sender (R257). -/
def State.ackRx (s : State) (p : Packet) : State :=
  let q : BitVec 16 := BitVec.ofNat 16 (fld p.word 0 16)
  let code := fld p.word 16 4
  match pull (fun (o : OutPkt) => o.pkt.dst = p.src && o.pkt.pseq = q && o.pkt.typ.toNat = fld p.word 20 8) s.fab.outst with
  | none => s
  | some (o, rest) =>
    if code = 3 then
      let s : State := { s with fab := { s.fab with outst := s.fab.outst.map (fun x => if x = o then { x with retry := true, lastAt := s.podTime } else x) } }
      match o.agent with
      | .put c _ => s.count (blkCore c) 0x0A48
      | .rsignal c _ _ => s.count (blkCore c) 0x0A48
      | _ => s
    else
      let s := (({ s with fab := { s.fab with outst := rest } } : State).packetGone o.pkt).drainInject
      match o.agent with
      | .put c id =>
        (s.modCore c (fun k => { k with puts := k.puts.map (fun (j : PutJob) => if j.id = id then { j with code := putCode j.code code } else j) })).endPut c id
      | .rsignal c w f =>
        match o.ctx with
        | some x =>
          let r : RsigOut := ⟨c, x, o.pkt.dst, q, w, f⟩
          if code = 5 ∨ code = 0 then { s with fab := { s.fab with rsigs := s.fab.rsigs ++ [r] } } else s.endSignal r code
        | none => s
      | _ => s

/-- A packet given up (R264): the issuing context faults, or the agent is told and the error is recorded. -/
def State.e2eFail (s : State) (o : OutPkt) : State :=
  let s := ({ s with fab := { s.fab with outst := s.fab.outst.filter (fun x => x ≠ o) } } : State).packetGone o.pkt
  let s := ((s.stick blkFAB 0x0208 (2 ^ 4)).count blkFAB 0x02D8).drainInject
  let issuer := match o.agent with
    | .put .. => o.ctx
    | .rsignal .. => o.ctx
    | _ => none
  match issuer, issuer.bind s.ctx? with
  | some x, some k => if k.st = .faulted then s.record blkFAB .none 0x0304 else s.faultCtx x blkFAB 0x0304
  | _, _ => s.record blkFAB .none 0x0304

/-- An outstanding packet given to injection again from its retained copy; it takes the epoch bit and a new INJ_TIME as it leaves (R264); a copy that cannot be
read counts as failed (Table 14.2). -/
def State.resend (s : State) (o : OutPkt) (counts : Bool) : State :=
  let (ok, s) := s.readHbm [] (retxPlace o.slot) o.pkt.payload.length
  if !ok then s.e2eFail o
  else
    let pkt := { o.pkt with flags := pktFlags o.pkt.payload.length, injTime := 0, hops := 0 }
    let o' : OutPkt := { o with sends := if counts then o.sends + 1 else o.sends, lastAt := s.podTime, retry := false }
    { s with fab := { s.fab with outst := s.fab.outst.map (fun x => if x = o then o' else x), inject := s.fab.inject ++ [pkt] } }

/-! Delivery -/

/-- The packet types of Table 9.7 that this device is sent; `input` is the link it came on, where the command names it. -/
def State.deliver (s : State) (p : Packet) (input : Option (Fin 20) := none) : State :=
  match p.typ.toNat with
  | 0x01 => s.receive p (fun s => s.putArrives p)
  | 0x02 => s.ackRx p
  | 0x03 => s.receive p (fun s => s.signalArrives p)
  | 0x04 => s.receive p (fun s => s.signalDone p)
  | 0x05 => s.receive p (fun s => s.arriveRx p)
  | 0x06 => s.receive p (fun s => s.breakRx p)
  | 0x07 => s.releaseRx p input
  | 0x08 => s.receive p (fun s => s.rereqRx p)
  | 0x09 => s.receive p (fun s => s.abortRx p)
  | 0x0A => s.receive p (fun s => (0, s))
  | 0x0B => s.receive p (fun s => s.hbmWriteRx p)
  | _ => s.count blkFAB 0x02F0

/-- A packet of one type that reaches this device; a device that has stopped takes none (R379). -/
def State.arrive (s : State) (typ : Nat) (p : Packet) : State := if s.stopped || p.typ.toNat ≠ typ then s else s.deliver p

/-- PUT_PACKET_RX (R175). -/
def execPutPacketRx (p : Packet) (s : State) : Host.Outcome State Fault Refusal := .next (s.arrive 0x01 p)
/-- RSIGNAL_RX (R204). -/
def execRsignalRx (p : SyncRx) (s : State) : Host.Outcome State Fault Refusal := .next ((s.objFails p.fail).arrive 0x03 p.pkt)
/-- RSIG_DONE_RX (R207). -/
def execRsigDoneRx (p : SyncRx) (s : State) : Host.Outcome State Fault Refusal := .next ((s.objFails p.fail).arrive 0x04 p.pkt)
/-- BAR_ARRIVE_RX (R202). -/
def execBarArriveRx (p : SyncRx) (s : State) : Host.Outcome State Fault Refusal := .next ((s.objFails p.fail).arrive 0x05 p.pkt)
/-- BAR_BREAK_RX (R203). -/
def execBarBreakRx (p : SyncRx) (s : State) : Host.Outcome State Fault Refusal := .next ((s.objFails p.fail).arrive 0x06 p.pkt)
/-- BAR_RELEASE_RX (R202). -/
def execBarReleaseRx (p : SyncRx) (s : State) : Host.Outcome State Fault Refusal := .next ((s.objFails p.fail).arrive 0x07 p.pkt)
/-- RIM_REREQ (R115). -/
def execRimRereq (p : Packet) (s : State) : Host.Outcome State Fault Refusal := .next (s.arrive 0x08 p)
/-- RIM_ABORT (R114). -/
def execRimAbort (p : Packet) (s : State) : Host.Outcome State Fault Refusal := .next (s.arrive 0x09 p)
/-- HBM_WRITE (R387). -/
def execHbmWrite (p : Packet) (s : State) : Host.Outcome State Fault Refusal := .next (s.arrive 0x0B p)
/-- ACK (R257): the flag of a PUT that completes may fail its check. -/
def execAck (p : SyncRx) (s : State) : Host.Outcome State Fault Refusal := .next ((s.objFails p.fail).arrive 0x02 p.pkt)

/-- The outstanding packet with a destination and a sequence number. -/
def State.outPkt? (s : State) (dst pseq : BitVec 16) : Option OutPkt := s.fab.outst.find? (fun o => o.pkt.dst = dst && o.pkt.pseq = pseq)

/-- PUT_RETRY_TIMER (R183): a packet answered RETRY_LATER goes again. -/
def execPutRetryTimer (dst pseq : BitVec 16) (s : State) : Host.Outcome State Fault Refusal :=
  .next (match s.outPkt? dst pseq with
    | some o => if s.stopped || !o.retry then s else s.resend o false
    | none => s)

/-- E2E_RETRANSMIT_TIMER (R264): 100 µs after the last transmission; a packet that still waits to be injected has not been transmitted. -/
def execE2eRetransmitTimer (dst pseq : BitVec 16) (s : State) : Host.Outcome State Fault Refusal :=
  .next (match s.outPkt? dst pseq with
    | some o =>
      if s.stopped || o.retry || s.toInject o then s
      else if 8 ≤ o.sends then s.e2eFail o
      else (s.resend o true).count blkFAB 0x02D0
    | none => s)

/-- REASM_ENTRY_RELEASE (R265). -/
def execReasmEntryRelease (src : BitVec 16) (s : State) : Host.Outcome State Fault Refusal :=
  .next (if s.stopped then s else { s with fab := { s.fab with reasm := s.fab.reasm.filter (fun e => e.src ≠ src) } })

end Sys2Proof.Machine
end

