-- ==== Sys2Proof/Machine/Hkp.lean ====
section
/-! DEFINITION. The housekeeping island (15_housekeeping_management): thermal and power control (R404 to R408), barometer snapshots (R409 to R411), ageing (R412), the almanac's timers and writes (R415), patrol scrub (R401), and the power settings (R408). -/

namespace Sys2Proof.Machine

/-! Thermal and power control (R404 to R407) -/

/-- A reading as it counts: none, or one outside −40 °C to 150 °C, is 150 °C and a failure (R404). -/
def readingOf (t : Option Int) : Int × Bool :=
  match t with
  | some v => if -400 ≤ v ∧ v ≤ 1500 then (v, false) else (1500, true)
  | none => (1500, true)

/-- The power cap in force (R408). -/
def State.binCap (s : State) : Nat := if s.fuses.binL then 650 else 850
def State.cap (s : State) : Nat :=
  let c := fld (s.reg blkPWR 0x0200) 0 16
  if c = 0 then s.binCap else c

/-- The promise of R344 lost by the step that each partition runs for a context holding TIMING_EXACT. -/
def State.losePromise (s : State) (hit : Ctx → Bool) : State :=
  forAll (List.finRange 4) (fun p s =>
    match s.parts[p].running with
    | some i => s.modCtx i (fun x => if bit x.attr 0 && hit x then
        { x with queue := x.queue.map (fun (w : Work) => if w.task || w.st = WState.queued then w else { w with lost := true }) } else x)
    | none => s) s

/-- A throttle step to a level (R406). -/
def State.throttleTo (s : State) (l : Nat) : State :=
  let from_ := s.hkp.level
  let s : State := { s with hkp := { s.hkp with level := l } }
  let s := ((s.raiseVec 66).stick blkPWR 0x0210 1).count blkPWR 0x0218
  let s := s.losePromise (fun _ => true)
  if from_ = 0 then s.almEvent 1 else s

/-- The sensor with the highest reading, and the reading in whole degrees. Which of equal sensors it names, and to which side a tenth of a
degree is rounded, the free value decides (log entry 3). -/
def hottestOf (temps : List Int) (v : Word) : Nat × Int :=
  let top := temps.foldl max (-400)
  let ties := (List.range temps.length).filter (fun i => temps.getD i 0 = top)
  (ties.getD (v.toNat % max 1 ties.length) 0, if top % 10 = 0 || !bit v 63 then top / 10 else top / 10 + 1)

/-- SENSOR_SAMPLE (R404, R406, R407, R413, R428). -/
def execSensorSample (x : Sample) (s : State) : Host.Outcome State Fault Refusal :=
  .next (
    if !s.stbyOn then s
    else
      let rd := x.temps.map readingOf
      let temps := rd.map (·.1)
      let before := s.hkp.temps
      let s := if rd.any (·.2) then (s.stick blkPWR 0x0210 4).record blkPWR .none 0x0C01 else s
      let (v, s) := s.draw
      let hottest := temps.foldl max (-400)
      let (which, degC) := hottestOf temps v
      let power := x.powerW.toNat
      -- totals
      let hot := s.hkp.wasHot || decide (850 < hottest)
      let cycle := hot && decide (hottest < 450)
      let t := s.hkp.totals
      let s : State := { s with hkp := { s.hkp with
        temps := temps, hottest := which, hotC := degC, powerW := power, wasHot := hot && !cycle
        sumW := s.hkp.sumW + power, nW := s.hkp.nW + 1, maxT := if s.hkp.nW = 0 then temps else s.hkp.maxT.zipWith max temps
        sumT := if s.hkp.nT = 0 then temps else s.hkp.sumT.zipWith (· + ·) temps, nT := s.hkp.nT + 1
        totals := { t with peak := clamp8 (max t.peak degC), cycles := if cycle then t.cycles + 1 else t.cycles }
        therm := if temps.any (fun v => decide (950 ≤ v)) then true else if temps.all (fun v => decide (v < 900)) then false else s.hkp.therm } }
      let s := s.setReg blkPWR 0x0238 (x.rails.setWidth 64)
      let s := if s.hkp.level = 0 then s else s.count blkPWR 0x0220 10
      -- the throttle level
      let above := if s.cap < power then s.hkp.overCap + 1 else 0
      let wait := s.hkp.riseWait - 1
      let calm := if temps.all (fun v => decide (v < 880)) && decide (power * 100 ≤ 95 * s.cap) then s.hkp.calm + 1 else 0
      let rise := (temps.any (fun v => decide (920 ≤ v)) || decide (3 ≤ above)) && decide (s.hkp.level < 7) && decide (wait = 0)
      let s : State := { s with hkp := { s.hkp with overCap := above, riseWait := if rise then 10 else wait, calm := calm } }
      let s := if rise then s.throttleTo (s.hkp.level + 1) else s
      -- rails and trip
      let bad := ~~~ x.rails &&& 0x1FF#11
      let rail := s.pwr.pwrOk && decide (bad &&& s.hkp.railBad ≠ 0)
      let s : State := { s with hkp := { s.hkp with railBad := if s.pwr.pwrOk then bad else 0 } }
      let s := if rail then ((s.stick blkPWR 0x0230 2).stopDevice blkPWR 0x0C04) else s
      let trip := (temps.zip before).any (fun v => decide (1050 ≤ v.1) && decide (1050 ≤ v.2))
      if trip && !bit (s.reg blkPWR 0x0210) 1 then (s.stick blkPWR 0x0210 2).stopDevice blkPWR 0x0C02 else s)

/-- THROTTLE_FALL (R406): 1 ms, 100 samples, of calm have passed. -/
def execThrottleFall (s : State) : Host.Outcome State Fault Refusal :=
  .next (if s.hkp.level = 0 || decide (s.hkp.calm < 100) then s
    else ({ s with hkp := { s.hkp with calm := 0 } } : State).throttleTo (s.hkp.level - 1))

/-! Power settings (R408) -/

/-- A setting of PWR_CFG: refused with CFG_BAD outside its ranges. -/
def State.setPwrCfg (s : State) (capW mhz : Nat) (mgt : Bool) : Bool × State :=
  let capOk := decide (capW = 0) || (decide (400 ≤ capW) && decide (capW ≤ s.binCap))
  let mhzOk := decide (mhz = 0) || (decide (100 ≤ mhz) && decide (mhz ≤ s.binMHz) && decide (mhz % 25 = 0))
  if capOk && mhzOk then
    let v : Word := BitVec.ofNat 64 (capW + put mhz 16 16 + put (b2n mgt) 32 1)
    (true, (s.setReg blkPWR 0x0200 v).losePromise (fun x => decide ((x.pwrCfg.map (fun w => fld w 0 32)) ≠ some (fld v 0 32))))
  else (false, s.stick blkPWR 0x0210 8)

/-- PWR_CFG_WRITE (R408): the host driver's write. -/
def execPwrCfgWrite (v : Word) (s : State) : Host.Outcome State Fault Refusal :=
  .next (s.setPwrCfg (fld v 0 16) (fld v 16 16) false).2

/-! Barometer (R409 to R411) -/

/-- A counter summed over the instances of its block. -/
def State.sumReg (s : State) (blk off n : Nat) : Nat := ((List.range n).map (fun i => (s.reg blk off i).toNat)).sum

/-- The counters that a snapshot's deltas come from, in the order of Table 15.4, with the bytes of each field. -/
def State.latchList (s : State) : List (Nat × Nat) :=
  (List.range 4).map (fun p => (8, (s.reg blkRIM 0x0248 p).toNat + (s.reg blkRIM 0x0250 p).toNat))
    ++ [(8, s.sumReg blkHBM 0x0218 6), (8, s.sumReg blkHBM 0x0220 6), (8, (s.reg blkVCL 0x0260).toNat), (8, (s.reg blkVCL 0x0268).toNat)]
    ++ allCores.map (fun c => (4, (s.reg (blkCore c) 0x0950).toNat))
    ++ allCores.map (fun c => (4, (s.reg (blkCore c) 0x0958).toNat))
    ++ [(8, s.sumReg blkFAB 0x0270 8), (8, s.sumReg blkFAB 0x0278 8)]
    ++ [(4, (s.reg blkHKP 0xF000 0).toNat), (4, (s.reg blkHKP 0xF000 1).toNat), (2, (s.reg blkHKP 0xF000 2).toNat), (2, (s.reg blkHKP 0xF000 3).toNat)]
    ++ [(4, (s.reg blkCTL 0x0440).toNat)]

/-- A snapshot (Table 15.4). -/
def State.snapshot (s : State) (powerMw : BitVec 32) (temps : List Int) : Bytes :=
  let now := s.latchList
  let deltas := now.zipIdx.flatMap (fun (p, i) => toLe p.1 (p.2 - s.hkp.latched.getD i 0))
  let flags := b2n (s.time.locked || s.time.root) + 2 * b2n (!s.twin.seated.isEmpty) + 4 * b2n s.hkp.therm
  toLe 8 s.hkp.seq ++ toLe 8 s.podTime.toNat ++ toLe 4 powerMw.toNat ++ [BitVec.ofNat 8 s.hkp.level, BitVec.ofNat 8 flags]
    ++ toLe 2 s.arrayMHz ++ (List.range 34).map (fun i => BitVec.ofInt 8 (clamp8 (temps.getD i 0))) ++ toLe 6 0 ++ deltas ++ List.replicate 224 0

/-- A copy that failed or could not be sent (R411). -/
def State.baroLost (s : State) : State := (s.count blkHKP 0x0220).stick blkHKP 0x0240 4

/-- A snapshot copied to the ring's next entry, after the copy or the TELEMETRY_CFG under way; lost while VCL is not UP (R411). -/
def State.baroCopy (s : State) (r : BaroRing) (bs : Bytes) : State :=
  if r.busy || s.hkp.newRing.isSome then { s with hkp := { s.hkp with ring := some { r with waiting := r.waiting ++ [bs] } } }
  else if s.vcl.st = .up then
    let a := r.base + 64 + 512 * (r.written % r.entries)
    (({ s with hkp := { s.hkp with ring := some { r with busy := true } } } : State).pokeN a bs).obinhaReq .snapshot true false a 512
  else s.baroLost

/-- The snapshot's entry is visible: WRITTEN rises and is written (R411). -/
def State.baroWritten (s : State) : State :=
  match s.hkp.ring with
  | some r =>
    let s : State := { s with hkp := { s.hkp with ring := some { r with written := r.written + 1 } } }
    s.obinhaReq .snapHead false true r.base 64
  | none => s

/-- The mean power since the last snapshot in mW and the highest readings in whole degrees (Table 15.4), from the samples; where there was none,
as the command brings them (log entry 110). -/
def State.gathered (s : State) (powerMw : BitVec 32) (temps : List Int) : BitVec 32 × List Int × State :=
  if s.hkp.nW = 0 then (powerMw, temps, s)
  else
    let (v, t) := s.draw
    let deg := fun (x : Int) => if x % 10 = 0 || !bit v 63 then x / 10 else x / 10 + 1
    (BitVec.ofNat 32 (1000 * s.hkp.sumW / s.hkp.nW), s.hkp.maxT.map deg, { t with hkp := { t.hkp with sumW := 0, nW := 0, maxT := [] } })

/-- BAROMETER_LATCH (R409 to R411). -/
def execBarometerLatch (powerMw : BitVec 32) (temps : List Int) (s : State) : Host.Outcome State Fault Refusal :=
  .next (
    if s.pwr.stage < 2 then s
    else
      let (powerMw, temps, s) := s.gathered powerMw temps
      let bs := s.snapshot powerMw temps
      let s := s.setReg blkHKP 0x0218 (BitVec.ofNat 64 s.hkp.seq)
      let s : State := { s with hkp := { s.hkp with
        snaps := (bs :: s.hkp.snaps).take 16, seq := s.hkp.seq + 1, latched := s.latchList.map (·.2) } }
      match s.hkp.ring with
      | none => s
      | some r =>
        let due := decide (r.period ≤ r.since + 1)
        let s : State := { s with hkp := { s.hkp with ring := some { r with since := if due then 0 else r.since + 1 } } }
        if due then s.baroCopy r bs else s)

/-! Ageing, almanac, scrub -/

/-- Nominal supply of an island in millivolts (R426): the management island is the last of the 28. -/
def nominalMv (i : Nat) : Nat := if i = 27 then 800 else 750

/-- An island's mean reading over the second. -/
def State.meanTemp (s : State) (temps : List Int) (i : Nat) : Int := if s.hkp.nT = 0 then temps.getD i 0 else s.hkp.sumT.getD i 0 / s.hkp.nT

/-- The largest whole number whose n-th power is at most `x`, of at most `b` bits. -/
def rootFloor (n x : Nat) : Nat → Nat → Nat
  | 0, r => r
  | b + 1, r => rootFloor n x b (if (r + 2 ^ b) ^ n ≤ x then r + 2 ^ b else r)

/-- R412's factor 2^((t - 55)/10) × (v / v_nom)^4 in units of 2^-32 s, rounded down (log entry 9): `t` in tenths of a degree, the volts in millivolts. -/
def ageFactor (t : Int) (mv nom : Nat) : Nat :=
  let x := 2 ^ (t - 550 + 3200).toNat * mv ^ 400 / nom ^ 400
  rootFloor 100 x (Nat.log2 x / 100 + 1) 0

/-- AGEING_TICK (R412, R413): once per second, of the mean of the second's samples, or of the readings it brings where there was none. -/
def execAgeingTick (temps : List Int) (volts : List Nat) (s : State) : Host.Outcome State Fault Refusal :=
  .next (
    if !s.stbyOn then s
    else
      let age := Vector.ofFn (fun (i : Fin 28) =>
        min (2 ^ 96 - 1) (s.hkp.age[i] + ageFactor (s.meanTemp temps i.val) (volts.getD i.val 0) (nominalMv i.val)))
      let t := s.hkp.totals
      { s with hkp := { s.hkp with age := age, sumT := [], nT := 0, totals := { t with powerOnS := if s.pwr.pwrOk then t.powerOnS + 1 else t.powerOnS } } })

/-- ALMANAC_HOURLY (R400, R415). -/
def execAlmanacHourly (s : State) : Host.Outcome State Fault Refusal := .next (if s.stbyOn then s.almEvent 0 else s)

/-- ALMANAC_HOLD_EXPIRY (R415): the 10 s after a write have ended; a held event is written. -/
def execAlmanacHoldExpiry (s : State) : Host.Outcome State Fault Refusal :=
  .next (
    if !s.hkp.almHot then s else ({ s with hkp := { s.hkp with almHot := false } } : State).almServe)

/-- ALMANAC_WRITE_DONE (R415): a failed read-back goes to the next position; after three the write is given up. -/
def execAlmanacWriteDone (ok : Bool) (s : State) : Host.Outcome State Fault Refusal :=
  .next (
    match s.hkp.almWrite with
    | none => s
    | some w =>
      let s : State :=
        if ok then { s with hkp := { s.hkp with
          alm := insertAt (almErased (w.tried ++ [w.pos]) s.hkp.alm) w.pos w.record, almPos := w.pos, almSeq := leAt w.record 8 8, almUtc := leAt w.record 16 8, almWrite := none } }
        else if w.fails = 2 then
          (({ s with hkp := { s.hkp with almWrite := none, almPos := w.pos, alm := almErased (w.tried ++ [w.pos]) s.hkp.alm } } : State).stick blkHKP 0x0240 1).record blkHKP .none 0x0A01
        else
          { s with hkp := { s.hkp with almWrite := some { w with pos := almNext w.pos, fails := w.fails + 1, tried := w.tried ++ [w.pos] } } }
      s.almServe)

/-- SCRUB_BLOCK (R401, R402, R377): the next block of 512 B is read in ascending order; its corrected lines are counted and its
unreadable lines recorded and left. -/
def execScrubBlock (errs : List LineErr) (s : State) : Host.Outcome State Fault Refusal :=
  .next (
    if s.stopped || decide (s.pwr.stage < 6) then s
    else
      let b := s.hkp.scrub
      let s := forAll (s.errsAt errs (512 * b) 512) (fun e s => s.lineErr e true) s
      let wraps := decide (hbmEnd / 512 ≤ b + 1)
      let s : State := { s with hkp := { s.hkp with scrub := if wraps then 0 else b + 1 } }
      if wraps then s.count blkHKP 0x0210 else s)

end Sys2Proof.Machine
end

