-- ==== Sys2Proof/Machine/Links.lean ====
section
/-! DEFINITION. The fabric and twin links (09_fabric): roles and ports (R246, R455), states (R247), flits and replay (R249, R250), the handshake and rekeying (R252, R253), HELLO (R268), link adaptation (R403), and the time tree (R269, R270). -/

namespace Sys2Proof.Machine

/-! Roles and ports (R246, R455) -/

/-- A bank's port that names a link. -/
def RBank.portOf (b : RBank) (l : Nat) : Option (Nat × PortEnt) :=
  (b.ports.zipIdx.find? (fun p => p.1.valid && l < 18 && bit p.1.links l)).map (fun p => (p.2, p.1))

/-- Whether a link is in the port map of a live bank. -/
def State.isGeneral (s : State) (l : Nat) : Bool := s.fab.banks.toList.any (fun b => b.live && (b.portOf l).isSome)

/-- The partition in whose rim a link is a port's link, and whether the port is the counter-clockwise one. -/
def State.rimPort (s : State) (l : Nat) : Option (Fin 4 × Bool) :=
  if 18 ≤ l then none
  else (List.finRange 4).findSome? (fun p =>
    if s.rims[p].phase = .none then none
    else if bit s.rims[p].cw l then some (p, false) else if bit s.rims[p].ccw l then some (p, true) else none)

/-- ROLE of a link: 0 general, 1 rim, 2 rim-reserved, 3 twin (R455). -/
def State.role (s : State) (l : Nat) : Nat :=
  if 18 ≤ l then 3 else if s.isGeneral l then 0 else if (s.rimPort l).isSome then 1 else 2

/-- PORT and DIR of a link in the injection bank's port map (R455). -/
def State.portDir (s : State) (l : Nat) : Nat × Nat :=
  match (s.fab.banks[s.fab.inj]).portOf l with
  | some (n, e) => (n, e.dir.toNat)
  | none => (0, 7)

/-! Receive buffers and flow control (R104, R249, R262) -/

/-- The bytes of the frame or packet at the front of a KIND's bytes: 0 for the fill after the last one of a flit. -/
def unitLen (kind : Nat) (b : Bytes) : Nat :=
  if zeroAt b 0 16 then 0 else if kind = 5 then (16 + leAt b 0 4 + 15) / 16 * 16 else 16 + 64 * (leAt b 6 2 % 64 + 1)

/-- The fill at the front of some bytes dropped, in units of 16 B. -/
def dropFill (b : Bytes) : Bytes :=
  let rec go : Nat → Bytes → Bytes
    | 0, b => b
    | n + 1, b => if b ≠ [] && zeroAt b 0 16 then go n (b.drop 16) else b
  go (b.length / 16 + 1) b

/-- Whether bytes end within a frame or packet. -/
def cutShort (kind : Nat) (b : Bytes) : Bool :=
  let rec go : Nat → Bytes → Bool
    | 0, b => !b.isEmpty
    | n + 1, b =>
      if b.isEmpty then false
      else let m := unitLen kind b
           if m = 0 then go n (b.drop 16) else decide (b.length < m) || go n (b.drop m)
  go (b.length / 16 + 1) b

/-- What a link's receive buffer of a KIND holds: what nothing has taken yet, and on a general link the packets that wait in the router. -/
def State.heldRx (s : State) (l : Fin 20) (kind : Nat) : Nat :=
  (mget (fun _ => []) s.links[l].rxStream kind).length
    + ((s.fab.queue.filter (fun r => r.input = some l && r.kind = kind)).map (fun r => 16 + r.pkt.payload.length)).sum

/-- Flow control that a receive buffer signals: OFF from 32 KiB on, ON again from 16 KiB down (R104, R262). On a link that is not
general the bit for KIND 5 stands in place 0 (R249). -/
def Link.flow (k : Link) (kind held : Nat) : Link :=
  let b : Nat := if kind = 5 then 0 else kind
  if 32768 ≤ held then { k with fcOut := k.fcOut &&& ~~~ (1#5 <<< b) }
  else if held ≤ 16384 then { k with fcOut := k.fcOut ||| (1#5 <<< b) }
  else k

/-- The KINDs that a link carries besides control (Table 9.1). -/
def State.kinds (s : State) (l : Fin 20) : List Nat := if s.isGeneral l.val then [0, 1, 2, 3, 4] else [5]

/-- The flow control of a link in UP signalled anew from what its buffers hold. -/
def State.reflow (s : State) (l : Fin 20) : State :=
  if s.links[l].st = .up then (forAll (s.kinds l) (fun k s => s.modLink l (fun d => d.flow k (s.heldRx l k))) s).pumpLink l false else s

/-- Links whose role has become general, or no longer is, signal every KIND of the new role anew (R249, R258, R262). -/
def State.refit (s old : State) : State :=
  forAll (List.finRange 20) (fun l s =>
    if s.isGeneral l.val = old.isGeneral l.val || s.links[l].st ≠ .up then s
    else (s.modLink l (fun k => { k with fcOut := if s.isGeneral l.val then 0x1F else 1 })).reflow l) s

/-- Bytes of a flit taken into a link's receive buffer: where no frame or packet is open, from the unit in which the first begins (R249). -/
def State.rxFill (s : State) (l : Fin 20) (kind : Nat) (start : Option Nat) (bs : Bytes) : State :=
  (s.modLink l (fun k =>
    let old := mget (fun _ => []) k.rxStream kind
    let new := if old.isEmpty then (match start with
      | some u => bs.drop (16 * u)
      | none => []) else bs
    { k with rxStream := mset (fun _ => []) k.rxStream kind (old ++ new) })).reflow l

/-- A frame or packet taken out of a link's receive buffer, with the fill that follows it. -/
def State.rxTake (s : State) (l : Fin 20) (kind n : Nat) : State :=
  s.modLink l (fun k => { k with rxStream := mset (fun _ => []) k.rxStream kind (dropFill ((mget (fun _ => []) k.rxStream kind).drop n)) })
def State.rxDrain (s : State) (l : Fin 20) (kind n : Nat) : State := (s.rxTake l kind n).reflow l

/-! Control messages -/

/-- The HELLO of a link (Table 9.9). -/
def State.sendHello (s : State) (l : Fin 20) : State :=
  let b := s.fab.banks[s.fab.inj]
  let twin := if s.twin.st = .unpaired || s.twin.st = .pairing then 0 else s.twin.partner.toNat
  (s.send (.ctl l.val "HELLO" [l.val, s.role l.val, 0x11, s.fuses.serial.toNat, twin, b.ownEp.toNat, b.ownCoord.toNat])).sendMsg l false
    [[0x03, BitVec.ofNat 8 l.val, BitVec.ofNat 8 (s.role l.val), 0x11] ++ toLe 8 s.fuses.serial.toNat ++ toLe 8 twin
      ++ toLe 2 b.ownEp.toNat ++ toLe 2 b.ownCoord.toNat]

/-! The time tree (R269) -/

/-- The order of paths: priority, then serial, then distance, then link. -/
def pathKey (a : Advert) (l : Nat) : Nat := ((a.prio.toNat * 2 ^ 64 + a.serial.toNat) * 2 ^ 32 + a.dist) * 32 + l

/-- The parent chosen, or root, from the advertisements of links in UP (R269): no advertisement beats a root's own priority and serial, a path back
to itself being no better; a new parent's exchanges are counted afresh. -/
def State.chooseParent (s : State) : State :=
  let own := s.fab.banks[s.fab.inj].prio.toNat * 2 ^ 64 + s.fuses.serial.toNat
  let up := s.time.adverts.filter (fun a => (s.links[a.1]?.map (·.st)) = some .up)
  let root := up.all (fun a => decide (own ≤ a.2.1.prio.toNat * 2 ^ 64 + a.2.1.serial.toNat))
  let t := s.time
  let t' : TimeTree :=
    if root then { t with root := true, parent := none, rootSerial := s.fuses.serial, prio := s.fab.banks[s.fab.inj].prio, depth := 0, locked := false }
    else match minBy (fun (a : Nat × (Advert × Word)) => pathKey a.2.1 a.1) up with
      | some (l, (a, _)) =>
        let same := t.parent.map (·.val) = some l
        { t with root := false, parent := some (Fin.ofNat 20 l), rootSerial := a.serial, prio := s.fab.banks[s.fab.inj].prio, depth := min (a.dist + 1) 0xFF
                 good := if same then t.good else 0, bad := if same then t.bad else 0 }
      | none => { t with root := false, parent := none, depth := 0xFF }
  let s : State := { s with time := t' }
  if root then { s with pwr := { s.pwr with timePending := false } } else s

/-! Losing and gaining UP (R247, R123) -/

/-- Whether a direction of a rim port has a link in UP. -/
def State.rimAlive (s : State) (m : BitVec 18) : Bool := (List.finRange 20).any (fun l => decide (l.val < 18) && bit m l.val && s.links[l].st = .up)

/-- The partition fault of a rim port whose links of one direction are all lost during a run (R123). -/
def State.checkPorts (s : State) (l : Fin 20) : State :=
  match s.rimPort l.val with
  | some (p, _) =>
    let r := s.rims[p]
    if r.phase = .formed && r.run.isSome && s.parts[p].running.isSome && !(s.rimAlive r.cw && s.rimAlive r.ccw) then s.partFault p blkRIM 0x0406
    else s
  | none => s

/-- A link's state set; a change raises vector 65 (Table 11.5). -/
def State.setLink (s : State) (l : Fin 20) (st : LinkSt) : State :=
  if s.links[l].st = st then s else (s.modLink l (fun k => { k with st := st })).raiseVec 65

/-- A discarded frame (R255). -/
def State.frameBad (s : State) (p : Fin 4) : State :=
  ((s.stick blkRIM 0x0240 (2 ^ 13) p.val).count blkRIM 0x0298 1 p.val).record blkRIM .c 0x040A

/-- Multicast copies lost at once (R266): each is counted, and one error is recorded for all of them (DESIGN CHOICE, log entry 125). -/
def State.mcastLost (s : State) (n : Nat) : State :=
  if n = 0 then s else ((s.stick blkFAB 0x0208 (2 ^ 7)).count blkFAB 0x0300 n).record blkFAB .none 0x0308

/-- The multicast copies that a link has sent with no ACK, or that wait on it. -/
def Link.copies (k : Link) : Nat :=
  (k.replay.map (·.2)).sum + (k.txQ.map (fun q => (q.2.filter (·.mcast)).length)).sum

/-- What a link holds for its partner is lost when it leaves UP or its handshake: keys, sequence numbers, what waits and what has come (R247). -/
def Link.cleared (k : Link) : Link :=
  { st := k.st, returned := k.returned, retrains := k.retrains, partner := k.partner, helloAt := k.helloAt }

/-- A link that fails before UP goes to DOWN and waits for its retry; one that loses UP trains again at once (R247). A rim frame that it cuts short counts
as bad (R255), and the multicast copies on it are lost (R266). -/
def State.linkFails (s : State) (l : Fin 20) : State :=
  match s.links[l].st with
  | .up =>
    let s := match s.rimPort l.val with
      | some (p, _) => if cutShort 5 (mget (fun _ => []) s.links[l].rxStream 5) then s.frameBad p else s
      | none => s
    let s := s.mcastLost s.links[l].copies
    let s := s.modLink l (fun k => { k.cleared with returned := true, retrains := if k.retrains = 255 then 255 else k.retrains + 1 })
    let s := ((s.setLink l .train).stick blkFAB 0x0208 4).record blkFAB .none 0x0302
    let s : State := { s.linkErr1 with time := { s.time with adverts := erase s.time.adverts l.val } }
    let s := if s.time.parent = some l then s.chooseParent else s
    s.checkPorts l
  | .train | .hello | .keyx => (s.modLink l (fun k => { k.cleared with returned := true })).setLink l .down
  | _ => s

/-- LINK_LOSS_OF_SIGNAL (R247). -/
def execLinkLossOfSignal (l : Fin 20) (s : State) : Host.Outcome State Fault Refusal := .next (s.linkFails l)

/-- LINK_RETRY_TIMER (R247): from the bring-up stage of links on. -/
def execLinkRetryTimer (l : Fin 20) (s : State) : Host.Outcome State Fault Refusal :=
  .next (if s.links[l].st = .down && decide (6 ≤ s.pwr.stage) then s.setLink l .train else s)

/-- LINK_TRAIN_DONE (R247): the link enters HELLO and sends one. -/
def execLinkTrainDone (l : Fin 20) (s : State) : Host.Outcome State Fault Refusal :=
  .next (if s.links[l].st = .train then (s.setLink l .hello).sendHello l else s)

/-- LINK_STATE_TIMEOUT (R247). -/
def execLinkStateTimeout (l : Fin 20) (s : State) : Host.Outcome State Fault Refusal :=
  .next (if s.links[l].st = .up then s else s.linkFails l)

/-- The OFFER that a link sends on entering KEYX: a fresh P-521 key, a random value and this device's chain (R252). -/
def State.sendOffer (s : State) (l : Fin 20) : State :=
  let (bs, s) := s.random 16
  let key := p521Private (bs.drop 32)
  let o : Offer := ⟨p521Public key, bs.take 32, Config.certChain⟩
  let s := s.modLink l (fun k => { k with ephKey := key, own := some o, peer := none })
  (s.send (.ctl l.val "OFFER" [])).sendMsg l false (chunks 256 (0x06 :: o.pub ++ o.random ++ o.chain))

/-- HELLO (R247, R268): the partner's fields recorded; in UP another serial brings the link down. Without a readable chain (R356), or after a class D fault
(R379), no offer follows, and the link goes no further. -/
def execHello (l : Fin 20) (m : HelloMsg) (s : State) : Host.Outcome State Fault Refusal :=
  .next (
    let known := s.links[l].partner
    let note := fun (s : State) => s.modLink l (fun k => { k with partner := some m, helloAt := s.podTime })
    match s.links[l].st with
    | .hello => if s.stopped || s.sec.chainBad then (note s).setLink l .keyx else ((note s).setLink l .keyx).sendOffer l
    | .keyx => note s
    | .up => if (known.map (·.serial)) = some m.serial then note s else (note s).linkFails l
    | _ => s)

/-- HELLO_SEND_TIMER (R268): every 1 ms in HELLO, every 100 ms in UP. -/
def execHelloSendTimer (l : Fin 20) (s : State) : Host.Outcome State Fault Refusal :=
  .next (if s.links[l].st = .hello || s.links[l].st = .up then s.sendHello l else s)

/-- A failed check of the handshake (R252). -/
def State.handshakeFail (s : State) (l : Fin 20) : State := ((s.stick blkFAB 0x0208 8).record blkFAB .none 0x0303).linkFails l

/-- Whether this device's serial is lower than that of a link's partner. -/
def State.isLower (s : State) (l : Fin 20) : Bool :=
  match s.links[l].partner with
  | some m => decide (s.fuses.serial.toNat < m.serial.toNat)
  | none => false

/-- A value of both offers, that of the device with the lower serial first. -/
def Link.both (k : Link) (lower : Bool) (f : Offer → Bytes) : Bytes :=
  let mine := (k.own.map f).getD []
  let hers := (k.peer.map f).getD []
  if lower then mine ++ hers else hers ++ mine

/-- The PROOF that a link sends: a signature with the identity key over both offers (R252). -/
def State.sendProof (s : State) (l : Fin 20) : State :=
  let msg := s.links[l].both (s.isLower l) (fun o => o.pub ++ o.random ++ o.chain)
  (s.send (.ctl l.val "PROOF" [])).sendMsg l false (chunks 256 (0x07 :: ecdsaSign (derivedKey s.fuses.secret [] "vpz-devid") msg))

/-- OFFER (R252, R356): the partner's key, random value and certificate chain, with the verdict on the chain. -/
def execOffer (l : Fin 20) (m : OfferRx) (s : State) : Host.Outcome State Fault Refusal :=
  .next (
    if s.stopped || s.sec.chainBad || s.links[l].st ≠ .keyx then s
    else if m.chainOk then (s.modLink l (fun k => { k with peer := some ⟨m.pub, m.random, m.chain⟩ })).sendProof l
    else s.handshakeFail l)

/-- The link secret (R252). -/
def Link.newSecret (k : Link) (lower : Bool) : Bytes :=
  hkdf (k.both lower (·.random)) (p521Dh k.ephKey ((k.peer.map (·.pub)).getD [])) [] 64

/-- A link whose handshake is complete: new keys, sequence numbers and counts, its KINDs ON. -/
def Link.begun (k : Link) (lower general : Bool) : Link :=
  let secret := k.newSecret lower
  let t := linkKeys secret lower 0
  let r := linkKeys secret (!lower) 0
  { k.cleared with
    secret := secret, lower := lower, tx := { key := t.1, salt := t.2 }, rx := { key := r.1, salt := r.2 }, fcOut := if general then 0x1F else 1 }

/-- PROOF (R252): a signature with the identity key that the partner's chain names, over both offers; the link enters UP. -/
def execProof (l : Fin 20) (m : ProofRx) (s : State) : Host.Outcome State Fault Refusal :=
  .next (
    if s.stopped || s.sec.chainBad || s.links[l].st ≠ .keyx || s.links[l].peer.isNone then s
    else if ecdsaOk (Config.chainSubject ((s.links[l].peer.map (·.chain)).getD [])) (s.links[l].both (s.isLower l) (fun o => o.pub ++ o.random ++ o.chain)) m.sig then ((s.modLink l (fun k => k.begun (s.isLower l) (s.isGeneral l.val))).setLink l .up).pumpLink l false
    else s.handshakeFail l)

/-! Flits (R250) -/

/-- The flits of a replay buffer that an ACK does not cover. -/
def unacked (ack : BitVec 9) (l : List (Flit × Nat)) : List (Flit × Nat) :=
  if l.any (fun f => flitSeq f.1 = ack) then (l.dropWhile (fun f => flitSeq f.1 ≠ ack)).drop 1 else l

/-- The first failure of a run of flits: a RETRY naming the expected SEQ (R250). -/
def State.askRetry (s : State) (l : Fin 20) : State :=
  if s.links[l].badRun then s
  else (s.modLink l (fun k => { k with badRun := true })).sendCtl l "RETRY" [s.links[l].rxSeq.toNat]

/-- A failed flit counted (R250, R274). -/
def State.flitError (s : State) (l : Fin 20) (off : Nat) : State :=
  (((s.count blkFAB off 1 l.val).stick blkFAB 0x0208 1).record blkFAB .c 0x0301).linkErr1

/-- What a flit that passes its CRC tells: the partner's flow control and ACK (R249, R250). -/
def Link.heard (k : Link) (f : Flit) : Link :=
  let left := unacked (flitAck f) k.replay
  { k with fcIn := flitFc f, replay := left, resends := if left.length < k.replay.length then 0 else k.resends
           tx := k.tx.passed (k.txFlits - left.length) }

/-- A numbered flit taken in order (R250, R253). -/
def Link.took (k : Link) : Link := { k with rxSeq := k.rxSeq + 1, rxFlits := k.rxFlits + 1, badRun := false, rx := k.rx.passed (k.rxFlits + 1) }

/-- FLIT_RX (R250, R251): CRC, then SEQ and tag; what waits goes out as the ACK frees the replay buffer. -/
def execFlitRx (l : Fin 20) (f : Flit) (s : State) : Host.Outcome State Fault Refusal :=
  .next (
    if s.links[l].st ≠ .up then s
    else if !flitCrcOk f then (s.flitError l 0x0240).askRetry l
    else
      let s := s.modLink l (fun k => k.heard f)
      if flitKind f = 7 || flitSeq f ≠ s.links[l].rxSeq then s.pumpLink l false
      else if !s.links[l].tagOk f then
        let recent := s.links[l].tagFails.filter (fun t => decide ((s.podTime - t).toNat < 1000000000)) ++ [s.podTime]
        let s := (s.flitError l 0x0248).modLink l (fun k => { k with tagFails := recent })
        if 4 ≤ recent.length then s.linkFails l else s.askRetry l
      else
        let bs := s.links[l].plain f
        let s := (s.modLink l Link.took).count blkFAB 0x0230 1 l.val
        (if flitKind f = 6 then s else s.rxFill l (flitKind f) (flitStart f) bs).pumpLink l false)

/-- RETRY (R250): the stored flits resent from the named one, with current FC and ACK; after 16 resends without acknowledgement the link leaves UP
(R247). -/
def execRetry (l : Fin 20) (seq : BitVec 9) (s : State) : Host.Outcome State Fault Refusal :=
  .next (
    if s.links[l].st ≠ .up || !s.links[l].replay.any (fun f => flitSeq f.1 = seq) then s
    else
      let again := s.links[l].replay.dropWhile (fun f => flitSeq f.1 ≠ seq)
      let n := again.length
      let s := s.modLink l (fun k => { k with replay := again, resends := if n < k.replay.length then 1 else k.resends + 1 })
      let s := forAll again (fun f s => (s.send (.flit l.val (s.links[l].again f.1))).modLink l Link.showing) (s.count blkFAB 0x0238 n l.val)
      let s : State := match (s.fab.banks[s.fab.inj]).portOf l.val with
        | some (p, _) => s.count blkFAB 0x0288 n p
        | none => s
      if 16 ≤ s.links[l].resends then s.linkFails l else s)

/-- REKEY_START (R253): a REKEY waits for its slot (R254), unless one waits or the next key is set. -/
def execRekeyStart (l : Fin 20) (s : State) : Host.Outcome State Fault Refusal :=
  .next (if s.links[l].st ≠ .up || s.links[l].tx.next.isSome || s.links[l].ctlQ.any (fun c => c.2.isNone) then s
    else (s.modLink l (fun k => { k with ctlQ := k.ctlQ ++ [(false, none)] })).pumpLink l false)

/-- REKEY (R253): the next key of the other direction, from the switch count on. -/
def execRekey (l : Fin 20) (switchCount : BitVec 64) (s : State) : Host.Outcome State Fault Refusal :=
  .next (if s.links[l].st ≠ .up then s
    else (s.modLink l (fun k =>
      let d := linkKeys k.secret (!k.lower) (k.rx.index + 1)
      { k with rx := { k.rx with next := some (switchCount.toNat, d.1, d.2) } })).count blkFAB 0x0250 1 l.val)

/-! Time (R270) -/

/-- The path this device advertises. -/
def State.advert (s : State) : List Nat :=
  let t := s.time
  if t.root then [s.fab.banks[s.fab.inj].prio.toNat, s.fuses.serial.toNat, 0]
  else match t.parent.bind (fun l => look t.adverts l.val) with
    | some (a, _) => [a.prio.toNat, a.serial.toNat, a.dist + 1]
    | none => [s.fab.banks[s.fab.inj].prio.toNat, s.fuses.serial.toNat, 0]

/-- TIME_REQ_TIMER (R269, R270): every 100 µs a TIME_REQ on each link in UP; the parent's is the exchange. -/
def execTimeReqTimer (s : State) : Host.Outcome State Fault Refusal :=
  .next (
    if s.stopped || decide (s.pwr.stage < 8) then s
    else
      let s := s.chooseParent
      forAll (List.finRange 20) (fun l s => if s.links[l].st = .up then s.sendCtl l "TIME_REQ" (s.podTime.toNat :: s.advert) else s) s)

/-- TIME_REQ (R269, R270): the path noted, the parent chosen anew, the request answered with t2 and t3. -/
def execTimeReq (l : Fin 20) (t1 t2 t3 : BitVec 64) (adv : Advert) (s : State) : Host.Outcome State Fault Refusal :=
  .next (
    if s.links[l].st ≠ .up then s
    else
      let s : State := { s with time := { s.time with adverts := insertAt s.time.adverts l.val (adv, s.podTime) } }
      s.chooseParent.sendCtl l "TIME_RESP" [t1.toNat, t2.toNat, t3.toNat])

/-- The offset θ of an exchange; half a nanosecond falls to either side (log entry 3). -/
def thetaOf (t1 t2 t3 t4 : Word) (up : Bool) : Int :=
  let n := (t2 - t1).toInt + (t3 - t4).toInt
  if n % 2 = 0 then n / 2 else if up then n / 2 + 1 else n / 2

/-- The delay d of an exchange (R270); half a nanosecond is dropped (log entry 3). -/
def delayOf (t1 t2 t3 t4 : Word) : Int := ((t4 - t1).toInt - (t3 - t2).toInt) / 2

/-- The rate toward zero offset: forward while the parent is ahead, by an amount of at most 200 ppm that the spec does not state (log entry 3). -/
def steer (old th : Int) (amount : Nat) : Int := if th = 0 then max (-200000) (min 200000 old) else if 0 < th then (amount : Int) else -(amount : Int)

/-- TIME_RESP (R270): one step before the first lock, the rate steered by at most 200 ppm, lock and its loss after 16 exchanges. -/
def execTimeResp (l : Fin 20) (t1 t2 t3 t4 : BitVec 64) (s : State) : Host.Outcome State Fault Refusal :=
  .next (
    if s.links[l].st ≠ .up || s.time.parent ≠ some l then s
    else
      let (v, s) := s.draw
      let th := thetaOf t1 t2 t3 t4 (bit v 63)
      let t := s.time
      let jump := !t.locked && !t.stepped && decide (1000 < th.natAbs)
      let good := if th.natAbs < 8 then t.good + 1 else 0
      let bad := if 1000 < th.natAbs then t.bad + 1 else 0
      let lost := t.locked && decide (16 ≤ bad)
      let locked := !lost && (t.locked || decide (16 ≤ good))
      let s : State := { s with
        podTime := if jump then s.podTime + BitVec.ofInt 64 th else s.podTime
        time := { t with offset := max (-32767) (min 32767 th), rate := steer t.rate th (v.toNat % 200001), stepped := t.stepped || jump || locked
                         delay := delayOf t1 t2 t3 t4
                         good := good, bad := bad, locked := locked }
        pwr := { s.pwr with timePending := s.pwr.timePending && !locked } }
      if lost then (s.stick blkFAB 0x0208 (2 ^ 8)).record blkFAB .none 0x0309 else s)

/-! Link adaptation (R403) -/

/-- Whether a link, or VCL as link 20, is in UP and not rekeying. -/
def State.mayAdapt (s : State) (l : Fin 21) : Bool :=
  if h : l.val < 20 then
    let k := s.links[(⟨l.val, h⟩ : Fin 20)]
    k.st = .up && k.tx.next.isNone && k.rx.next.isNone
  else s.vcl.st = .up

/-- LINK_ADAPT_TICK (R403): the receiver equaliser is retuned, to a setting the spec does not state (log entry 3), and the partner is
asked to move its taps by one step. -/
def execLinkAdaptTick (l : Fin 21) (s : State) : Host.Outcome State Fault Refusal :=
  .next (
    if !s.mayAdapt l then s
    else
      let (v, s) := s.draw
      let old := mget (fun _ => 0) s.tune.setting l.val
      let s : State := { s with tune := { s.tune with
        trial := insertAt s.tune.trial l.val old, setting := mset (fun _ => 0) s.tune.setting l.val v.toInt } }
      if h : l.val < 20 then s.sendCtl ⟨l.val, h⟩ "ADAPT" [v.toNat % 2] else s.vclControl "ADAPT" [v.toNat % 2])

/-- ADAPT (R403): the transmitter's taps moved one step; they are kept beside the receiver settings, 32 places on. -/
def execAdapt (l : Fin 21) (up : Bool) (s : State) : Host.Outcome State Fault Refusal :=
  .next (
    if !s.mayAdapt l then s
    else
      let k := 32 + l.val
      let v : Int := mget (fun _ => 0) s.tune.setting k
      { s with tune := { s.tune with setting := mset (fun _ => 0) s.tune.setting k (if up then v + 1 else v - 1) } })

/-- ADAPT_EVALUATE (R403): a setting after which the corrected rate rose is given up for the one before. -/
def execAdaptEvaluate (l : Fin 21) (before after : Nat) (s : State) : Host.Outcome State Fault Refusal :=
  .next (
    match look s.tune.trial l.val with
    | some old =>
      let s : State := { s with tune := { s.tune with trial := erase s.tune.trial l.val } }
      if before < after then { s with tune := { s.tune with setting := mset (fun _ => 0) s.tune.setting l.val old } } else s
    | none => s)

end Sys2Proof.Machine
end

