-- ==== Sys2Proof/Machine/Rings.lean ====
section
/-! DEFINITION. The command interface (11_command_interface): doorbells and indices (R300), enabling and draining (R299, R303), the error state (R304), taking entries (R302, R305 to R309), the start of commands (R310, R311), interrupts of the rings (R313), and output buffers. -/

namespace Sys2Proof.Machine

/-- Whether Obinha takes and runs commands: bring-up has reached ready, the device has not stopped (READY),
and no main reset is being entered (R433). -/
def State.obinhaOn (s : State) : Bool := s.pwr.stage = 10 && !s.stopped && s.pwr.entering.isNone

/-! Rings -/

/-- A ring pair put in the error state (R300, R304). -/
def State.ringError (s : State) (r : Fin 64) (err b cause : Nat) : State :=
  (s.modRing r (fun g => { g with st := .error, err := BitVec.ofNat 4 err })).cmdSticky b cause

/-- SQ_DOORBELL (R300). -/
def execSqDoorbell (r : Fin 64) (v : Word) (s : State) : Host.Outcome State Fault Refusal :=
  .next (
    if s.stopped then s
    else if s.sqSize r ≤ v.toNat then s.ringError r 1 0 0x0001
    else s.modRing r (fun g => { g with sqTail := v.toNat }))

/-- CQ_DOORBELL (R300). -/
def execCqDoorbell (r : Fin 64) (v : Word) (s : State) : Host.Outcome State Fault Refusal :=
  .next (
    if s.stopped then s
    else if s.cqSize r ≤ v.toNat then s.ringError r 1 0 0x0001
    else s.modRing r (fun g => { g with cqHead := v.toNat }))

/-- The fields of CTL_RING_CFG that software writes (Table 11.11). -/
def ringCfgMask : Word := 0x8000FF37F3FFFFFF

/-- What a write leaves in CTL_RING_CFG: sizes and PRIO stay as they are while the pair is active (R299). -/
def State.writeRingCfg (s : State) (r : Fin 64) (cfg : Word) : State :=
  let keep : Word := if s.rings[r].st = .active then 0x3003FFFFFF else 0
  let old := s.reg blkCTL 0x0418 r.val
  s.setReg blkCTL 0x0418 ((cfg &&& ringCfgMask &&& ~~~ keep) ||| (old &&& keep)) r.val

/-- RING_ENABLE (R299): CTL_RING_CFG is written with ENABLE 1. A pair in the error state needs ENABLE 0 first (R304). -/
def execRingEnable (r : Fin 64) (cfg : Word) (s : State) : Host.Outcome State Fault Refusal :=
  .next (
    if s.stopped || !bit cfg 63 then s
    else
      let s := s.writeRingCfg r cfg
      if s.rings[r].st = .disabled then s.enableRing r else s)

/-- RING_DRAIN (R303): CTL_RING_CFG is written with ENABLE 0. -/
def execRingDrain (r : Fin 64) (cfg : Word) (s : State) : Host.Outcome State Fault Refusal :=
  .next (
    if s.stopped || bit cfg 63 then s
    else
      let s := s.writeRingCfg r cfg
      match s.rings[r].st with
      | .disabled => s
      | _ => (s.modRing r (fun g => { g with st := .draining })).drainRing r)

/-! Interrupts of the rings (R313) -/

/-- The vector of a ring. -/
def State.ringVec (s : State) (r : Fin 64) : Nat := fld (s.reg blkCTL 0x0418 r.val) 28 7
/-- COALESCE_US of a ring. -/
def State.coalesce (s : State) (r : Fin 64) : Nat := fld (s.reg blkCTL 0x0418 r.val) 40 8

/-- A completion entry has become visible (R312, R313): the ring's vector is raised at once, or when half of CQ_ENTRIES are new. A
VECTOR above 63 is no ring's. -/
def State.cqVisible (s : State) (r : Fin 64) : State :=
  let n := s.rings[r].unsent + 1
  let now := decide (s.coalesce r = 0) || decide (s.cqSize r ≤ 2 * n)
  let s := s.modRing r (fun g => { g with unsent := if now then 0 else n })
  if now && decide (s.ringVec r < 64) then s.raiseVec (s.ringVec r) else s

/-- COALESCE_TIMER (R313): the oldest new entry is COALESCE_US old. -/
def execCoalesceTimer (r : Fin 64) (s : State) : Host.Outcome State Fault Refusal :=
  .next (
    if s.stopped || s.coalesce r = 0 || s.rings[r].unsent = 0 then s
    else
      let s := s.modRing r (fun g => { g with unsent := 0 })
      if s.ringVec r < 64 then s.raiseVec (s.ringVec r) else s)

/-! Taking entries (R302, R308, R309) -/

/-- The opcodes of Table 11.4. -/
def opcodes : List Nat :=
  [0x01, 0x02, 0x03, 0x10, 0x11, 0x12, 0x20, 0x21, 0x22, 0x23, 0x24, 0x25, 0x30, 0x31, 0x32, 0x33, 0x34, 0x40, 0x41, 0x42, 0x43,
   0x50, 0x51, 0x52, 0x60, 0x61, 0x62, 0x70, 0x71, 0x72, 0x7F]

/-- The fields of a command's ARGS (Table 11.4): offset in the entry and size in bits; every other bit is reserved. -/
def argFields (op : Nat) : List (Nat × Nat) :=
  match op with
  | 0x10 => [(16, 8), (24, 64)]
  | 0x12 => [(16, 8)]
  | 0x20 => [(16, 8)]
  | 0x21 => [(16, 24)]
  | 0x22 => [(16, 24), (19, 1), (20, 16)]
  | 0x23 => [(16, 32)]
  | 0x24 => [(16, 24), (19, 1), (20, 16)]
  | 0x25 => [(16, 32), (24, 64)]
  | 0x30 => [(16, 56), (24, 6), (32, 128)]
  | 0x31 => [(16, 16)]
  | 0x32 => [(16, 16)]
  | 0x33 => [(16, 24)]
  | 0x34 => [(16, 16)]
  | 0x40 => [(16, 49), (24, 16), (32, 192)]
  | 0x41 => [(16, 16), (24, 16), (40, 64)]
  | 0x42 => [(16, 8)]
  | 0x43 => [(16, 16), (24, 64)]
  | 0x51 => [(16, 8), (24, 64)]
  | 0x60 => [(24, 64)]
  | 0x61 => [(16, 8)]
  | 0x62 => [(16, 32)]
  | 0x70 => [(16, 16)]
  | 0x72 => [(24, 128)]
  | 0x7F => [(16, 24), (20, 32)]
  | _ => []

/-- The reserved bits of a command's ARGS. -/
def argRsvd (op : Nat) : BitVec 384 :=
  ~~~ ((argFields op).foldl (fun m f => m ||| (BitVec.ofNat 384 (2 ^ f.2 - 1) <<< (8 * (f.1 - 16)))) 0#384)

/-- The range of BUF_LEN of a command (Table 11.4). The commands whose range depends on their arguments check it themselves. -/
def bufRange (op n : Nat) : Bool :=
  match op with
  | 0x02 => decide (256 ≤ n)
  | 0x03 => n = 144
  | 0x11 => decide (36 ≤ n) && decide (n ≤ 160) && n % 2 = 0
  | 0x20 => n = 420
  | 0x21 => n = 368
  | 0x22 => decide (0 < n)
  | 0x24 => decide (0 < n)
  | 0x30 => decide (16 ≤ n) && decide (n ≤ 128) && n % 16 = 0
  | 0x33 => true
  | 0x34 => decide (0 < n)
  | 0x42 => decide (24 ≤ n) && decide (n ≤ 2064) && n % 8 = 0
  | 0x50 => n = 131168
  | 0x52 => decide (640 ≤ n)
  | 0x70 => n = 0 || (decide (64 + 512 * 2 ≤ n) && decide (n ≤ 64 + 512 * 65536) && n % 512 = 64)
  | 0x71 => decide (4096 ≤ n)
  | _ => n = 0

/-- Whether a command reads its buffer before it starts. -/
def readsBuf (op : Nat) : Bool := [0x03, 0x11, 0x20, 0x21, 0x22, 0x24, 0x30, 0x34, 0x42, 0x50].contains op

/-- The order of R308: the status that refuses a taken entry, if any before the checks of its command. -/
def entryStatus (op flags : Nat) (buf : Word) (bufLen : BitVec 32) (args : BitVec 384) (bufOk : Bool) : Nat :=
  if !opcodes.contains op then stBadOpcode
  else if 4 ≤ flags || args &&& argRsvd op ≠ 0 || fld buf 0 6 ≠ 0 || (buf ≠ 0 && bufLen = 0) || !bufRange op bufLen.toNat then stInvalid
  else if readsBuf op && !bufOk then stHostIo
  else stOk

/-- A context's steps and tasks that have not completed, taken ones that have not started included (R311). -/
def State.workOf (s : State) (x : Nat) : Nat :=
  ((s.ctx? x).map (fun c => c.queue.length)).getD 0
    + (s.taken.filter (fun t => !t.begun && (t.opcode = 0x40 || t.opcode = 0x41) && fld t.args 0 16 = x)).length

/-- Whether an entry is a step or task of a context whose queue is full: it stays at the head of its ring (R311). -/
def State.queueFull (s : State) (x : Nat) : Bool := decide (16 ≤ s.workOf x)

/-- Whether Obinha can take an entry of a ring now (R302, R310, R311). -/
def State.ringReady (s : State) (r : Fin 64) : Bool :=
  let g := s.rings[r]
  let e := s.cqSize r
  g.st = .active && g.sqHead ≠ g.sqTail && decide (s.taken.length < 512)
    && decide ((g.cqTail + e - g.cqHead) % e + (s.taken.filter (fun t => t.ring = r)).length + 1 < e)
    && !((g.stalled.map s.queueFull).getD false)

/-- The ring that Obinha serves next (R309): a turn of up to 8 entries goes on; then PRIO decides, and among equals the order after the
ring served last. -/
def State.nextRing (s : State) : Option (Fin 64) :=
  if s.ringReady s.served && s.turn < 8 then some s.served
  else minBy (fun (r : Fin 64) => 64 * fld (s.reg blkCTL 0x0418 r.val) 36 2 + (r.val + 63 - s.served.val) % 64)
    ((List.finRange 64).filter s.ringReady)

/-- The turn after an attempt at a ring: it ends when the ring can give no more. -/
def State.endTurn (s : State) (r : Fin 64) : State := if s.ringReady r then s else { s with turn := 8 }

/-- ENTRY_TAKE (R302, R304, R308, R309): while VCL is UP, since the entry is read from host memory. The PART of a RIM_FORM, in its buffer, is the object that holds other commands back (R311). -/
def execEntryTake (r : Fin 64) (readOk : Bool) (entry : BitVec 512) (b : BufRead) (s : State) : Host.Outcome State Fault Refusal :=
  .next (
    if !s.obinhaOn || s.vcl.st ≠ .up || s.nextRing ≠ some r then s
    else
      let goes := s.served = r && s.turn < 8
      let s : State := { s with served := r, turn := if goes then s.turn else 0 }
      let op := fld entry 0 8
      let x := fld entry 128 16
      let at_ := hostBase + 4096 * fld (s.reg blkCTL 0x0408 r.val) 12 52 + 64 * s.rings[r].sqHead
      let s := if readOk then s.hostMoved false at_ 64 0 else s
      if !readOk then (s.hostFailed.ringError r 2 1 0x0002).endTurn r
      else if (op = 0x40 || op = 0x41) && s.queueFull x then (s.modRing r (fun g => { g with stalled := some x })).endTurn r
      else
        let flags := fld entry 8 8
        let buf : Word := BitVec.ofNat 64 (fld entry 64 64)
        let len : BitVec 32 := BitVec.ofNat 32 (fld entry 32 32)
        let args : BitVec 384 := BitVec.ofNat 384 (fld entry 128 384)
        let t : Taken := ⟨r, BitVec.ofNat 16 (fld entry 16 16), BitVec.ofNat 8 op, bit entry 8, bit entry 9, false, buf, len, args, b.part.toNat, s.accepted⟩
        let e := s.sqSize r
        let s := (s.modRing r (fun g => { g with sqHead := if g.sqHead + 1 = e then 0 else g.sqHead + 1, stalled := none })).count blkCTL 0x0438
        let s : State := { s with turn := s.turn + 1, accepted := s.accepted + 1 }
        let st := entryStatus op flags buf len args b.ok
        let s := if st = stHostIo then s.hostFailed
          else if st = stOk && readsBuf op && op ≠ 0x22 && op ≠ 0x24 then s.hostMoved false (hostBase + buf.toNat) len.toNat 0 else s
        (if st = stOk then { s with taken := s.taken ++ [t] } else s.finish t st 0 0 0).endTurn r)

/-! Starting commands (R310, R311) -/

/-- What a command acts on (Table 11.4). -/
inductive CmdObj where
  | none
  | device
  | part (p : Nat)
  | keys
  | model (m : Nat)
  | ctx (x : Nat)
  | fabric
  | twin
  | sync (i : Nat)
deriving DecidableEq, Repr

/-- The object of a taken command; of a RIM_FORM, the partition that its buffer names. -/
def Taken.obj (t : Taken) : CmdObj :=
  let a := fld t.args 0 16
  match t.opcode.toNat with
  | 0x03 => .device
  | 0x10 => .device
  | 0x70 => .device
  | 0x72 => .device
  | 0x11 => .part t.part
  | 0x12 => .part (a % 256)
  | 0x42 => .part (a % 256)
  | 0x43 => .part (a % 256)
  | 0x20 => .keys
  | 0x21 => .model a
  | 0x22 => .model a
  | 0x23 => .model a
  | 0x24 => .model a
  | 0x25 => .ctx a
  | 0x30 => .ctx a
  | 0x31 => .ctx a
  | 0x32 => .ctx a
  | 0x33 => .ctx a
  | 0x34 => .ctx a
  | 0x40 => .ctx a
  | 0x41 => .ctx a
  | 0x62 => .ctx a
  | 0x50 => .fabric
  | 0x51 => .fabric
  | 0x60 => .twin
  | 0x61 => .twin
  | 0x7F => .sync a
  | _ => .none

/-- Whether two commands act on one object. -/
def CmdObj.meets (a b : CmdObj) : Bool := decide (a ≠ .none) && decide (a = b)

/-- Whether a command is a STEP_SUBMIT or a TASK_SUBMIT. -/
def Taken.isWork (t : Taken) : Bool := t.opcode = 0x40 || t.opcode = 0x41

/-- Whether a taken command may start (R310, R311): in its ring's order, after every earlier entry of the ring if it is a FENCE, and
after every earlier command on its object. Steps and tasks hold back only the later ones of their context, until they are queued themselves. -/
def State.mayStart (s : State) (t : Taken) : Bool :=
  let before := s.taken.takeWhile (· ≠ t)
  before.all (fun e =>
    (e.ring ≠ t.ring || (e.begun && !t.fence))
      && (!t.obj.meets e.obj || (e.isWork && (e.begun || !t.isWork))))

/-- ARGS that hold given values at given offsets of the entry. -/
def packArgs (l : List (Nat × Nat)) : BitVec 384 := l.foldl (fun a f => a ||| (BitVec.ofNat 384 f.2 <<< (8 * (f.1 - 16)))) 0#384

/-- The first of equal taken commands marked as started. -/
def startFirst (t : Taken) : List Taken → List Taken
  | [] => []
  | e :: r => if e = t then { e with begun := true } :: r else e :: startFirst t r

/-- Whether a command is the security unit's work: keys, models and ingests (R355 to R363). -/
def usesSecurity (op : Nat) : Bool := decide (0x20 ≤ op) && decide (op ≤ 0x24)

/-- The first taken command with a ring, CMD_ID, opcode and arguments started: its body runs on the state in which it has started. -/
def State.cmd (s : State) (h : CmdHdr) (op : Nat) (args : List (Nat × Nat)) (body : Taken → State → State) : Host.Outcome State Fault Refusal :=
  .next (
    match s.taken.find? (fun t => t.ring = h.ring && t.cmdId = h.cmdId && t.opcode.toNat = op && !t.begun && t.args = packArgs args) with
    | some t =>
      if s.obinhaOn && s.mayStart t then
        match h.chk with
        | .ok => body t { s with taken := startFirst t s.taken }
        | .control => s.stopDevice blkCTL 0x000A
        | .security => if usesSecurity op then s.stopDevice blkSEC 0x0107 else s
        | _ => s
      else s
    | none => s)

/-- A started command completed. -/
def State.done (s : State) (t : Taken) (status : Nat) (r0 r1 cause : Nat := 0) : State := s.complete t.id status r0 r1 cause

/-! Output buffers (R308) -/

/-- Parts of at most 1,024 B of a range, each within one 4,096 B block (R283). -/
def hostParts : Nat → Nat → Nat → List (Nat × Nat)
  | 0, _, _ => []
  | k + 1, a, n =>
    if n = 0 then []
    else
      let m := min (min n 1024) (4096 - a % 4096)
      (a, m) :: hostParts k (a + m) (n - m)

/-- A command's output written to its buffer; the completion follows the last WR_DONE (R308, R312). Without a link in UP the writes fail
(R294). -/
def State.reply (s : State) (t : Taken) (bs : Bytes) (r0 : Nat := 0) (r1 : Nat := 0) : State :=
  if s.vcl.st ≠ .up then s.hostFailed.done t stHostIo 0 0 0x0803
  else
    let a := hostBase + t.buf.toNat
    let s := s.pokeN a bs
    let s : State := { s with replies := s.replies ++ [(t.id, r0, r1)] }
    forAll (hostParts (bs.length + 1) a bs.length) (fun p s => s.obinhaReq (.cmd t.id) true false p.1 p.2) s

end Sys2Proof.Machine
end

