-- ==== Sys2Proof/Machine/Cmd.lean ====
section
/-! DEFINITION. Commands on the device, the fabric, the key store and the models: R315 to R317, R258, R259, R322, R323, R411, R417, R418, R211, R357 to R360. -/

namespace Sys2Proof.Machine

/-- NOP. -/
def execCmdNop (h : CmdHdr) (s : State) : Host.Outcome State Fault Refusal := s.cmd h 0x01 [] (fun t s => s.done t stOk)

/-! QUERY (R315) -/

/-- The serial of the paired twin; 0 when unpaired. -/
def State.twinSerial (s : State) : Nat := if s.twin.st = .unpaired || s.twin.st = .pairing then 0 else s.twin.partner.toNat

/-- The report of Table 11.6. -/
def State.queryReport (s : State) : Bytes :=
  toLe 2 3 ++ toLe 2 0x7A31 ++ toLe 2 0x9624 ++ toLe 2 s.fuses.stepping.toNat ++ toLe 1 (b2n s.fuses.binL) ++ toLe 1 s.shape.toNat
    ++ toLe 2 s.binMHz ++ toLe 4 s.sec.version.toNat ++ toLe 8 s.fuses.serial.toNat ++ toLe 8 s.twinSerial
    ++ toLe 2 216 ++ toLe 1 64 ++ toLe 1 (64 - s.sec.publishers.length) ++ toLe 2 512 ++ toLe 1 16 ++ [0]
    ++ toLe 8 storeBase ++ toLe 8 storeSize ++ toLe 8 hostUseBase ++ toLe 8 hostUseSize
    ++ toLe 8 (if s.slowerSize = 0 then 0 else s.slowerBase.toNat) ++ toLe 8 s.slowerSize.toNat ++ toLe 8 0x3F
    ++ toLe 16 ((opcodes.map (fun o => 2 ^ o)).sum) ++ List.replicate 144 0

/-- QUERY. -/
def execQuery (h : CmdHdr) (s : State) : Host.Outcome State Fault Refusal :=
  s.cmd h 0x02 [] (fun t s => s.reply t s.queryReport)

/-! Measurements (R367) -/

/-- SEC_MEAS_GEN gains 1 for each measurement block that differs from an earlier state's. -/
def State.measured (s : State) (before : State) : State :=
  s.count blkSEC 0x0228 ((s.measBlocks.zip before.measBlocks).filter (fun p => p.1 ≠ p.2)).length

/-! REGION_SET (R317) -/

/-- The aperture register of a range (Table 10.10). -/
def aptWord (r : AptRange) : Word := BitVec.ofNat 64 (r.base.toNat + put r.size.toNat 32 18 + put r.access.toNat 62 2)

/-- Whether a range lies in the host-use area. -/
def aptInUse (r : AptRange) : Bool :=
  decide (hostUseBase ≤ 2 ^ 20 * r.base.toNat) && decide (2 ^ 20 * (r.base.toNat + r.size.toNat) ≤ hostUseBase + hostUseSize)

/-- Whether no two of a list overlap. -/
def disjoint (meet : Nat × Nat → Nat × Nat → Bool) : List (Nat × Nat) → Bool
  | [] => true
  | r :: l => l.all (fun q => !meet r q) && disjoint meet l

/-- Whether two ranges, each a base and a size, share an element. -/
def overlaps (a b : Nat × Nat) : Bool := overlap a.1 a.2 b.1 b.2

/-- REGION_SET's buffer (R317). -/
def regionArgs (b : Bytes) : RegionArgs :=
  let w := (List.range 16).map (fun i => BitVec.ofNat 64 (leAt b (16 + 8 * i) 8))
  { slowerBase := BitVec.ofNat 64 (leAt b 0 8), slowerSize := BitVec.ofNat 64 (leAt b 8 8)
    ranges := w.map (fun r => ⟨BitVec.ofNat 18 (fld r 0 18), BitVec.ofNat 18 (fld r 32 18), BitVec.ofNat 2 (fld r 62 2)⟩)
    rsvd := w.any (fun r => fld r 18 14 ≠ 0 || fld r 50 12 ≠ 0) }

/-- REGION_SET (R317): INVALID before BUSY (DESIGN CHOICE, log entry 55). -/
def execRegionSet (h : CmdHdr) (buf : Bytes) (s : State) : Host.Outcome State Fault Refusal :=
  s.cmd h 0x03 [] (fun t s =>
    let a := regionArgs buf
    let used := a.ranges.filter (fun r => r.access ≠ 0)
    let bad := a.rsvd || a.ranges.length ≠ 16 || a.slowerBase.toNat % 4096 ≠ 0 || a.slowerSize.toNat % 4096 ≠ 0
      || used.any (fun r => !aptInUse r || r.access = 3)
      || !disjoint overlaps (used.map (fun r => (r.base.toNat, r.size.toNat)))
    let moves := a.slowerBase ≠ s.slowerBase || a.slowerSize ≠ s.slowerSize
    if bad then s.done t stInvalid
    else if moves && s.enc.dir.any (·.slower) then s.done t stBusy
    else
      let apt := Vector.ofFn (fun (i : Fin 16) => ((a.ranges[i.val]?).map aptWord).getD 0)
      (({ s with slowerBase := a.slowerBase, slowerSize := a.slowerSize, vcl := { s.vcl with apt := apt } } : State).measured s).done t stOk)

/-! PART_CONFIG (R316, R328) -/

/-- The cores of a shape's partitions (Table 12.1). -/
def shapeCores (shape : Nat) : List Nat :=
  match shape with
  | 0 => [16]
  | 1 => [8, 8]
  | 2 => [8, 4, 4]
  | _ => [4, 4, 4, 4]

/-- The default landing ring of a partition of some cores, in MiB. -/
def defaultRing (cores : Nat) : Nat := 128 * cores

/-- The rings of a shape: RING_MIB entries with the defaults for 0. -/
def ringsOf (shape : Nat) (mib : List Nat) : List Nat := ((shapeCores shape).zip mib).map (fun p => if p.2 = 0 then defaultRing p.1 else p.2)

/-- The partitions of a shape, with their rings. -/
def partsOf (shape : Nat) (rings : List Nat) : Vector Part 4 :=
  let cs := shapeCores shape
  Vector.ofFn (fun (p : Fin 4) =>
    if p.val < cs.length then { first := (cs.take p.val).sum, cores := cs.getD p.val 0, ringMib := rings.getD p.val 0 } else {})

/-- PART_CONFIG: the partition fields of Tables 12.9 and 12.10 are reset, and the schedule tables discarded (R354). A change of mode
that is pending is given up, and its SCHED_MODE never completes (DESIGN CHOICE, log entry 126). -/
def execPartConfig (h : CmdHdr) (a : PartArgs) (s : State) : Host.Outcome State Fault Refusal :=
  s.cmd h 0x10 [(16, a.shape.toNat), (24, a.ring0.toNat), (26, a.ring1.toNat), (28, a.ring2.toNat), (30, a.ring3.toNat)] (fun t s =>
    let mib := [a.ring0.toNat, a.ring1.toNat, a.ring2.toNat, a.ring3.toNat]
    let n := (shapeCores a.shape.toNat).length
    let rings := ringsOf a.shape.toNat mib
    if 4 ≤ a.shape.toNat || mib.any (fun m => m % 64 ≠ 0 || decide (8192 < m)) || (mib.drop n).any (· ≠ 0) then s.done t stInvalid
    else if 8192 < rings.sum then s.done t stNoResource
    else if !s.ctxs.isEmpty || s.rims.toList.any (fun r => r.phase ≠ .none) || s.twin.st ≠ .unpaired then s.done t stBusy
    else
      let s' : State := { s with shape := a.shape.setWidth 2, parts := partsOf a.shape.toNat rings }
      let s' := forAll (List.range 4) (fun p s => (s.setReg blkCTL 0x0510 500 p).setReg blkCTL 0x0520 0 p) s'
      (s'.measured s).done t stOk)

/-! The fabric (R258, R259, R322, R323) -/

/-- Whether a port map is one a bank may hold (R258): no twin link, no link of a rim port, no link twice. -/
def State.portsOk (s : State) (l : List PortArg) : Bool :=
  let used := l.filter (·.valid)
  decide (l.length ≤ 8) && used.all (fun p => p.dir ≠ 7)
    && (List.range 18).all (fun i =>
      decide ((used.filter (fun p => bit p.links i)).length ≤ 1) && !(used.any (fun p => bit p.links i) && (s.rimPort i).isSome))

/-- Whether the rest of a bank is well-formed (R258, R322). -/
def routeOk (a : RouteArgs) : Bool :=
  let (x, y, z) := (a.extX.toNat, a.extY.toNat, a.extZ.toNat)
  !a.rsvd && a.ports.all (fun p => !p.rsvd) && decide (a.pktMax.toNat ≤ 63)
    && a.table.all (fun e => decide (e.1 < 65536) && fld e.2 9 6 = 0
        && (List.range 8).all (fun i => !bit e.2 i || ((a.ports[i]?).map (·.valid)).getD false))
    && decide (1 ≤ x) && decide (x ≤ 64) && decide (1 ≤ y) && decide (y ≤ 64) && decide (1 ≤ z) && decide (z ≤ 16) && decide (x * y * z ≤ 4096)
    && decide (fld a.ownCoord 0 6 < x) && decide (fld a.ownCoord 6 6 < y) && decide (fld a.ownCoord 12 4 < z)
    && a.ownEp ≠ 0xFFFF

/-- The bank that FAB_ROUTE_LOAD writes, live at once. -/
def routeBank (a : RouteArgs) : RBank :=
  { live := true, used := false
    table := a.table.foldl (fun m e => mset (fun _ => 0) m e.1 e.2) []
    ports := a.ports.map (fun p => ⟨p.links, p.dir, p.valid⟩)
    ownEp := a.ownEp, ownCoord := a.ownCoord
    extX := a.extX.toNat, extY := a.extY.toNat, extZ := a.extZ.toNat
    pktMaxM1 := a.pktMax.setWidth 6, prio := a.prio }

/-- FAB_ROUTE_LOAD's buffer (R322), its bytes that are not 0 by offset. -/
def routeArgs (m : SMap Byte) : RouteArgs :=
  let le := fun (o n : Nat) => leNat (getBytes m o n)
  let ports := (List.range 8).map (fun i => BitVec.ofNat 64 (le (16 + 8 * i) 8))
  let ids := ((m.filter (fun e => decide (96 ≤ e.1))).map (fun e => (e.1 - 96) / 2)).eraseDups
  { bank := BitVec.ofNat 8 (le 0 1), prio := BitVec.ofNat 8 (le 1 1), ownEp := BitVec.ofNat 16 (le 2 2), ownCoord := BitVec.ofNat 16 (le 4 2)
    extX := BitVec.ofNat 8 (le 6 1), extY := BitVec.ofNat 8 (le 7 1), extZ := BitVec.ofNat 8 (le 8 1), pktMax := BitVec.ofNat 8 (le 9 1)
    rsvd := m.any (fun e => e.2 ≠ 0 && ((decide (10 ≤ e.1) && decide (e.1 < 16)) || (decide (80 ≤ e.1) && decide (e.1 < 96))))
    ports := ports.map (fun w => ⟨BitVec.ofNat 18 (fld w 0 18), BitVec.ofNat 3 (fld w 18 3), bit w 23, fld w 21 2 ≠ 0 || fld w 24 40 ≠ 0⟩)
    table := ids.map (fun i => (i, BitVec.ofNat 16 (le (96 + 2 * i) 2))) }

/-- FAB_ROUTE_LOAD (R258, R322). A live bank is BUSY before the buffer is judged (DESIGN CHOICE, log entry 55). -/
def execFabRouteLoad (h : CmdHdr) (buf : List (Nat × Byte)) (s : State) : Host.Outcome State Fault Refusal :=
  s.cmd h 0x50 [] (fun t s =>
    let a := routeArgs buf
    if 2 ≤ a.bank.toNat then s.done t stInvalid
    else
      let b : Fin 2 := Fin.ofNat 2 a.bank.toNat
      if s.fab.banks[b].live then s.done t stBusy
      else if !routeOk a || !s.portsOk a.ports then s.done t stInvalid
      else ((({ s with fab := { s.fab with banks := s.fab.banks.set b (routeBank a) } } : State).refit s).measured s).done t stOk)

/-- FAB_EPOCH_FLIP: pending until T, when it completes (FAB_EPOCH_FLIP_AT_T). -/
def execFabEpochFlip (h : CmdHdr) (bank : BitVec 8) (at_ : BitVec 64) (s : State) : Host.Outcome State Fault Refusal :=
  s.cmd h 0x51 [(16, bank.toNat), (24, at_.toNat)] (fun t s =>
    if 2 ≤ bank.toNat then s.done t stInvalid
    else
      let b : Fin 2 := Fin.ofNat 2 bank.toNat
      let k := s.fab.banks[b]
      if b = s.fab.inj || !k.live || decide ((at_ - s.podTime).toInt < 10000) then s.done t stInvalid
      else if s.fab.flip.isSome || k.used then s.done t stBusy
      else { s with fab := { s.fab with flip := some ⟨b, at_, t.id⟩ } })

/-- STATE of FAB_LINK_STATUS. -/
def LinkSt.code : LinkSt → Nat
  | .down => 0
  | .train => 1
  | .hello => 2
  | .keyx => 3
  | .up => 4
  | .disabled => 5

/-- DISCOVER's record of a link (R323). -/
def State.linkRecord (s : State) (l : Fin 20) : Bytes :=
  let k := s.links[l]
  let head := fun (caps partner : Nat) => [l.val, k.st.code, s.role l.val, caps, k.retrains.toNat, partner].map (BitVec.ofNat 8) ++ [0, 0]
  match k.partner with
  | some m =>
    head m.caps.toNat m.link.toNat ++ toLe 8 m.serial.toNat ++ toLe 8 m.twin.toNat ++ toLe 2 m.endpoint.toNat ++ toLe 2 m.coord.toNat
      ++ toLe 4 (min ((s.podTime - k.helloAt).toNat / 1000000) (2 ^ 32 - 1))
  | none => head 0 0 ++ List.replicate 20 0 ++ toLe 4 (2 ^ 32 - 1)

/-- DISCOVER. -/
def execDiscover (h : CmdHdr) (s : State) : Host.Outcome State Fault Refusal :=
  s.cmd h 0x52 [] (fun t s => s.reply t ((List.finRange 20).flatMap s.linkRecord))

/-! Telemetry, almanac, calendar, forced writes -/

/-- The ring that a TELEMETRY_CFG sets in place; what waited for the old one is lost (log entry 113). -/
def State.setRing (s : State) (g : Option BaroRing) (id : Nat) : State :=
  let lost := (s.hkp.ring.map (·.waiting)).getD []
  (forAll lost (fun _ s => s.baroLost) { s with hkp := { s.hkp with ring := g, newRing := none } }).complete id stOk

/-- The TELEMETRY_CFG under way goes on, unless a copy into the present ring is under way: it stops copying, or has the header of the new ring zeroed. -/
def State.swapRing (s : State) : State :=
  if (s.hkp.ring.map (·.busy)).getD false then s
  else match s.hkp.newRing with
    | some (id, g) =>
      if s.replies.any (fun o => o.1 = id) then s
      else match g, s.taken.find? (fun t => t.id = id) with
        | some _, some t =>
          if s.vcl.st = .up then s.reply t zeros64 else ({ s with hkp := { s.hkp with newRing := none } } : State).reply t zeros64
        | _, _ => s.setRing g id
    | none => s

/-- TELEMETRY_CFG (R411): after a copy under way, the header is zeroed before the completion; then the new ring takes the old one's place. -/
def execTelemetryCfg (h : CmdHdr) (period : BitVec 16) (s : State) : Host.Outcome State Fault Refusal :=
  s.cmd h 0x70 [(16, period.toNat)] (fun t s =>
    let n := t.bufLen.toNat
    if 1000 < period.toNat || (period = 0 && n ≠ 0) || (period ≠ 0 && n = 0) then s.done t stInvalid
    else
      let g : Option BaroRing := if period = 0 then none else some { base := hostBase + t.buf.toNat, entries := (n - 64) / 512, period := period.toNat, since := 0, written := 0 }
      ({ s with hkp := { s.hkp with newRing := some (t.id, g) } } : State).swapRing)

/-- ALMANAC_READ (R417). -/
def execAlmanacRead (h : CmdHdr) (s : State) : Host.Outcome State Fault Refusal :=
  s.cmd h 0x71 [] (fun t s =>
    let l := s.almLatest
    if l.isEmpty then s.done t stOk else s.reply t l.flatten (256 * l.length))

/-- TIME_SET (R418). -/
def execTimeSet (h : CmdHdr) (utc at_ : BitVec 64) (s : State) : Host.Outcome State Fault Refusal :=
  s.cmd h 0x72 [(24, utc.toNat), (32, at_.toNat)] (fun t s =>
    if utc = 0 || decide (1000000000 < (at_ - s.podTime).toInt.natAbs) then s.done t stInvalid else (s.setCal utc at_).done t stOk)

/-- DEBUG_SYNC_FORCE (R211). -/
def execDebugSyncForce (h : CmdHdr) (a : ForceArgs) (s : State) : Host.Outcome State Fault Refusal :=
  s.cmd h 0x7F [(16, a.index.toNat), (18, a.op.toNat), (20, a.value.toNat)] (fun t s =>
    let (ok, s) := (s.objFails a.fail).force a false
    s.done t (if ok then stOk else stInvalid))

/-! Keys and models (R357 to R360) -/

/-- A security error of a command (Table 13.13), completed with AUTH_FAIL. -/
def State.authFail (s : State) (t : Taken) (b cause : Nat) : State :=
  (((s.stick blkSEC 0x0230 (2 ^ b)).record blkSEC .none cause).count blkSEC 0x0240).complete t.id stAuthFail 0 0 cause

/-- Whether a record's EXPIRY refuses it: the calendar is unknown or has passed it. -/
def State.expired (s : State) (expiry : Word) : Bool :=
  expiry ≠ 0 && (match s.utc with
    | some u => decide (expiry.toNat < u.toNat / 1000000000)
    | none => true)

/-- Models enrolled under a slot. -/
def State.modelsOf (s : State) (slot : Nat) : List Model := s.enc.models.filter (fun m => m.slot = slot)

/-- KEY_ENROLL's record (Table 13.2), with the security unit's verdicts on it (R357). -/
def keyArgs (slot : BitVec 8) (b : Bytes) : KeyArgs :=
  { slot := slot, format := BitVec.ofNat 16 (leAt b 0 2), action := BitVec.ofNat 8 (leAt b 2 1), recSlot := BitVec.ofNat 8 (leAt b 3 1)
    rsvd := BitVec.ofNat 32 (leAt b 4 4), serial := BitVec.ofNat 64 (leAt b 8 8), expiry := BitVec.ofNat 64 (leAt b 16 8)
    rootOk := decide (pointHash ((b.drop 24).take 132) = rootHash), sigOk := ecdsaOk ((b.drop 24).take 132) (b.take 288) ((b.drop 288).take 132), publisher := (b.drop 156).take 132, onCurve := onCurve ((b.drop 156).take 132) }

/-- KEY_ENROLL (R357). -/
def execKeyEnroll (h : CmdHdr) (k : KeyCmd) (s : State) : Host.Outcome State Fault Refusal :=
  s.cmd h 0x20 [(16, k.slot.toNat)] (fun t s =>
    let a := keyArgs k.slot k.buf
    let slot := a.slot.toNat
    let held := look s.sec.publishers slot
    if a.format ≠ 1 || decide (1 < a.action.toNat) || decide (63 < slot) || a.recSlot ≠ a.slot || a.rsvd ≠ 0
        || (a.serial ≠ 0 && a.serial ≠ s.fuses.serial) || s.expired a.expiry then s.done t stInvalid
    else if !s.fuses.rootSet || !a.rootOk || !a.sigOk then s.authFail t 1 0x0101
    else if a.action = 0 then
      if held.isSome || !a.onCurve || s.sec.publishers.any (fun k => k.2 = a.publisher) then s.done t stInvalid
      else (({ s with sec := { s.sec with publishers := insertAt s.sec.publishers slot a.publisher } } : State).measured s).done t stOk
    else
      let ms := s.modelsOf slot
      if held.isNone || a.publisher.any (· ≠ 0)
          || ms.any (fun m => s.enc.dir.any (fun e => e.model = m.id) || s.ctxs.any (fun x => x.2.model = m.id)) then s.done t stInvalid
      else
        (({ s with
          sec := { s.sec with publishers := erase s.sec.publishers slot
                              contentKeys := s.sec.contentKeys.filter (fun k => !ms.any (fun m => m.id = k.1)) }
          enc := { s.enc with models := s.enc.models.filter (fun m => m.slot ≠ slot) } } : State).measured s).done t stOk)

/-- A model put in its place by ascending id. -/
def addModel (m : Model) : List Model → List Model
  | [] => [m]
  | x :: r => if m.id < x.id then m :: x :: r else x :: addModel m r

/-- MODEL_ENROLL's manifest (Table 13.3), with the verdicts on its signature under the slot's key, over bytes 0 to 47, and on the wrapped key (R358, R360). -/
def State.modelArgs (s : State) (model : BitVec 16) (slot : BitVec 8) (b : Bytes) : ModelArgs :=
  { model := model, slot := slot, format := BitVec.ofNat 16 (leAt b 0 2), recModel := BitVec.ofNat 16 (leAt b 2 2)
    layers := BitVec.ofNat 16 (leAt b 4 2), formats := BitVec.ofNat 8 (leAt b 6 1)
    rsvd := !(zeroAt b 7 9 && zeroAt b 180 4 && zeroAt b 356 12), commit := (b.drop 16).take 32
    ephPub := (b.drop 184).take 132, wrapped := (b.drop 316).take 40
    sigOk := ecdsaOk ((look s.sec.publishers slot.toNat).getD []) (b.take 48) ((b.drop 48).take 132)
    unwrapOk := onCurve ((b.drop 184).take 132) && (contentKey s.fuses.secret model.toNat s.fuses.serial ((b.drop 184).take 132) ((b.drop 316).take 40)).isSome }

/-- MODEL_ENROLL (R358 to R360): the security unit holds the content key. -/
def execModelEnroll (h : CmdHdr) (b : ModelCmd) (s : State) : Host.Outcome State Fault Refusal :=
  s.cmd h 0x21 [(16, b.model.toNat), (18, b.slot.toNat)] (fun t s =>
    let a := s.modelArgs b.model b.slot b.buf
    let ck := (contentKey s.fuses.secret b.model.toNat s.fuses.serial a.ephPub a.wrapped).getD []
    if a.rsvd || a.format ≠ 1 || a.recModel ≠ a.model || a.layers = 0 || decide (4095 < a.layers.toNat) || a.formats = 0 || bit a.formats 7
        || (s.model? a.model.toNat).isSome || decide (63 < a.slot.toNat) || (look s.sec.publishers a.slot.toNat).isNone then s.done t stInvalid
    else if 4096 ≤ s.enc.models.length then s.done t stNoResource
    else if !a.sigOk then s.authFail t 1 0x0101
    else if !a.unwrapOk then s.authFail t 2 0x0102
    else
      let s := s.count blkSEC 0x0248
      if keyCommit ck ≠ a.commit then s.authFail t 3 0x0103
      else
        let m : Model := ⟨a.model.toNat, a.slot.toNat, a.layers.toNat, a.formats, a.commit⟩
        (({ s with
          sec := { s.sec with contentKeys := insertAt s.sec.contentKeys a.model.toNat ck }
          enc := { s.enc with models := addModel m s.enc.models } } : State).measured s).done t stOk a.layers.toNat)

end Sys2Proof.Machine
end

