-- ==== Sys2Proof/Machine/Switches.lean ====
section
/-! DEFINITION. Switch requests (R335): which one is due on a partition, and its effect. -/

namespace Sys2Proof.Machine

/-- Whether a pod time has come. -/
def State.isTime (s : State) (t : Word) : Bool := decide (0 ≤ (s.podTime - t).toInt)

/-- The switch requests of a partition whose time has come, of resident contexts or of the others: context, its record, and the request's command,
its time, and whether it is late. -/
def State.dueRequests (s : State) (p : Fin 4) (res : Bool) : List (Nat × Ctx × Nat × Word × Bool) :=
  (s.ctxs.filter (fun x => x.2.part = p && x.2.isRes = res)).flatMap (fun x =>
    (x.2.asks.filter (fun a => s.isTime a.2.1)).map (fun a => (x.1, x.2, a)))

/-- How requests due at once follow one another: the earlier time, LC before BE, the lower context. -/
def requestKey (now : Word) (r : Nat × Ctx × Nat × Word × Bool) : Nat :=
  (2 ^ 64 - 1 - (now - r.2.2.2.1).toNat) * 4096 + b2n r.2.1.be * 2048 + r.1

/-- Requests whose context is not resident at their time wait for its residency. -/
def State.missRequests (s : State) (p : Fin 4) : State :=
  forAll (s.dueRequests p false) (fun r s => s.modCtx r.1 (fun x =>
    { x with asks := x.asks.map (fun a => if a.1 = r.2.2.1 then (a.1, a.2.1, true) else a) })) s

/-- LATE_SWITCH (R335, R353). -/
def State.lateSwitch (s : State) (p : Fin 4) (id : Nat) : State :=
  (s.stick blkCTL 0x0520 4 p.val).record blkCTL .none 0x0007 (s.errCtx (some id))

/-- The switch requests that are due take effect in order until one of them begins a switch; one whose context runs already changes nothing, and
in cyclic mode the table decides (R342). -/
def State.serveRequest (s : State) (p : Fin 4) : State :=
  let rec go : Nat → State → State
    | 0, s => s
    | n + 1, s =>
      if s.parts[p].switch ≠ .idle || s.parts[p].mode = .cyclic then s
      else
        match minBy (requestKey s.podTime) (s.dueRequests p true) with
        | some (id, x, cmd, _, late) =>
          let s := s.setCtx id { x with asks := x.asks.filter (fun a => a.1 ≠ cmd) }
          if s.parts[p].running = some id then go n s
          else
            let s := if late then
                (s.modCtx id (fun x => { x with queue := x.queue.map (fun w => if w.cmd = cmd then { w with late := true } else w) })).lateSwitch p id
              else s
            go n (s.switchTo p (some id) false)
        | none => s
  go (s.dueRequests p true).length (s.missRequests p)

end Sys2Proof.Machine
end

