-- ==== Sys2Proof/Machine/Tables.lean ====
section
/-! DEFINITION. Combined plait tables (R107, R458), the sizes of a context's layers (R110, R331), and messages to the twin (R383). -/

namespace Sys2Proof.Machine

/-! Pair records -/

/-- The record of a partition's rim: the member list, the own index, the links and the digest (R383). -/
def State.rimRecord (s : State) (p : Fin 4) : State :=
  let r := s.rims[p]
  s.pairRecord "rim record" ([p.val, r.own, r.cw.toNat, r.ccw.toNat, r.digest.toNat] ++ r.members.map (·.toNat))

/-- The record of a context's program image (R383). -/
def State.programRecord (s : State) (id : Nat) : State :=
  match (s.ctx? id).bind (·.prog) with
  | some g => s.pairRecord "program record" ([id, g.cflags, g.ctrs, g.ghqs, g.bars.length, g.fet.length, g.exe.length] ++ g.bars.map (·.toNat)
      ++ g.qcfg.map (·.toNat) ++ g.fet.map (·.toNat) ++ g.exe.map (·.toNat) ++ g.descs.map (·.toNat))
  | none => s

/-- A segment or table frame of a shard for the twin's shadow; an empty one removes it (R383). -/
def State.shadowRecord (s : State) (key : Nat) (bs : Bytes) : State := s.pairRecord "shadow" ([key, bs.length] ++ bs.map (·.toNat))

/-! Combined tables -/

/-- The combined table of a model's weight epoch as this member has it: the lead member's once all have reported, another's as received. -/
def State.tableFor (s : State) (p : Fin 4) (model epoch : Nat) : Option (List (Nat × Nat)) :=
  let r := s.rims[p]
  if r.leads then
    let l := r.reportsOf model epoch
    if r.n ≤ l.length then some (combineTables l r.own) else none
  else (r.tables.find? (fun t => t.1 = (model, epoch))).map (·.2)

/-- The lead member answers the requests for tables that are complete. -/
def State.answerTables (s : State) (p : Fin 4) : State :=
  let r := s.rims[p]
  let ready := fun (q : Nat × Nat × Nat) => decide (r.n ≤ (r.reportsOf q.1 q.2.1).length)
  let s := s.modRim p (fun r => { r with tabAsked := r.tabAsked.filter (fun q => !ready q) })
  forAll (r.tabAsked.filter ready) (fun q s =>
    s.tell p q.2.2 (.combinedTable (BitVec.ofNat 16 q.1) (BitVec.ofNat 8 q.2.1) (combineTables (r.reportsOf q.1 q.2.1) q.2.2))) s

/-- A member's report at the lead member, and the requests it answers. -/
def State.noteTable (s : State) (p : Fin 4) (t : TableRep) : State :=
  (s.modRim p (fun r => r.noteTab t)).answerTables p

/-- The report of one weight epoch to the lead member of a rim (R458), for a seat taken as well (R390). -/
def State.reportTable (s : State) (p : Fin 4) (model epoch : Nat) : State :=
  s.toLead p (fun k => .tableReport (BitVec.ofNat 16 model) (BitVec.ofNat 8 epoch) k (s.seatTable p k model epoch))
    (fun k s => s.noteTable p ⟨model, epoch, k, s.seatTable p k model epoch⟩)

/-- The tables that a command waits for are asked of the lead member. -/
def State.askTable (s : State) (p : Fin 4) (model epoch : Nat) : State :=
  let r := s.rims[p]
  if r.leads then s else s.tell p r.lead (.tableRequest (BitVec.ofNat 16 model) (BitVec.ofNat 8 epoch) r.own)

/-! Sizes (R110, R331) -/

/-- The weight epochs of a context that circulate: its own, the old one during a pin window, the one of a pending flip. -/
def State.epochsHeld (s : State) (id : Nat) (x : Ctx) : List Nat :=
  (x.epoch :: (x.oldEpoch.toList ++ ((s.rims[x.part].flipOf id).map (·.epoch)).toList)).eraseDups

/-- B of tables (R110): the largest layer, weight epochs added layer by layer. -/
def bOf (tabs : List (List (Nat × Nat))) : Nat :=
  let all := tabs.flatten
  maxOf (((all.map (·.1)).eraseDups).map (fun l => ((all.filter (fun a => a.1 = l)).map (·.2)).sum))

/-- The tables that sizing a list of contexts, each with its weight epochs, still needs. -/
def State.tablesMissing (s : State) (p : Fin 4) (l : List (Nat × List Nat)) : List (Nat × Nat) :=
  ((l.filter (fun x => x.1 ≠ 0xFFFF)).flatMap (fun x => x.2.map (fun e => (x.1, e)))).eraseDups.filter (fun t => (s.tableFor p t.1 t.2).isNone)

/-- B of a model's weight epochs; a context without weights has none. -/
def State.bFor (s : State) (p : Fin 4) (x : Nat × List Nat) : Nat :=
  if x.1 = 0xFFFF then 0 else bOf (x.2.map (fun e => (s.tableFor p x.1 e).getD []))

/-- The two largest of a list. -/
def twoLargest (l : List Nat) : Nat :=
  l.foldl (fun (m : Nat × Nat) b => if m.1 < b then (b, m.1) else if m.2 < b then (m.1, b) else m) (0, 0) |> fun m => m.1 + m.2

/-- Models with their weight epochs of the contexts resident on a partition but one. -/
def State.residentWeights (s : State) (p : Fin 4) (but : Nat) : List (Nat × List Nat) :=
  (s.ctxs.filter (fun x => x.1 ≠ but && x.2.part = p && x.2.isRes)).map (fun x => (x.2.model, s.epochsHeld x.1 x.2))

/-- Whether the landing ring holds 4 × B of one context and 4 × (B1 + B2) of the resident ones, this one among them if it is or becomes
resident (R110, R331). -/
def State.landingFits (s : State) (p : Fin 4) (id : Nat) (w : Nat × List Nat) (resides : Bool) : Bool :=
  let ring := s.parts[p].ringMib * 2 ^ 20
  decide (4 * s.bFor p w ≤ ring) && decide (4 * twoLargest (((if resides then [w] else []) ++ s.residentWeights p id).map (s.bFor p)) ≤ ring)

/-- A command that waits for tables: it is noted, and they are asked for. -/
def State.awaitTables (s : State) (p : Fin 4) (id : Nat) (ok : Bool) (miss : List (Nat × Nat)) : State :=
  let s := s.modRim p (fun r => { r with waiting := r.waiting.filter (fun w => w.1 ≠ id) ++ [(id, ok)] })
  forAll miss (fun t s => s.askTable p t.1 t.2) s

/-- A waiting command waits no longer. -/
def State.endAwait (s : State) (p : Fin 4) (id : Nat) : State :=
  s.modRim p (fun r => { r with waiting := r.waiting.filter (fun w => w.1 ≠ id) })

/-- COMBINED_TABLE_TIMEOUT (R458): the command completes with TIMEOUT and changes nothing. -/
def execCombinedTableTimeout (h : CmdHdr) (s : State) : Host.Outcome State Fault Refusal :=
  .next (
    match s.taken.find? (fun t => t.ring = h.ring && t.cmdId = h.cmdId && s.rims.toList.any (fun r => r.waiting.any (fun w => w.1 = t.id))) with
    | some t => (forAll (List.finRange 4) (fun p s => s.endAwait p t.id) s).done t stTimeout
    | none => s)

end Sys2Proof.Machine
end

