-- ==== Sys2Proof/Machine/Contexts.lean ====
section
/-! DEFINITION. Context commands: creation and destruction (R320, R329, R343, R383), residency and eviction (R330 to R333), program images (R239, R200, R139), flips (R117), schedules (R340, R341), checkpoints (R385), and the submission of steps and side tasks (R320, R347, R349). -/

namespace Sys2Proof.Machine

/-! Creating a context -/

/-- The regions of CTX_CREATE's buffer: 16 B each, base and then size (R320). -/
def ctxRegions (a : CtxArgs) : List (BitVec 64 × BitVec 64) :=
  (List.range (a.buf.length / 16)).map (fun i => (BitVec.ofNat 64 (leAt a.buf (16 * i) 8), BitVec.ofNat 64 (leAt a.buf (16 * i + 8) 8)))

/-- Whether a region is one a context may have (R320, R447, R288). -/
def regionOk (r : BitVec 64 × BitVec 64) : Bool :=
  let (b, n) := (r.1.toNat, r.2.toNat)
  b % 4096 = 0 && n % 4096 = 0 && decide (4096 ≤ n)
    && (inHost b n || (decide (hostUseBase ≤ b) && decide (b + n ≤ hostUseBase + hostUseSize)))

/-- Whether two lists of regions share a byte of HBM (R382, R383). -/
def regionsMeet (a b : List (Nat × Nat)) : Bool := a.any (fun r => inHbm r.1 r.2 && b.any (fun q => inHbm q.1 q.2 && overlaps r q))

/-- Regions as numbers. -/
def natRegions (l : List (BitVec 64 × BitVec 64)) : List (Nat × Nat) := l.map (fun r => (r.1.toNat, r.2.toNat))

/-- Whether a model runs on a partition of a rim (R74). -/
def State.slotsFit (s : State) (p : Fin 4) (model : Nat) : Bool :=
  match s.model? model with
  | some m => decide (s.rims[p].n * m.nfmt ≤ 128)
  | none => true

/-- TIMING_EXACT as granted (R343). -/
def exactGranted (a : CtxArgs) : Bool := bit a.attr 0 && a.cls = 0 && bit a.attr 4 && bit a.attr 5

/-- A context as CTX_CREATE makes it. -/
def newCtx (a : CtxArgs) : Ctx :=
  { st := .created, part := Fin.ofNat 4 a.part.toNat, be := a.cls = 1, model := a.model.toNat, epoch := a.epoch.toNat, oldEpoch := none
    pinUntil := 0, attr := BitVec.ofNat 6 (fld a.attr 1 5 * 2 + b2n (exactGranted a)), seed := a.seed, startStep := a.startStep
    nextStep := a.startStep, armed := none, regions := natRegions (ctxRegions a), prog := none, queue := [], imgAt := .none, img := none, cslot := 0
    cflagBase := 0, ctrBase := 0, barBase := 0, ghqs := [], interval := 64, since := 0, partner := none, replay := none, pwrCfg := none
    cause := 0 }

/-- A context created on a paired device: its first checkpoint contains every page (R385). -/
def State.firstWhole (s : State) (id : Nat) : State := if s.paired then { s with twin := { s.twin with whole := s.twin.whole ++ [id] } } else s

/-- Checkpoints of a context that is gone forgotten. -/
def State.dropCkpt (s : State) (id : Nat) : State :=
  { s with twin := { s.twin with
    ckpts := s.twin.ckpts.filter (fun c => c.ctx ≠ id || c.held), sending := s.twin.sending.filter (fun c => c.1 ≠ id)
    deferred := s.twin.deferred.filter (· ≠ id), firsts := s.twin.firsts.filter (· ≠ id), whole := s.twin.whole.filter (· ≠ id)
    dirty := erase s.twin.dirty id, outgoing := erase s.twin.outgoing id } }

/-- CTX_CREATE (R320, R343, R383). -/
def execCtxCreate (h : CmdHdr) (a : CtxArgs) (s : State) : Host.Outcome State Fault Refusal :=
  s.cmd h 0x30 [(16, a.ctx.toNat), (18, a.part.toNat), (19, a.cls.toNat), (20, a.model.toNat), (22, a.epoch.toNat), (24, a.attr.toNat),
      (32, a.seed.toNat), (40, a.startStep.toNat)] (fun t s =>
    let id := a.ctx.toNat
    let p : Fin 4 := Fin.ofNat 4 a.part.toNat
    let held := a.model = 0xFFFF || ((s.model? a.model.toNat).isSome && (s.shardOf a.model.toNat a.epoch.toNat).isSome)
    let twins := s.paired && ((look s.twin.ctxs id).isSome || s.twin.ctxs.any (fun c => regionsMeet (natRegions (ctxRegions a)) (natRegions (ctxRegions c.2))))
    if 1023 < id || (s.ctx? id).isSome || 1 < a.cls.toNat || 3 < a.part.toNat || s.parts[p].cores = 0 || !held
        || a.buf.length ≠ t.bufLen.toNat || (ctxRegions a).isEmpty || !(ctxRegions a).all regionOk || twins then s.done t stInvalid
    else if s.rims[p].phase ≠ .none && !s.slotsFit p a.model.toNat then s.done t stNoResource
    else
      let s := ((s.setCtx id (newCtx a)).firstWhole id).ctxRecord id
      s.done t stOk (b2n (exactGranted a)))

/-! Destroying and evicting -/

/-- Whether a context has a step or a task under way, which CTX_DESTROY and CTX_EVICT wait for. -/
def Ctx.working (x : Ctx) : Bool := x.armed.isSome || x.queue.any (fun w => w.st ≠ .queued)

/-- The command of an opcode that has started on a context and waits. -/
def State.waitingCmd (s : State) (op id : Nat) : Option Taken := s.taken.find? (fun t => t.begun && t.opcode.toNat = op && fld t.args 0 16 = id)

/-- The steps and tasks that have been taken and queue behind other commands on a context complete with ABORTED as it is destroyed, and count for
their clients where they pass the checks of their own fields (R311, R320, R349). -/
def State.abortTaken (s : State) (id : Nat) : State :=
  forAll (s.taken.filter (fun t => !t.begun && (t.opcode = 0x40 || t.opcode = 0x41) && fld t.args 0 16 = id)) (fun t s =>
    let client := fld t.args 64 16
    let good := decide (client ≤ 4095) && (t.opcode = 0x41 || (decide (fld t.args 16 16 ≤ 256) && decide (fld t.args 32 16 ≤ fld t.args 16 16)))
    if good then
      (s.complete t.id stAborted (if t.opcode = 0x40 then fld t.args 128 64 else 0) 0 0).modClient client (fun c => (satAdd c.1 1, c.2.1, satAdd c.2.2 1))
    else s.complete t.id stInvalid) s

/-- A context destroyed (R320): its queued work completes with ABORTED. -/
def State.destroyCtx (s : State) (cmd : Nat) (id : Nat) (x : Ctx) : State :=
  let s := s.release id x
  let s := (forAll x.queue (fun w s => s.finishWork w stAborted (if w.task then 0 else w.step.toNat) 0 0) s).abortTaken id
  let s := s.modRim x.part (fun r => r.endFlip id)
  let s := ((({ s with ctxs := erase s.ctxs id } : State).leavePart x.part id).dropCkpt id).pairRecord "context destroyed" [id]
  s.complete cmd stOk

/-- CTX_DESTROY (R320). -/
def execCtxDestroy (h : CmdHdr) (ctx : BitVec 16) (s : State) : Host.Outcome State Fault Refusal :=
  s.cmd h 0x31 [(16, ctx.toNat)] (fun t s =>
    match s.ctx? ctx.toNat with
    | none => s.done t stInvalid
    | some x => if x.working then s else s.destroyCtx t.id ctx.toNat x)

/-- CTX_DESTROY_RESUME (R320): the step or task that CTX_DESTROY waited for has ended. -/
def execCtxDestroyResume (ctx : BitVec 16) (s : State) : Host.Outcome State Fault Refusal :=
  .next (
    match s.waitingCmd 0x31 ctx.toNat, s.ctx? ctx.toNat with
    | some t, some x => if x.working then s else s.destroyCtx t.id ctx.toNat x
    | _, _ => s)

/-- A resident context evicted (R332, R333): its image saved with the sync values and queues, its residency freed; for the host, the image moves to
the buffer at `buf`, and the context faults if it cannot be read (Table 14.2). -/
def State.evict (s : State) (id : Nat) (host : Bool) (buf : Nat := 0) : State :=
  match s.ctx? id with
  | none => s
  | some x =>
    let p := x.part
    let s := (if s.parts[p].running = some id then s.saveOut p else s).saveSync id
    match s.ctx? id with
    | none => s
    | some x =>
      let m := x.img.getD {}
      let mine := s.syn.parked.filter (fun k => k.ctx = id)
      let m := if host then mine.foldl (fun (m : Image) k =>
          let i := k.core.val - s.parts[p].first
          let (d, pipes) := m.coreAt i
          m.setCore i (d.setWin k.win.val { d.win k.win.val with count := k.count }, pipes)) m
        else m
      let s := s.freeObjs x
      let s : State := { s with syn := { s.syn with
        parked := if host then s.syn.parked.filter (fun k => k.ctx ≠ id) else s.syn.parked
        ghq := s.syn.ghq.map (fun q => if q.owner = some id then {} else q) } }
      let (ok, s) := if host then s.moveImage m s.parts[p].cores x.imgBase buf true else (true, s)
      if !ok then s.imageLost id 0
      else
      let s := s.setCtx id { x with
        st := .created, img := some m, imgAt := if host then .host else .hbm, ghqs := [], imgBuf := buf, imgBase := if host then 0 else x.imgBase }
      s.leavePart p id

/-- An eviction carried out for a command. -/
def State.evictFor (s : State) (t : Taken) (id : Nat) (x : Ctx) (writeOk : Bool) : State :=
  let host := fld t.args 16 8 = 1
  let size := imageSize s.parts[x.part].cores
  if host && !(writeOk && s.vcl.st = .up) then s.hostFailed.complete t.id stHostIo 0 0 0x0803
  else
    let s := s.evict id host t.buf.toNat
    if ((s.ctx? id).map (·.st)) = some .faulted then s.complete t.id stContextFault 0 0 0x1013 else s.complete t.id stOk size

/-- CTX_EVICT (R332, R320). -/
def execCtxEvict (h : CmdHdr) (ctx : BitVec 16) (dest : BitVec 8) (s : State) : Host.Outcome State Fault Refusal :=
  s.cmd h 0x33 [(16, ctx.toNat), (18, dest.toNat)] (fun t s =>
    match s.ctx? ctx.toNat with
    | none => s.done t stInvalid
    | some x =>
      if 1 < dest.toNat || (dest = 0 && (t.bufLen ≠ 0 || t.buf ≠ 0)) then s.done t stInvalid
      else if !x.isRes then s.done t stBusy
      else if dest = 1 && decide (t.bufLen.toNat < imageSize s.parts[x.part].cores) then s.done t stNoResource
      else if x.working || dest = 1 then s
      else s.evictFor t ctx.toNat x true)

/-- CTX_EVICT_RESUME (R332): no step or task is in flight any more, and an image for the host has been written, or not. -/
def execCtxEvictResume (ctx : BitVec 16) (writeOk : Bool) (s : State) : Host.Outcome State Fault Refusal :=
  .next (
    match s.waitingCmd 0x33 ctx.toNat, s.ctx? ctx.toNat with
    | some t, some x =>
      if x.working then s
      else if x.isRes then s.evictFor t ctx.toNat x writeOk else s.complete t.id stBusy
    | _, _ => s)

/-! Residency (R330, R331) -/

/-- A barrier record's fields (Table 8.15). -/
def barRelease (b : BitVec 64) : Nat := fld b 12 2
def barTag (b : BitVec 64) : Nat := fld b 14 10
def barHome (b : BitVec 64) : Nat := fld b 24 16

/-- The HOME and TAG of an image's pod barriers. -/
def Program.pods (g : Program) : List (Nat × Nat) := (g.bars.filter (fun b => barRelease b ≠ 0)).map (fun b => (barHome b, barTag b))

/-- Whether a pod barrier of a context is one of a context resident on the device (R200). -/
def State.podClash (s : State) (x : Ctx) : Bool :=
  let others := (s.ctxs.filter (fun c => c.2.isRes)).flatMap (fun c => ((c.2.prog.map Program.pods).getD []))
  ((x.prog.map Program.pods).getD []).any (others.contains ·)

/-- A place for a contiguous range of some objects among those in use (R189): the lowest that fits (DESIGN CHOICE, log entry 100). -/
def firstFit (limit : Nat) (used : List (Nat × Nat)) (n : Nat) : Option Nat :=
  if n = 0 then some 0
  else minBy (fun c => c) ((0 :: used.map (fun u => u.1 + u.2)).filter (fun c => decide (c + n ≤ limit) && used.all (fun u => !overlap c n u.1 u.2)))

/-- Global handle queues that no context owns. -/
def State.freeGhqs (s : State) : List Nat := (List.range 64).filter (fun q => (s.ghq q).owner.isNone)

/-- The context with its residency assigned, if all of it can be (R330, R189, R170): the lowest free number, a range of each kind of object, its
handle queues, the place of its image. -/
def State.residencyOf (s : State) (id : Nat) (x : Ctx) (g : Program) : Option Ctx :=
  let here := (s.ctxs.filter (fun c => c.2.isRes && c.2.part = x.part)).map (·.2)
  let res := (s.ctxs.filter (fun c => c.2.isRes)).filterMap (fun c => c.2.prog.map (fun g => (c.2, g)))
  let queues := if x.ghqs.length = g.ghqs then some x.ghqs else
    let l := s.freeGhqs
    if l.length < g.ghqs then none else some (l.take g.ghqs)
  (if x.imgBase ≠ 0 then some x.imgBase else s.imageFit id s.parts[x.part].cores).bind (fun base =>
  match (List.finRange 8).find? (fun n => here.all (fun c => c.cslot ≠ n)),
      firstFit 8192 (res.map (fun c => (c.1.cflagBase, c.2.cflags))) g.cflags,
      firstFit 7168 (res.map (fun c => (c.1.ctrBase, c.2.ctrs))) g.ctrs,
      firstFit 256 (res.map (fun c => (c.1.barBase, c.2.bars.length))) g.bars.length, queues with
  | some n, some f, some c, some b, some q => some { x with cslot := n, cflagBase := f, ctrBase := c, barBase := b, ghqs := q, imgBase := base }
  | _, _, _, _, _ => none)

/-- The words of a resident context's objects: the values its image holds, or the reset state, with the barrier records (R189, R200, R209). -/
def objWords (x : Ctx) (g : Program) (saved : List Word) : List Word :=
  let old := fun (i : Nat) => saved.getD i 0
  (List.range g.cflags).map (fun i => BitVec.ofNat 64 (objHead x.part x.cslot 1 + fld (old i) 0 2))
    ++ (List.range g.ctrs).map (fun i => BitVec.ofNat 64 (objHead x.part x.cslot 2 + fld (old (g.cflags + i)) 0 32))
    ++ g.bars.zipIdx.map (fun b =>
      let w := old (g.cflags + g.ctrs + b.2)
      BitVec.ofNat 64 (objHead x.part x.cslot 3 + fld w 0 12 + put (fld b.1 0 12) 12 12 + put (barTag b.1) 24 10 + put (fld w 34 2) 34 2
        + put (barRelease b.1) 38 2 + put (barHome b.1) 40 16))

/-- The image of a context brought into its place in HBM (R330): read back from the host's buffer, or laid out for a context that has none there, zeroed
for one that has never run. -/
def State.bringImage (s : State) (x : Ctx) : Image × State :=
  let m := x.img.getD {}
  let n := s.parts[x.part].cores
  match x.imgAt with
  | .hbm => (m, s)
  | .none => (m, s.layImage x n)
  | .host => let s := (s.moveImage m n x.imgBase x.imgBuf false).2
             (s.rereadImage m n x.imgBase, s)

/-- A context made resident (R330): its image brought in, its objects and queues bound and reloaded, held signals whose gates are met fired, and a
switch request that came due meanwhile taken up (R332, R335). -/
def State.makeResident (s : State) (id : Nat) (x : Ctx) (g : Program) : State :=
  let (m, s) := s.bringImage x
  let s := forAll ((boundObjs x).zip (objWords x g m.sync)) (fun o s => s.setObj o.1 o.2) s
  let s := forAll x.ghqs.zipIdx (fun q s => s.setGhq q.1 { owner := some id, entries := m.ghqs.getD q.2 [] }) s
  let s := s.setCtx id { x with st := .resident, img := some { m with sync := [], ghqs := [] }, imgAt := .hbm, since := s.podTime, met := false, asks := x.asks.map (fun a => (a.1, a.2.1, a.2.2 || decide (0 < (s.podTime - a.2.1).toInt))) }
  s.fireHeld.serveRequest x.part

/-- Whether a context may not be made resident at all (R330, 1). -/
def State.resideInvalid (s : State) (x : Ctx) : Bool :=
  x.st ≠ .created || x.prog.isNone || (x.model ≠ 0xFFFF && (s.shardOf x.model x.epoch).isNone)

/-- Whether a context's partition belongs to a rim, formed or dissolving (R98, R458), in which its layers circulate. -/
def State.circulates (s : State) (x : Ctx) : Bool :=
  x.model ≠ 0xFFFF && (s.rims[x.part].phase = .formed || s.rims[x.part].phase = .dissolving)

/-- The tables that a context's residency still needs (R458). -/
def State.resideTables (s : State) (id : Nat) (x : Ctx) : List (Nat × Nat) :=
  if s.circulates x then s.tablesMissing x.part ((x.model, s.epochsHeld id x) :: s.residentWeights x.part id) else []

/-- The residency of a context, if the resources suffice (R330, 4). -/
def State.residePlan (s : State) (id : Nat) (x : Ctx) : Option (Ctx × Program) :=
  if s.circulates x && !(s.slotsFit x.part x.model && s.landingFits x.part id (x.model, s.epochsHeld id x) true) then none
  else x.prog.bind (fun g => (s.residencyOf id x g).map (fun y => (y, g)))

/-- CTX_RESIDE's checks in their order, repeated once a table it waits for has come (R330, R458). `imgOk` tells whether an image in host memory
can be read. -/
def State.tryReside (s : State) (t : Taken) (id : Nat) (imgOk : Bool) : State :=
  match s.ctx? id with
  | none => s.done t stInvalid
  | some x =>
    let miss := s.resideTables id x
    if s.resideInvalid x then s.done t stInvalid
    else if s.podClash x then s.done t stBusy
    else if !miss.isEmpty then s.awaitTables x.part t.id imgOk miss
    else match s.residePlan id x with
      | none => s.done t stNoResource
      | some (y, g) =>
        if x.imgAt = .host && !(imgOk && s.vcl.st = .up) then s.hostFailed.complete t.id stHostIo 0 0 0x0803
        else (s.makeResident id y g).done t stOk

/-- CTX_RESIDE (R330). -/
def execCtxReside (h : CmdHdr) (ctx : BitVec 16) (imgOk : Bool) (s : State) : Host.Outcome State Fault Refusal :=
  s.cmd h 0x32 [(16, ctx.toNat)] (fun t s => s.tryReside t ctx.toNat imgOk)

/-! Weight-epoch flips (R117, R319) -/

/-- The highest step a context has armed, as R117 counts from it. -/
def flipTooEarly (x : Ctx) (step : Word) : Bool := !stepLe (x.highest + 2) step

/-- EPOCH_FLIP's checks, repeated once a table it waits for has come (Table 4.4). -/
def State.tryFlip (s : State) (t : Taken) (id epoch pin : Nat) (step : Word) : State :=
  match s.ctx? id with
  | none => s.done t stInvalid
  | some x =>
    let p := x.part
    let w := (x.model, (epoch :: s.epochsHeld id x).eraseDups)
    let miss := if s.circulates x then s.tablesMissing p (w :: s.residentWeights p id) else []
    if x.st = .faulted || x.model = 0xFFFF || flipTooEarly x step || (s.shardOf x.model epoch).isNone then s.done t stInvalid
    else if (s.rims[p].flipOf id).isSome then s.done t stBusy
    else if !miss.isEmpty then s.awaitTables p t.id true miss
    else if s.circulates x && !s.landingFits p id w x.isRes then s.done t stNoResource
    else
      let came := fun (e : Nat × Nat × Word × Nat) => decide (e.1 = id) && decide (e.2.1 = epoch) && decide (e.2.2.1 = step)
      let r := s.rims[p]
      let f : Flip := ⟨id, epoch, step, if pin = 0 then 8 else pin, t.id, none, (r.early.filter came).map (·.2.2.2)⟩
      let s := s.modRim p (fun r => { r with flips := r.flips ++ [f], early := r.early.filter (fun e => !came e) })
      let s := if r.phase = .formed then s.reportFlip p f else s
      forAll (x.queue.filter (fun w => !w.task)) (fun w s => s.reportPins id x w.step w.pinned) s

/-- EPOCH_FLIP (R117): it completes at the lead member's verdict (R118). -/
def execEpochFlip (h : CmdHdr) (a : FlipArgs) (s : State) : Host.Outcome State Fault Refusal :=
  s.cmd h 0x25 [(16, a.ctx.toNat), (18, a.epoch.toNat), (19, a.pin.toNat), (24, a.step.toNat)] (fun t s =>
    s.tryFlip t a.ctx.toNat a.epoch.toNat a.pin.toNat a.step)

/-- The waiting commands of a partition whose tables may have come are tried again. -/
def State.retryTables (s : State) (p : Fin 4) : State :=
  forAll s.rims[p].waiting (fun w s =>
    match s.taken.find? (fun t => t.begun && t.id = w.1) with
    | some t =>
      let s := s.endAwait p w.1
      if t.opcode = 0x32 then s.tryReside t (fld t.args 0 16) w.2
      else s.tryFlip t (fld t.args 0 16) (fld t.args 16 8) (fld t.args 24 8) (BitVec.ofNat 64 (fld t.args 64 64))
    | none => s) s

/-! Program images (R239) -/

/-- Whether a barrier record is well-formed (R200, Table 8.15). -/
def barOk (b : BitVec 64) : Bool := fld b 40 24 = 0 && (if barRelease b = 0 then barTag b = 0 else barTag b ≠ 0)

/-- No element of a list occurs twice. -/
def distinct {α : Type} [DecidableEq α] : List α → Bool
  | [] => true
  | a :: r => !r.contains a && distinct r

/-- Records of a size taken from an offset. -/
def recordsAt (bs : Bytes) (o size n : Nat) : List Nat := (pieces size n (bs.drop o)).map leNat

/-- A program image parsed, none where R239 refuses it. -/
def parseProgram (bs : Bytes) : Option Program :=
  let (nf, ne, nd) := (leAt bs 4 2, leAt bs 6 2, leAt bs 8 2)
  let (fl, ct, ba, gh) := (leAt bs 10 2, leAt bs 12 2, leAt bs 14 2, leAt bs 16 1)
  let g : Program :=
    { fet := (recordsAt bs 64 16 nf).map (BitVec.ofNat 128)
      exe := (recordsAt bs (64 + 16 * nf) 16 ne).map (BitVec.ofNat 128)
      descs := (recordsAt bs (64 + 16 * (nf + ne)) 64 nd).map (BitVec.ofNat 512)
      cflags := fl, ctrs := ct
      bars := (recordsAt bs (64 + 16 * (nf + ne) + 64 * nd) 8 ba).map (BitVec.ofNat 64)
      ghqs := gh
      qcfg := (recordsAt bs 32 2 8).map (BitVec.ofNat 16) }
  if leAt bs 0 4 = 64 + 16 * (nf + ne) + 64 * nd + 8 * ba && bs.length = leAt bs 0 4 && decide (nf ≤ 4096) && decide (ne ≤ 4096)
      && decide (nd ≤ 256) && decide (fl ≤ 8192) && decide (ct ≤ 7168) && decide (ba ≤ 256) && decide (gh ≤ 64) && leAt bs 17 1 = 1
      && zeroAt bs 18 14 && zeroAt bs 48 16 && g.qcfg.all (fun q => fld q 6 2 = 0 && fld q 13 2 = 0) && g.bars.all barOk && distinct g.pods
  then some g else none

/-- PROGRAM_LOAD (R239, R170, R240, R320): the image is kept in HBM; BUSY for a resident context (DEDUCED, log entry 103). -/
def execProgramLoad (h : CmdHdr) (ctx : BitVec 16) (image : Bytes) (s : State) : Host.Outcome State Fault Refusal :=
  s.cmd h 0x34 [(16, ctx.toNat)] (fun t s =>
    let id := ctx.toNat
    match s.ctx? id, parseProgram image with
    | none, _ => s.done t stInvalid
    | some x, g? =>
      if x.isRes then s.done t stBusy
      else if x.st ≠ .created || image.length ≠ t.bufLen.toNat then s.done t stInvalid
      else match g? with
        | none => s.done t stInvalid
        | some g =>
          let s' : State := { s with syn := { s.syn with ghq := s.syn.ghq.map (fun q => if q.owner = some id then {} else q) } }
          let l := s'.freeGhqs
          if l.length < g.ghqs then s.done t stNoResource
          else
            let s := forAll (l.take g.ghqs) (fun q s => s.setGhq q { owner := some id, entries := [] }) s'
            (((s.setCtx id { x with prog := some g, ghqs := l.take g.ghqs }).writeHbm (progAt id) image).2.programRecord id).done t stOk)

/-! Work (R320, R347, R349) -/

/-- A step or task accepted counts as submitted for its client. -/
def State.submitted (s : State) (client : Nat) : State := s.modClient client (fun c => (satAdd c.1 1, c.2))

/-- STEP_SUBMIT (R320). A Faulted context is told so before the rest is judged, also where its partition belongs to no rim (DEDUCED from R329,
log entry 28). -/
def execStepSubmit (h : CmdHdr) (a : StepArgs) (s : State) : Host.Outcome State Fault Refusal :=
  s.cmd h 0x40 [(16, a.ctx.toNat), (18, a.rows.toNat), (20, a.pinned.toNat), (22, a.sflags.toNat), (24, a.client.toNat), (32, a.step.toNat),
      (40, a.argblk.toNat), (48, a.switchTime.toNat)] (fun t s =>
    let id := a.ctx.toNat
    match s.ctx? id with
    | none => s.done t stInvalid
    | some x =>
      let p := x.part
      let sw := bit a.sflags 0
      let past := sw && decide (0 < (s.podTime - a.switchTime).toInt)
      let w : Work :=
        { cmd := t.id, task := false, step := a.step, rows := a.rows.toNat, pinned := a.pinned.toNat
          client := a.client.toNat, argblk := a.argblk, st := .queued, core := 0, late := past, lost := false, swapped := false, expired := false }
      if 256 < a.rows.toNat || a.rows.toNat < a.pinned.toNat || 4095 < a.client.toNat then s.done t stInvalid
      else if x.st = .faulted then (s.submitted w.client).finishWork w stContextFault a.step.toNat 0 x.cause
      else if x.model = 0xFFFF || s.rims[p].phase ≠ .formed || a.step ≠ x.nextStep || (sw && s.parts[p].mode = .cyclic) then s.done t stInvalid
      else
        let x := { x with queue := x.queue ++ [w], nextStep := x.nextStep + 1, asks := x.asks ++ (if sw then [(t.id, a.switchTime, past)] else []) }
        let s := ((s.setCtx id x).submitted w.client).reportPins id x a.step w.pinned
        if sw && s.isTime a.switchTime then s.serveRequest p else s)

/-- TASK_SUBMIT (R320, R347). -/
def execTaskSubmit (h : CmdHdr) (a : TaskArgs) (s : State) : Host.Outcome State Fault Refusal :=
  s.cmd h 0x41 [(16, a.ctx.toNat), (24, a.client.toNat), (40, a.argblk.toNat)] (fun t s =>
    let id := a.ctx.toNat
    match s.ctx? id with
    | none => s.done t stInvalid
    | some x =>
      let w : Work :=
        { cmd := t.id, task := true, step := 0, rows := 0, pinned := 0
          client := a.client.toNat, argblk := a.argblk, st := .queued, core := 0, late := false, lost := false, swapped := false
          expired := false }
      if 4095 < a.client.toNat then s.done t stInvalid
      else if x.st = .faulted then (s.submitted w.client).finishWork w stContextFault 0 0 x.cause
      else if x.model ≠ 0xFFFF || x.prog.isNone then s.done t stInvalid
      else (s.setCtx id { x with queue := x.queue ++ [w] }).submitted w.client)

/-! Schedules (R340, R341) -/

/-- Whether a partition exists in the present shape. -/
def State.partIs (s : State) (n : Nat) : Bool := decide (n < 4) && decide (0 < s.parts[Fin.ofNat 4 n].cores)

/-- Whether starts rise, each slot at least 21 µs long. -/
def slotsLong (period : Nat) : List Nat → Bool
  | [] => true
  | [a] => decide (a + 21 ≤ period)
  | a :: b :: r => decide (a + 21 ≤ b) && slotsLong period (b :: r)

/-- Whether a schedule table is one a partition may have (R340). -/
def State.tableOk (s : State) (p : Fin 4) (t : SchedTable) : Bool :=
  decide (1 ≤ t.slots.toNat) && decide (t.slots.toNat ≤ 256) && t.tab.length = t.slots.toNat && !t.rsvd
    && decide (1 ≤ t.period.toNat) && decide (t.period.toNat ≤ 100000) && ((t.tab.head?).map (fun (e : SchedEntry) => e.start) = some 0)
    && slotsLong t.period.toNat (t.tab.map (fun (e : SchedEntry) => e.start.toNat))
    && t.tab.all (fun (e : SchedEntry) => e.rsvd = 0 && (e.ctx = 0xFFFF || (match s.ctx? e.ctx.toNat with
      | some x => x.part = p && x.model ≠ 0xFFFF
      | none => false)))

/-- A schedule table as its buffer gives it (Table 12.6). -/
def schedTableOf (b : Bytes) : SchedTable :=
  { period := BitVec.ofNat 32 (leAt b 0 4), slots := BitVec.ofNat 16 (leAt b 4 2), rsvd := !zeroAt b 6 10
    tab := (recordsAt b 16 8 (leAt b 4 2)).map (fun e => ⟨BitVec.ofNat 32 e, BitVec.ofNat 16 (e / 2 ^ 32), BitVec.ofNat 16 (e / 2 ^ 48)⟩) }

/-- SCHED_TABLE_LOAD (R340). -/
def execSchedTableLoad (h : CmdHdr) (part : BitVec 8) (buf : Bytes) (s : State) : Host.Outcome State Fault Refusal :=
  s.cmd h 0x42 [(16, part.toNat)] (fun k s =>
    let p : Fin 4 := Fin.ofNat 4 part.toNat
    let t := schedTableOf buf
    if !s.partIs part.toNat || k.bufLen.toNat ≠ 16 + 8 * t.slots.toNat || !s.tableOk p t then s.done k stInvalid
    else if s.parts[p].mode = .cyclic || s.parts[p].change.isSome then s.done k stBusy
    else (s.modPart p (fun q => { q with table := some t })).done k stOk)

/-- SCHED_MODE (R341): it takes effect and completes at START. -/
def execSchedMode (h : CmdHdr) (part mode : BitVec 8) (start : BitVec 64) (s : State) : Host.Outcome State Fault Refusal :=
  s.cmd h 0x43 [(16, part.toNat), (17, mode.toNat), (24, start.toNat)] (fun t s =>
    let p : Fin 4 := Fin.ofNat 4 part.toNat
    if !s.partIs part.toNat || 1 < mode.toNat || decide ((start - s.podTime).toInt < 10000) || (mode = 1 && s.parts[p].table.isNone) then
      s.done t stInvalid
    else s.modPart p (fun q => { q with change := some ⟨decide (mode = 1), start, t.id⟩ }))

/-! Checkpoints (R385) -/

/-- The bytes a checkpoint of a context holds: its sync area and its regions in HBM. -/
def ckptBytes (regions : List (Nat × Nat)) : Nat := 147456 + ((regions.filter (fun r => inHbm r.1 r.2)).map (·.2)).sum

/-- CHECKPOINT_CFG (R385). -/
def execCheckpointCfg (h : CmdHdr) (ctx interval : BitVec 16) (s : State) : Host.Outcome State Fault Refusal :=
  s.cmd h 0x62 [(16, ctx.toNat), (18, interval.toNat)] (fun t s =>
    match s.ctx? ctx.toNat with
    | none => s.done t stInvalid
    | some x =>
      if x.st = .faulted || !s.paired then s.done t stInvalid
      else if ckptSize < ckptBytes x.regions then s.done t stNoResource
      else (s.setCtx ctx.toNat { x with interval := interval }).done t stOk)

end Sys2Proof.Machine
end

