-- ==== Sys2Proof/Machine/Weft.lean ====
section
/-! DEFINITION. Weights (03_weft_format, 13_security_loading): the weft directory and its cache (R79 to R81), the weft store and the slower tier (R83, R85), ingest in two passes (R87 to R91, R363) and eviction (R319). -/

namespace Sys2Proof.Machine

/-! The directory (R79 to R81) -/

/-- Whether a set of the directory can be read (R79, R377). -/
def State.setReadable (s : State) (n : Nat) : Bool := !s.bad.any (fun b => b.1 / 8 = dirBase / 512 + n)

/-- The entries of a set. -/
def inSet (dir : List DirEntry) (n : Nat) : List DirEntry := dir.filter (fun e => e.set = n)

/-- The other set an entry's key may stand in. -/
def otherSet (e : DirEntry) : Nat := if e.set = setA e.key then setB e.key else setA e.key

/-- The first free place of a set. -/
def freeWay (dir : List DirEntry) (n : Nat) : Nat := ((List.range 16).find? (fun w => !(inSet dir n).any (fun e => e.way = w))).getD 0

/-- A place made free in a full set by moving entries to their other set, at most `n` of them (R80): an entry whose other set has room is moved,
the first there is; else the first entry's other set is made to have room. -/
def makeRoom (room : List DirEntry → Nat → Bool) (movable : Nat → Bool) : Nat → List DirEntry → Nat → Option (List DirEntry)
  | 0, _, _ => none
  | n + 1, dir, k =>
    let move := fun (dir : List DirEntry) (e : DirEntry) =>
      dir.map (fun d => if d.key = e.key then { d with set := otherSet e, way := freeWay dir (otherSet e) } else d)
    if !movable k then none
    else match (inSet dir k).find? (fun e => room dir (otherSet e)) with
      | some e => some (move dir e)
      | none =>
        match inSet dir k with
        | e :: _ => (makeRoom room movable n dir (otherSet e)).map (fun dir => move dir e)
        | [] => none

/-- An entry inserted into set A or set B, none where R80 fails. -/
def State.dirInsert (s : State) (dir : List DirEntry) (e : DirEntry) : Option (List DirEntry) :=
  let room := fun (dir : List DirEntry) (n : Nat) => s.setReadable n && decide ((inSet dir n).length < 16)
  let (a, b) := (setA e.key, setB e.key)
  let add := fun (dir : List DirEntry) (n : Nat) => dir ++ [{ e with set := n, way := freeWay dir n }]
  if room dir a then some (add dir a)
  else if room dir b then some (add dir b)
  else match makeRoom room s.setReadable 32 dir a with
    | some dir => if room dir a then some (add dir a) else none
    | none => (makeRoom room s.setReadable 32 dir b).bind (fun dir => if room dir b then some (add dir b) else none)

/-- A directory entry in force as it stands in HBM (Table 3.6). -/
def DirEntry.bytes (e : DirEntry) : Bytes :=
  toLe 2 e.model ++ toLe 2 (e.layer + put e.countM1 12 4) ++ toLe 2 (e.strand + put e.format 12 3 + 2 ^ 15)
    ++ toLe 2 (e.segment + put (b2n e.slower) 10 1) ++ toLe 1 e.epoch ++ [0, 0, 0] ++ toLe 4 e.length ++ toLe 8 e.location
    ++ toLe 4 e.check ++ toLe 4 e.salt

/-- Where an entry stands in HBM (R79). -/
def DirEntry.place (e : DirEntry) : Nat := dirBase + 512 * e.set + 32 * e.way

/-- The directory changed: places that no entry holds any more are cleared, and entries that are new or changed written (R78, R81). -/
def State.setDir (s : State) (dir : List DirEntry) : State :=
  let gone := s.enc.dir.filter (fun e => !dir.any (fun d => d.place = e.place))
  let new := dir.filter (fun d => !s.enc.dir.contains d)
  let s := forAll gone (fun e s => (s.writeHbm e.place (List.replicate 32 0)).2) s
  let s := forAll new (fun e s => (s.writeHbm e.place e.bytes).2) s
  { s with enc := { s.enc with dir := dir } }

/-- The cache's set of a key, and the cache after a use of the key: the latest used first, four to a set (R81). -/
def cacheSet (key : Nat) : Nat := keyHash key % 2 ^ 12
def touchCache (c : List (Nat × Nat)) (key : Nat) : List (Nat × Nat) :=
  let k := cacheSet key
  let mine := (c.filter (fun e => e.1 = k && e.2 ≠ key)).take 3
  (k, key) :: (mine ++ c.filter (fun e => e.1 ≠ k))

/-- A lookup of a key (R79, R81): in the cache, else in the sets that can be read. -/
def State.dirLookup (s : State) (errs : List LineErr) (key : Nat) : Option DirEntry × State :=
  let e := s.enc.dir.find? (fun d => d.key = key)
  let hit := s.enc.cache.any (fun c => c.2 = key)
  if hit then (e, ({ s with enc := { s.enc with cache := touchCache s.enc.cache key } } : State).count blkENC 0x0220)
  else
    let s := s.count blkENC 0x0228
    let (okA, s) := s.readHbm errs (dirBase + 512 * setA key) 512
    let inA := okA && (e.map (·.set)) = some (setA key)
    let (okB, s) := if inA then (true, s) else s.readHbm errs (dirBase + 512 * setB key) 512
    match e with
    | some d =>
      if inA || (okB && d.set = setB key) then (some d, { s with enc := { s.enc with cache := touchCache s.enc.cache key } }) else (none, s)
    | none => (none, s)

/-- DIR_PARITY (Table 14.1): an entry of the cache that fails its check is dropped, so that it is fetched again from HBM; class C. -/
def State.cacheParity (s : State) (key : Option Nat) : State :=
  if s.enc.cache.any (fun c => some c.2 = key) then
    ({ s with enc := { s.enc with cache := s.enc.cache.filter (fun c => some c.2 ≠ key) } } : State).record blkENC .c 0x0605
  else s

/-! Space -/

/-- The lowest free place of some bytes in a region, at a multiple of `al`. -/
def freePlace (base size al : Nat) (used : List (Nat × Nat)) (n : Nat) : Option Nat :=
  let up := fun (a : Nat) => (a + al - 1) / al * al
  minBy (fun c => c) ((base :: used.map (fun u => up (u.1 + u.2))).filter (fun c => decide (c + n ≤ base + size) && used.all (fun u => !overlap c n u.1 u.2)))

/-- The parts of the weft store, and of the slower tier, in use by a directory. -/
def storeUsed (dir : List DirEntry) : List (Nat × Nat) := (dir.filter (fun e => !e.slower)).map (fun e => (e.location, e.length))
def State.slowerUsed (s : State) : List (Nat × Nat) :=
  (s.enc.dir.filter (·.slower)).map (fun e => (e.location, e.length + 16)) ++ s.twin.shadow.map (fun e => (e.2.place, e.2.len + 16))

/-! Errors of the encoder (R92) -/

/-- An operation of the encoder that failed with an error of Table 3.9. -/
def State.encError (s : State) (b cause : Nat) : State := (s.stick blkENC 0x0208 (2 ^ b)).record blkENC .none cause

/-- The buffer of a taken command, by host address. -/
def State.bufOf (s : State) (cmd : Nat) : Nat := ((s.taken.find? (fun t => t.id = cmd)).map (fun t => t.buf.toNat)).getD 0

/-- The encoder's operation in progress ends. -/
def State.encDone (s : State) (o : EncOp) (status : Nat) (r0 r1 cause : Nat := 0) : State :=
  ({ s with enc := { s.enc with ops := s.enc.ops.drop 1 } } : State).complete o.cmd status r0 r1 cause

/-- The encoder's operation in progress fails with an error of Table 3.9, whose cause its completion carries. -/
def State.encFail (s : State) (o : EncOp) (b cause status : Nat) : State := (s.encError b cause).encDone o status 0 0 cause

/-! Ingest (R363, R319, R82, R89) -/

/-- The arguments of an ingest with what its epoch manifest gives for the shard, and the verdict on its signature under a publisher's key, over every byte
before it (Table 13.4). -/
def ingestArgs (pub : Bytes) (model : BitVec 16) (epoch sflags n k : BitVec 8) (man : Bytes) : IngestArgs :=
  let e := 16 + 96 * k.toNat
  let (len, count) := (leAt man 8 4, leAt man 12 4)
  let (first, num) := (leAt man (e + 20) 4, leAt man (e + 24) 4)
  let tail := 148 + 96 * n.toNat + 4 * count
  { model := model, epoch := epoch, sflags := sflags, n := n, k := k, format := BitVec.ofNat 16 (leAt man 0 2)
    mModel := BitVec.ofNat 16 (leAt man 2 2), mEpoch := BitVec.ofNat 8 (leAt man 4 1), mN := BitVec.ofNat 8 (leAt man 5 1)
    manLen := BitVec.ofNat 32 len, checkCount := BitVec.ofNat 32 count, checkFirst := BitVec.ofNat 32 first, checkNum := BitVec.ofNat 32 num
    ctLen := BitVec.ofNat 64 (leAt man e 8)
    rsvd := !(zeroAt man 6 2 && (List.range n.toNat).all (fun j => zeroAt man (44 + 96 * j) 4) && zeroAt man tail (len - tail))
    checks := (List.range (min num man.length)).map (fun i => leAt man (16 + 96 * n.toNat + 4 * (first + i)) 4)
    nonce := (man.drop (e + 8)).take 12, digest := (man.drop (e + 32)).take 64, sigOk := ecdsaOk pub (man.take (tail - 132)) ((man.drop (tail - 132)).take 132) }

/-- The key of the slot under which a model is enrolled. -/
def State.publisherOf (s : State) (model : Nat) : Bytes := ((s.model? model).bind (fun m => look s.sec.publishers m.slot)).getD []

/-- What R363 refuses with INVALID. -/
def manifestBad (a : IngestArgs) (bufLen : Nat) : Bool :=
  a.format ≠ 1 || a.mModel ≠ a.model || a.mEpoch ≠ a.epoch || a.mN ≠ a.n || decide (a.n.toNat ≤ a.k.toNat)
    || a.manLen.toNat ≠ (148 + 96 * a.n.toNat + 4 * a.checkCount.toNat + 63) / 64 * 64 || a.rsvd
    || decide (a.checkCount.toNat < a.checkFirst.toNat + a.checkNum.toNat) || bufLen ≠ a.manLen.toNat + a.ctLen.toNat || decide (a.ctLen.toNat < 16)

/-- An ingest begun: its checks in the order of R319, R82 and R363, then a place in the encoder's queue. -/
def State.beginIngest (s : State) (a : IngestArgs) (t : Taken) (stage : Bool) : State :=
  let m := a.model.toNat
  let held := s.enc.dir.any (fun e => e.model = m && (!stage || e.epoch = a.epoch.toNat))
  if a.n.toNat < 2 || 64 < a.n.toNat || a.n.toNat ≤ a.k.toNat || (s.model? m).isNone || held || manifestBad a t.bufLen.toNat then s.done t stInvalid
  else if !a.sigOk then s.authFail t 1 0x0101
  else if stagingSize + 16 < a.ctLen.toNat then (s.encError 2 0x0603).done t stNoResource 0 0 0x0603
  else
    let o : EncOp :=
      { phase := .pass1, cmd := t.id, opcode := t.opcode, model := m, epoch := a.epoch.toNat, n := a.n.toNat, k := a.k.toNat
        retain := if bit a.sflags 0 then some (t.buf.toNat, t.bufLen.toNat) else none
        ctLen := a.ctLen.toNat, checks := a.checks, nonce := a.nonce, digest := a.digest, records := [] }
    let s := s.hostMoved false (hostBase + t.buf.toNat) a.manLen.toNat ingestRank
    { s with enc := { s.enc with ops := s.enc.ops ++ [o] } }

/-- The arguments of SHARD_INGEST and EPOCH_STAGE. -/
def ingestFields (a : IngestCmd) : List (Nat × Nat) :=
  [(16, a.model.toNat), (18, a.epoch.toNat), (19, a.sflags.toNat), (20, a.n.toNat), (21, a.k.toNat)]

/-- SHARD_INGEST (R89, R319). -/
def execShardIngest (h : CmdHdr) (a : IngestCmd) (s : State) : Host.Outcome State Fault Refusal :=
  s.cmd h 0x22 (ingestFields a) (fun t s => s.beginIngest (ingestArgs (s.publisherOf a.model.toNat) a.model a.epoch a.sflags a.n a.k a.man) t false)

/-- EPOCH_STAGE (R82). -/
def execEpochStage (h : CmdHdr) (a : IngestCmd) (s : State) : Host.Outcome State Fault Refusal :=
  s.cmd h 0x24 (ingestFields a) (fun t s => s.beginIngest (ingestArgs (s.publisherOf a.model.toNat) a.model a.epoch a.sflags a.n a.k a.man) t true)

/-- Whether a shard's records fit the model's manifest (R363). -/
def recordsFit (m : Model) (l : List StrandRec) : Bool := l.all (fun r => decide (r.layer < m.layers) && bit m.formats r.format)

/-- A shard's ciphertext opened under its model's content key (R362, R363): the plaintext, and whether tag and digest hold. -/
def State.openShard (s : State) (model epoch n k : Nat) (nonce digest ct : Bytes) : Bytes × Bool :=
  let ck := (look s.sec.contentKeys model).getD []
  let aad := toLe 2 model ++ toLe 1 epoch ++ toLe 1 n ++ toLe 1 k ++ [0, 0, 0]
  match gcmOpen ck nonce aad ct with
  | some bs => (bs, decide (sha512 bs = digest))
  | none => (gcmCrypt ck nonce (ct.take (ct.length - 16)), false)

/-- INGEST_PASS1_END (R88, R89, R90, R363): the shard has been read, decrypted and staged; `ct` is the ciphertext with its tag, which goes before the records (13_security_loading, worked example).
A read that failed completes the command with HOST_IO (R294), a failed check of the security unit's state stops the device (Table 14.1). -/
def execIngestPass1End (ct : Bytes) (readOk : Bool) (chk : Check) (s : State) : Host.Outcome State Fault Refusal :=
  .next (
    match s.enc.ops with
    | o :: rest =>
      if s.stopped || o.phase ≠ .pass1 || (chk ≠ .ok && chk ≠ .security) || (readOk && ct.length ≠ o.ctLen) then s
      else if chk = .security then s.stopDevice blkSEC 0x0107
      else if !readOk || s.vcl.st ≠ .up then s.hostFailed.encDone o stHostIo 0 0 0x0803
      else
        let s := s.hostMoved false (hostBase + s.bufOf o.cmd) o.ctLen ingestRank
        let (plaintext, ok) := s.openShard o.model o.epoch o.n o.k o.nonce o.digest ct
        if !ok then s.encFail o 0 0x0601 stIntegrity
        else match (s.model? o.model).bind (fun m => (parseShard o.n o.k plaintext).filter (recordsFit m)) with
          | none => s.encFail o 1 0x0602 stInvalid
          | some l =>
            let s := (s.writeHbm stagingBase plaintext).2
            { s with enc := { s.enc with ops := { o with phase := .pass2, records := l } :: rest } }
    | [] => s)

/-- What pass 2 stores: key, plaits, format, stored bytes, check value. -/
structure StoreItem where
  key    : Nat
  count  : Nat
  format : Nat
  bytes  : Bytes
  check  : Nat
deriving DecidableEq, Repr

/-- Blocks in groups of 16 with their first index. -/
def by16 : Nat → Nat → List Bytes → List (Nat × List Bytes)
  | 0, _, _ => []
  | _, _, [] => []
  | k + 1, i, l => (i, l.take 16) :: by16 k (i + 1) (l.drop 16)

/-- The table frames of a shard, in ascending format (R361). -/
def tableItems (o : EncOp) : List StoreItem :=
  (List.range 7).filterMap (fun f =>
    let lens := codeLengths (groupHist f o.records)
    if lens.all (· = 0) then none
    else
      let p := encodeFrame o.model f o.k o.epoch lens
      some ⟨dirKey o.model 0xFFF f 0 o.epoch, 1, f, p, segCheck [p]⟩)

/-- The segments of a shard, in ascending layer, strand and segment (R57, R60, R61, R66). -/
def segmentItems (o : EncOp) : List StoreItem :=
  let lens := (List.range 7).map (fun f => codeLengths (groupHist f o.records))
  o.records.flatMap (fun r =>
    (by16 r.blocks.length 0 r.blocks).map (fun g =>
      let ps := g.2.zipIdx.map (fun b =>
        let p := 16 * g.1 + b.2
        encodePlait o.model r.layer r.strand r.format o.k o.epoch p (decide (p + 1 = r.blocks.length)) (lens.getD r.format []) b.1)
      ⟨dirKey o.model r.layer r.strand g.1 o.epoch, ps.length, r.format, segBytes ps, segCheck ps⟩))

/-- Places for items in the weft store, one after another, each on a 512 B boundary. -/
def placeItems (used : List (Nat × Nat)) : List StoreItem → Option (List (Nat × StoreItem))
  | [] => some []
  | i :: r =>
    (freePlace storeBase storeSize 512 used i.bytes.length).bind (fun a =>
      (placeItems ((a, i.bytes.length) :: used) r).map ((a, i) :: ·))

/-- The directory entry of an item in the weft store. -/
def itemEntry (x : Nat × StoreItem) : DirEntry := ⟨0, 0, x.2.key, x.2.count - 1, x.2.format, false, x.2.bytes.length, x.1, x.2.check, 0⟩

/-- The partitions whose rim is formed. -/
def State.rimsFormed (s : State) : List (Fin 4) := (List.finRange 4).filter (fun p => s.rims[p].phase = .formed)

/-- The staging region cleared to zero (R89), so that its lines read normally again (R377). -/
def State.clearStaging (s : State) (o : EncOp) : State := (s.writeHbm stagingBase (List.replicate (o.ctLen - 16) 0)).2

/-- INGEST_PASS2_END (R89 to R91, R363): the plaits are encoded and written, their checks compared with the manifest's, and the entries made valid.
A line of the staging region that cannot be read fails the command with INTEGRITY_FAIL (Table 14.2). -/
def execIngestPass2End (errs : List LineErr) (s : State) : Host.Outcome State Fault Refusal :=
  .next (
    match s.enc.ops with
    | o :: _ =>
      if s.stopped || o.phase ≠ .pass2 then s
      else
        let (ok, s) := s.readHbm errs stagingBase (o.ctLen - 16)
        if s.stopped then s else
        let s := s.clearStaging o
        let items := tableItems o ++ segmentItems o
        if !ok then s.encFail o 0 0x0601 stIntegrity
        else match placeItems (storeUsed s.enc.dir) items with
        | none => s.encFail o 2 0x0603 stNoResource
        | some placed =>
          if items.map (·.check) ≠ o.checks then s.encFail o 0 0x0601 stIntegrity
          else match placed.foldl (fun d x => d.bind (fun d => s.dirInsert d (itemEntry x))) (some s.enc.dir) with
            | none => s.encFail o 2 0x0603 stNoResource
            | some dir =>
              let s := (forAll placed (fun x s => (s.writeHbm x.1 x.2.bytes).2) s).setDir dir
              let shard : Shard := ⟨o.model, o.epoch, o.n, o.k, o.retain, false⟩
              let s : State := { s with enc := { s.enc with
                shards := s.enc.shards.filter (fun h => !(h.model = o.model && h.epoch = o.epoch)) ++ [shard] } }
              let s := forAll placed (fun x s => s.shadowRecord x.2.key x.2.bytes) s
              let s := s.encDone o stOk ((placed.map (fun x => x.2.bytes.length)).sum) placed.length
              forAll s.rimsFormed (fun p s => s.reportTable p o.model o.epoch) s
    | [] => s)

/-! Eviction and the tiers (R319, R85) -/

/-- The entries of a shard. -/
def State.entriesOf (s : State) (model epoch : Nat) : List DirEntry := s.enc.dir.filter (fun e => e.model = model && e.epoch = epoch)

/-- What a rim engine knows of segments that are gone, or have moved, forgotten. -/
def Rim.forget (gone : Nat → Bool) (r : Rim) : Rim :=
  { r with
    reread := r.reread.filter (fun k => !gone k), mended := r.mended.filter (fun k => !gone k), failed := r.failed.filter (fun k => !gone k)
    fixing := r.fixing.filter (fun k => !gone k), slowSeg := r.slowSeg.filter (fun k => !gone k.1) }

/-- SHARD_EVICT (R319). -/
def execShardEvict (h : CmdHdr) (model : BitVec 16) (epoch mode : BitVec 8) (s : State) : Host.Outcome State Fault Refusal :=
  s.cmd h 0x23 [(16, model.toNat), (18, epoch.toNat), (19, mode.toNat)] (fun t s =>
    let (m, e) := (model.toNat, epoch.toNat)
    let res := s.ctxs.filter (fun x => x.2.isRes && x.2.model = m)
    if 2 < mode.toNat || (s.shardOf m e).isNone then s.done t stInvalid
    else if mode = 0 then
      if res.any (fun x => (s.epochsHeld x.1 x.2).contains e) then s.done t stBusy
      else
        let gone := s.entriesOf m e
        let s := s.setDir (s.enc.dir.filter (fun d => !(d.model = m && d.epoch = e)))
        let s : State := { s with enc := { s.enc with
          cache := s.enc.cache.filter (fun c => !gone.any (fun d => d.key = c.2))
          shards := s.enc.shards.filter (fun k => !(k.model = m && k.epoch = e)) } }
        let s := forAll (List.finRange 4) (fun p s => s.modRim p (Rim.forget (fun key => gone.any (fun d => d.key = key)))) s
        let s := forAll gone (fun d s => s.shadowRecord d.key []) s
        s.done t stOk
    else if !res.isEmpty then s.done t stBusy
    else if mode = 1 && s.slowerSize = 0 then (s.encError 2 0x0603).done t stNoResource 0 0 0x0603
    else
      let o : EncOp :=
        { phase := if mode = 1 then .copyOut else .copyIn, cmd := t.id, opcode := t.opcode, model := m, epoch := e, n := 0, k := 0
          retain := none, ctLen := 0, checks := [], nonce := [], digest := [], records := [] }
      { s with enc := { s.enc with ops := s.enc.ops ++ [o] } })

/-- Whether a stored segment's plaits, or a stored frame, pass their checks and the entry's (R66, R85). -/
def segmentOk (d : DirEntry) (bs : Bytes) : Bool :=
  let ps := splitSeg (d.countM1 + 1) bs
  ps.all checkPasses && segCheck ps = d.check

/-- A directory entry replaced by key. -/
def State.setEntry (s : State) (d : DirEntry) : State := s.setDir (s.enc.dir.map (fun e => if e.key = d.key then d else e))

/-- Places for the entries that a move takes to the other tier, none where they do not all fit (R307). -/
def movePlan (fit : List (Nat × Nat) → Nat → Option Nat) (extra : Nat) (used : List (Nat × Nat)) : List DirEntry → Option (List (Nat × DirEntry))
  | [] => some []
  | d :: r =>
    (fit used (d.length + extra)).bind (fun a => (movePlan fit extra ((a, d.length + extra) :: used) r).map ((a, d) :: ·))

/-- Places in the slower tier, each on a 64 B boundary, and in the weft store, each on a 512 B boundary. -/
def State.fitSlower (s : State) (used : List (Nat × Nat)) (n : Nat) : Option Nat := freePlace 0 s.slowerSize.toNat 64 used n
def fitStore (used : List (Nat × Nat)) (n : Nat) : Option Nat := freePlace storeBase storeSize 512 used n

/-- One entry copied out to its place in the slower tier (R83, R85): whether its plaits and its check hold. -/
def State.copyOut (s : State) (x : Nat × DirEntry) : Bool × State :=
  let d := x.2
  let (ok, s) := s.readHbm [] d.location d.length
  let bs := s.peekN d.location d.length
  if !ok || !segmentOk d bs then (false, s)
  else
    let salt := s.enc.salt.toNat
    (true, (s.tierWrite d.key x.1 bs).setEntry { d with slower := true, location := x.1, salt := salt })

/-- One entry copied in to its place in the weft store (R85): whether its tag, its plaits and its check hold. -/
def State.copyIn (s : State) (x : Nat × DirEntry) : Bool × State :=
  let d := x.2
  let s := s.hostMoved false (s.tierAddr d.location) (d.length + 16) ingestRank
  match (s.tierOpen d.key d.salt d.location d.length).filter (segmentOk d) with
  | none => (false, s)
  | some bs => (true, (s.writeHbm x.1 bs).2.setEntry { d with slower := false, location := x.1, salt := 0 })

/-- Entries moved one after another until one fails. -/
def moveAll (mv : State → Nat × DirEntry → Bool × State) : List (Nat × DirEntry) → State → Bool × State
  | [], s => (true, s)
  | d :: r, s =>
    let (ok, s) := mv s d
    if ok then moveAll mv r s else (false, s)

/-- A move of a shard's entries between the tiers (R85): refused while a context of the model is resident, or where they do not all fit or the
salts do not suffice; nothing is changed then (R307). Residency, salts, space and integrity are judged in this order (DESIGN CHOICE, log entry 98). -/
def State.moveTier (s : State) (o : EncOp) : State :=
  let out := decide (o.phase = .copyOut)
  let l := (s.entriesOf o.model o.epoch).filter (fun d => d.slower ≠ out)
  let plan := if out then movePlan s.fitSlower 16 s.slowerUsed l else movePlan fitStore 0 (storeUsed s.enc.dir) l
  if s.ctxs.any (fun x => x.2.isRes && x.2.model = o.model) then s.encDone o stBusy
  else if out && decide (0xFFFFFFFF < s.enc.salt.toNat + l.length) then s.encFail o 3 0x0604 stNoResource
  else match plan with
    | none => s.encFail o 2 0x0603 stNoResource
    | some places =>
      let (ok, s) := moveAll (if out then State.copyOut else State.copyIn) places s
      let s := forAll (List.finRange 4) (fun p s => s.modRim p (Rim.forget (fun key => l.any (fun d => d.key = key)))) s
      if !ok then s.encFail o 0 0x0601 stIntegrity
      else
        ({ s with enc := { s.enc with shards := s.enc.shards.map (fun (k : Shard) =>
          if k.model = o.model && k.epoch = o.epoch then { k with slower := out } else k) } } : State).encDone o stOk

/-- TIER_MOVE_DONE (R85): the move is carried out; `ok` tells that host memory answered every request (R294). -/
def execTierMoveDone (ok : Bool) (s : State) : Host.Outcome State Fault Refusal :=
  .next (
    match s.enc.ops with
    | o :: _ =>
      if s.stopped || !(o.phase = .copyOut || o.phase = .copyIn) then s
      else if !ok || s.vcl.st ≠ .up then s.hostFailed.encDone o stHostIo 0 0 0x0803
      else s.moveTier o
    | [] => s)

end Sys2Proof.Machine
end

