-- ==== Sys2Proof/Machine/Rim.lean ====
section
/-! DEFINITION. The rim as a ring of members (04_rim): forming and dissolving (R95 to R98), frames (R255), forwarding and landing (R100 to R108, R111), table frames (R70 to R72), injection (R65, R100 to R102, R109), repairs and failed reads (R115, R116), and the timers of pairs (R113, R114). -/

namespace Sys2Proof.Machine

/-! Frames and links -/

/-- The links of a mask. -/
def linksOf (m : BitVec 18) : List (Fin 20) := (List.finRange 20).filter (fun l => decide (l.val < 18) && bit m l.val)

/-- The links of the outbound port of a travel direction. -/
def Rim.outLinks (r : Rim) (ccw : Bool) : List (Fin 20) := linksOf (if ccw then r.ccw else r.cw)

/-- A rim frame: its prefix (Table 9.5), its body, and padding to 16 B. -/
def rimFrame (typ : Nat) (body : Bytes) : Bytes := toLe 4 body.length ++ toLe 1 typ ++ List.replicate 11 0 ++ padTo 16 body

/-- The body of a frame. -/
def frameBody (f : Bytes) : Bytes := (f.drop 16).take (leAt f 0 4)
def frameType (f : Bytes) : Nat := leAt f 4 1

/-- Whether a receiver takes a frame (R255). Only the prefix’s rsvd bytes are held to be rsvd fields of the frame, not the reserved bits inside its body
(DESIGN CHOICE, log entry 123). -/
def frameOk (f : Bytes) : Bool :=
  let (len, typ) := (leAt f 0 4, frameType f)
  zeroAt f 5 11 && decide (1 ≤ typ) && decide (typ ≤ 3) && decide (len ≤ 16960) && decide (16 + len ≤ f.length)
    && (if typ = 1 then decide (32 ≤ len) else len = 16)

/-- A frame given to a link. -/
def State.sendFrame (s : State) (l : Fin 20) (f : Bytes) : State := (s.send (.rim l.val f)).toLink l 5 false f

/-- Whether a rim link can take a plait: in UP, its flow control on, at most the last flit of the frame before waiting (R102, R104). -/
def State.rimLinkOn (s : State) (l : Fin 20) : Bool := s.linkFree l 5 && bit s.links[l].fcIn 0

/-- The link that takes the next plait of a direction: round-robin among those whose flow control is on (R102). -/
def State.pickLink (s : State) (p : Fin 4) (ccw : Bool) : Option (Fin 20) :=
  let r := s.rims[p]
  let last := if ccw then r.lastCcw else r.lastCw
  let on := (r.outLinks ccw).filter s.rimLinkOn
  (on.find? (fun l => decide (last < l.val))).or on.head?

/-- A plait sent in a direction on a link, and counted. -/
def State.sendPlait (s : State) (p : Fin 4) (ccw : Bool) (l : Fin 20) (body : Bytes) : State :=
  let s := s.modRim p (fun r => if ccw then { r with lastCcw := l.val } else { r with lastCw := l.val })
  (s.sendFrame l (rimFrame 1 body)).count blkRIM (if ccw then 0x0260 else 0x0258) body.length p.val

/-! Forming (R95, R96) -/

/-- The rim digest (R96). -/
def rimDigest (members : List (BitVec 16)) (deadline gap : Nat) : BitVec 32 :=
  crc32c (toLe 1 members.length ++ members.flatMap (fun m => toLe 2 m.toNat) ++ toLe 4 deadline ++ toLe 2 gap)

/-- The rim of RIM_FORM's parameters, with the defaults of Table 4.1. -/
def State.rimOf (s : State) (p : Fin 4) (t : Taken) (a : RimFormArgs) : Rim :=
  let both := s.parts[p].cores = 16 && a.cw = 0 && a.ccw = 0
  let dl := if a.deadline = 0 then 2000 else a.deadline.toNat
  let gap := if a.gap = 0 then 20 else a.gap.toNat
  { s.rims[p] with
    phase := .forming, n := a.n.toNat, own := a.own.toNat, lead := 0, members := a.members
    cw := if both then 0x7F else a.cw, ccw := if both then 0x3F80 else a.ccw
    deadline := dl, gap := gap, digest := rimDigest a.members dl gap, cmd := some t.id }

/-- What R95 refuses with INVALID. -/
def State.rimBad (s : State) (p : Fin 4) (a : RimFormArgs) (t : Taken) (r : Rim) : Bool :=
  a.rsvd || !s.partIs a.part.toNat || decide (r.n < 2) || decide (64 < r.n) || decide (r.n ≤ r.own) || t.bufLen.toNat ≠ 32 + 2 * r.n
    || r.members.length ≠ r.n || !distinct r.members || r.members.getD r.own 0xFFFF ≠ s.ownEp || r.members.getD r.own 0xFFFF = 0xFFFF
    || (linksOf (r.cw ||| r.ccw)).any (fun l => s.isGeneral l.val || (match s.rimPort l.val with
      | some (q, _) => decide (q ≠ p)
      | none => false))
    || r.cw = 0 || r.ccw = 0 || decide (r.cw &&& r.ccw ≠ 0) || decide (r.deadline < 100) || decide (100000 < r.deadline)
    || decide (r.gap < 5) || decide (1000 < r.gap)

/-- RIM_FORM's buffer (Table 11.7). -/
def rimFormArgs (b : Bytes) : RimFormArgs :=
  { part := BitVec.ofNat 8 (leAt b 0 1), n := BitVec.ofNat 8 (leAt b 1 1), own := BitVec.ofNat 8 (leAt b 2 1)
    cw := BitVec.ofNat 18 (leAt b 4 4), ccw := BitVec.ofNat 18 (leAt b 8 4)
    deadline := BitVec.ofNat 32 (leAt b 12 4), gap := BitVec.ofNat 16 (leAt b 16 2)
    members := (List.range ((b.length - 32) / 2)).map (fun k => BitVec.ofNat 16 (leAt b (32 + 2 * k) 2))
    rsvd := leAt b 3 1 ≠ 0 || decide (2 ^ 18 ≤ leAt b 4 4) || decide (2 ^ 18 ≤ leAt b 8 4) || !zeroAt b 18 14 }

/-- RIM_FORM (R95): the command completes after formation. -/
def execRimForm (h : CmdHdr) (buf : Bytes) (s : State) : Host.Outcome State Fault Refusal :=
  s.cmd h 0x11 [] (fun t s =>
    let a := rimFormArgs buf
    let p : Fin 4 := Fin.ofNat 4 a.part.toNat
    let r := s.rimOf p t a
    let fits := (s.ctxs.filter (fun x => x.2.part = p)).all (fun x => match s.model? x.2.model with
      | some m => decide (r.n * m.nfmt ≤ 128)
      | none => true)
    if s.rimBad p a t r then s.done t stInvalid
    else if s.rims[p].phase ≠ .none then s.done t stBusy
    else if !fits then s.done t stNoResource
    else ({ s with rims := s.rims.set p r } : State).rimRecord p)

/-- A partition that belongs to no rim: the times of the last RIM_FORM stay (R126), and commands that waited for a table go on without it. -/
def State.noRim (s : State) (p : Fin 4) : State :=
  let r := s.rims[p]
  (s.modRim p (fun _ => { deadline := r.deadline, gap := r.gap, waiting := r.waiting, flips := r.flips.map (fun (f : Flip) => { f with reports := [] }) })).retryTables p

/-- RIM_FORM ended without a rim (R96), which the twin learns (R383). -/
def State.formFails (s : State) (p : Fin 4) (status cause : Nat) : State :=
  let c := s.rims[p].cmd
  let s := (s.noRim p).pairRecord "rim dissolved" [p.val]
  match c with
  | some k => s.complete k status 0 0 cause
  | none => s

/-- NEIGHBOUR (R96). -/
def State.neighbour (s : State) (p : Fin 4) : State := (s.stick blkRIM 0x0240 (2 ^ 11) p.val).record blkRIM .none 0x0408

/-- RIM_FORM_TIMEOUT (R96); a seat handed back waits for the end of its hold instead (R395). -/
def execRimFormTimeout (p : Fin 4) (s : State) : Host.Outcome State Fault Refusal :=
  .next (if s.rims[p].phase = .forming && !s.stopped && !s.twin.hold.any (fun t => t.1 = p) then s.formFails p stTimeout 0 else s)

/-- Every shard's table reported to the lead member. -/
def State.reportTables (s : State) (p : Fin 4) : State := forAll s.enc.shards (fun h s => s.reportTable p h.model h.epoch) s

/-! Seats (R388, R389) -/

/-- The seat that this device holds or has taken on a partition. -/
def State.seatHeld (s : State) (p : Fin 4) : Option Nat :=
  ((s.twin.hold.find? (fun t => t.1 = p)).map (fun t => t.2.1)).or ((s.twin.seated.find? (fun t => t.1 = p)).map (·.2))

/-- Whether a seat lies on the counter-clockwise side of this member; for two members both sides lead to it. -/
def Rim.ccwSide (r : Rim) (k : Nat) : Bool := (k + 1) % r.n = r.own

/-- The index that goes out, and the one expected, in hellos of a port: the seat's and the far neighbour's on the side of a seat held. -/
def State.portIndex (s : State) (p : Fin 4) (ccwPort : Bool) : Nat × Nat :=
  let r := s.rims[p]
  let next := fun (i : Nat) => if ccwPort then (i + r.n - 1) % r.n else (i + 1) % r.n
  match s.seatHeld p with
  | some k => if r.ccwSide k = ccwPort then (k, next k) else (r.own, next r.own)
  | none => (r.own, next r.own)

/-- A hello body. -/
def helloBody (idx part : Nat) (digest : BitVec 32) : Bytes := toLe 1 idx ++ toLe 1 part ++ [0, 0] ++ toLe 4 digest.toNat ++ List.replicate 8 0

/-- RIM_HELLO_TIMER (R96): every 100 µs a hello on each link of both ports, until a goodbye has been received (DESIGN CHOICE, log entry 99). -/
def execRimHelloTimer (p : Fin 4) (s : State) : Host.Outcome State Fault Refusal :=
  .next (
    let r := s.rims[p]
    if s.stopped || !(r.phase = .forming || r.phase = .formed) then s
    else
      let go := fun (ccw : Bool) (s : State) =>
        forAll ((r.outLinks ccw).filter (fun l => s.links[l].st = .up)) (fun l s => s.sendFrame l (rimFrame 2 (helloBody (s.portIndex p ccw).1 p.val r.digest))) s
      go true (go false s))

/-! Contexts of a departed twin (R392) -/

/-- The seat partner of a departed context: the twin's context of the same partition, model and weight epoch that has none yet, in order. -/
def State.seatPartner (s : State) (p : Fin 4) (model epoch : Nat) : Option Nat :=
  (s.ctxs.find? (fun y => y.2.part = p && y.2.model = model && y.2.epoch = epoch && y.2.st ≠ .faulted && y.2.partner.isNone
    && !s.ctxs.any (fun z => z.2.partner = some y.1))).map (·.1)

/-- The lead role passes to a member: what was reported to the one before and is not settled is reported anew: the tables, a run start, acceptances of
flips, pinned rows, and the highest step for a switch (R97, R107, R117, R120, R336). -/
def State.leadPasses (s : State) (p : Fin 4) (k : Nat) : State :=
  let s := (s.modRim p (fun r => { r with lead := k, run := r.run.map (fun (u : Run) => { u with sent := u.ready }) })).reportTables p
  let s := s.reportRun p
  let s := forAll (s.rims[p].flips.filter (fun f => f.verdict.isNone)) (fun f s => s.reportFlip p f) s
  let xs := s.ctxs.filter (fun x => x.2.part = p && x.2.st ≠ .faulted)
  let s := forAll xs (fun x s => forAll (x.2.queue.filter (fun w => !w.task && !s.rims[p].duals.any (fun d => d.1 = x.1 && d.2.1 = w.step)))
    (fun w s => s.reportPins x.1 x.2 w.step w.pinned) s) s
  match s.parts[p].switch, s.parts[p].running.bind (fun i => (s.ctx? i).map (fun x => (i, x))) with
  | .awaiting inc _, some (out, x) => s.reportSwitch p out x inc
  | _, _ => s

/-- A context of the twin restored from its committed checkpoint c (R392, R393): program and sync area of the checkpoint, scratchpads zeroed, and the
windows closed. Beside a seat partner, the steps above c up to the partner's armed or last one are replayed; without one the seat itself is this
device's again (R395). -/
def State.restoreWith (s : State) (p : Fin 4) (id : Nat) (a : CtxArgs) (y : Option Nat) : State :=
  match s.twin.ckpts.find? (fun c => c.ctx = id && c.held), (look s.twin.progs id).bind parseProgram with
  | some c, some g =>
    let last := (y.bind s.ctx?).map (fun (z : Ctx) => z.armed.getD (z.cons - 1))
    let x := { newCtx a with prog := some g, partner := y, nextStep := c.step + 1, replay := last.filter (fun d => !stepLe d c.step), img := some { cores := List.replicate s.parts[p].cores (Core.restored, []), sync := c.sync, ghqs := c.ghqs } }
    let s := (s.writeHbm (progAt id) ((look s.twin.progs id).getD [])).2
    match s.residencyOf id x g with
    | some x => (s.setCtx id x).makeResident id x g
    | none => s.setCtx id x
  | _, _ => s

/-- A departed context restored beside its seat partner; one without a partner is not (R392). -/
def State.restoreCtx (s : State) (p : Fin 4) (id : Nat) (a : CtxArgs) : State :=
  match s.seatPartner p a.model.toNat a.epoch.toNat with
  | some y => s.restoreWith p id a (some y)
  | none => s

/-- The contexts that the twin's records name on a partition and this device does not have. -/
def State.twinCtxs (s : State) (p : Fin 4) : List (Nat × CtxArgs) := s.twin.ctxs.filter (fun c => c.2.part.toNat = p.val && (s.ctx? c.1).isNone)

/-- The notice that begins a seat hold, or ends one, to every other member (R389). -/
def State.seatNotices (s : State) (p : Fin 4) (k : Nat) : State :=
  let r := s.rims[p]
  forAll r.others (fun m s => s.sendCtrlMsg m (.seatHold m r.digest k)) s

/-- The twin is double-seated (R389, R390, R392): the hold ends, the lead role passes if the seat had it, and the departed contexts are restored. -/
def State.beginSeat (s : State) (p : Fin 4) (k : Nat) : State :=
  let r := s.rims[p]
  let s : State := { s with twin := { s.twin with
    hold := s.twin.hold.filter (fun t => t.1 ≠ p), seated := s.twin.seated ++ [(p, k)] } }
  let s := if ((s.parts[p].running.bind s.ctx?).bind (·.armed)).isNone then s.halve p else s.loseTiming p
  let s := if r.lead = k then s.leadPasses p r.own else s
  -- what was injected during the hold now goes in the other direction
  let done := (r.injected.filter (fun i => i.owner = k)).map (fun i => (i.layer, i.step))
  let s := s.modRim p (fun r => { r with repairs := r.repairs ++ (done.eraseDups).map (fun d => ⟨d.1, d.2, r.ccwSide k, k, 0, false⟩) })
  let s := forAll (s.twinCtxs p) (fun c s => s.restoreCtx p c.1 c.2) s
  let s := (s.count blkTWN 0x0248).seatNotices p k
  s.raiseVec 68

/-- A seat handed back taken (R395): the hold ends, and the contexts of the seat run here again. -/
def State.regainSeat (s : State) (p : Fin 4) : State :=
  if !s.twin.hold.any (fun t => t.1 = p) then s
  else
    let s : State := { s with twin := { s.twin with hold := s.twin.hold.filter (fun t => t.1 ≠ p) } }
    let s := forAll (s.twinCtxs p) (fun c s => s.restoreWith p c.1 c.2 none) s
    (s.seatNotices p s.rims[p].own).raiseVec 68

/-- The rim is formed: the lead member gets every shard's table, and the flips accepted before; a seat handed back is taken (R395). -/
def State.rimFormed (s : State) (p : Fin 4) : State :=
  let c := s.rims[p].cmd
  let s := s.modRim p (fun r => { r with phase := .formed, cmd := none })
  let s := match c with
    | some k => s.complete k stOk s.rims[p].lead 0 0
    | none => s
  let s := s.regainSeat p
  let s := s.reportTables p
  forAll (s.rims[p].flips.filter (fun f => f.verdict.isNone)) (fun f s => s.reportFlip p f) s

/-- The links of a mask that count as links of their port: those whose handshake has completed (R105). -/
def State.linksUp (s : State) (m : BitVec 18) : BitVec 18 :=
  (linksOf m).foldl (fun a l => if s.links[l].st = .up then a ||| (1#18 <<< l.val) else a) 0

/-- Whether hellos have come on every link of some ports, each of which has one (R96, R105). -/
def State.heardAll (s : State) (heard : BitVec 18) (ports : List (BitVec 18)) : Bool :=
  ports.all (fun m => let up := s.linksUp m; decide (up ≠ 0) && decide (heard &&& up = up))

/-- RIM_HELLO_FRAME (R96, R389). -/
def execRimHelloFrame (l : Fin 20) (frame : Bytes) (s : State) : Host.Outcome State Fault Refusal :=
  .next (
    match s.rimPort l.val with
    | some (p, ccwPort) =>
      if s.stopped || s.links[l].st ≠ .up || (frameOk frame && frameType frame ≠ 2) then s
      else
        let s := s.rxDrain l 5 frame.length
        if !frameOk frame then s.frameBad p
        else
          let r := s.rims[p]
          let b := frameBody frame
          let good := leAt b 0 1 = (s.portIndex p ccwPort).2 && leAt b 4 4 = r.digest.toNat
          match r.phase with
          | .forming =>
            if !good then (if s.twin.hold.any (fun t => t.1 = p) then s.neighbour p else (s.neighbour p).formFails p stInvalid 0x0408)
            else
              let heard := r.heard ||| (1#18 <<< l.val)
              let s := s.modRim p (fun r => { r with heard := heard })
              if s.heardAll heard [r.cw, r.ccw] then s.rimFormed p else s
          | .formed =>
            if !good then s.neighbour p
            else match s.twin.hold.find? (fun t => t.1 = p) with
              | some (_, k, _) =>
                let side := if r.ccwSide k then r.ccw else r.cw
                let heard := r.heard ||| (1#18 <<< l.val)
                let s := s.modRim p (fun r => { r with heard := heard })
                if bit side l.val && s.heardAll heard [side] then s.beginSeat p k else s
              | none => s
          | _ => s
    | none => s)

/-! Goodbye and dissolving (R98) -/

/-- A goodbye taken in the formed state. -/
def State.goodbye (s : State) (p : Fin 4) : State :=
  let s := (s.stick blkRIM 0x0240 (2 ^ 14) p.val).modRim p (fun r => { r with phase := .dissolving })
  let hit := (s.ctxs.filter (fun x => x.2.part = p && x.2.armed.isSome && x.2.st ≠ .faulted)).map (·.1)
  let s := if hit.isEmpty then s.record blkRIM .none 0x040B else s
  let s := forAll hit (fun x s => s.faultCtx x blkRIM 0x040B) s
  forAll (s.ctxs.filter (fun x => x.2.part = p && x.2.st ≠ .faulted)) (fun x s =>
    let steps := x.2.queue.filter (fun w => !w.task)
    let s := s.modCtx x.1 (fun c => { c with queue := c.queue.filter (·.task) })
    forAll steps (fun w s => s.finishWork w stInvalid w.step.toNat 0 0x040B) s) s

/-- RIM_GOODBYE_FRAME (R96, R98). -/
def execRimGoodbyeFrame (l : Fin 20) (frame : Bytes) (s : State) : Host.Outcome State Fault Refusal :=
  .next (
    match s.rimPort l.val with
    | some (p, _) =>
      if s.stopped || s.links[l].st ≠ .up || (frameOk frame && frameType frame ≠ 3) then s
      else
        let s := s.rxDrain l 5 frame.length
        if !frameOk frame then s.frameBad p
        else match s.rims[p].phase with
          | .forming => (s.neighbour p).formFails p stInvalid 0x0408
          | .formed => s.goodbye p
          | _ => s
    | none => s)

/-- RIM_DISSOLVE (R98). -/
def execRimDissolve (h : CmdHdr) (part : BitVec 8) (s : State) : Host.Outcome State Fault Refusal :=
  s.cmd h 0x12 [(16, part.toNat)] (fun t s =>
    let p : Fin 4 := Fin.ofNat 4 part.toNat
    let r := s.rims[p]
    if !s.partIs part.toNat || r.phase = .none then s.done t stInvalid
    else if s.ctxs.any (fun x => x.2.part = p && x.2.isRes) then s.done t stBusy
    else
      let s := forAll ((r.outLinks false ++ r.outLinks true).filter (fun l => s.links[l].st = .up)) (fun l s =>
        s.sendFrame l (rimFrame 3 (helloBody r.own p.val 0))) s
      ((s.noRim p).pairRecord "rim dissolved" [p.val]).done t stOk)

/-! Landing (R101, R103, R106 to R108, R111, R112) -/

/-- Discards of R101, R108 and R119. -/
def State.rimDiscard (s : State) (p : Fin 4) (b : Nat) : State :=
  ((s.stick blkRIM 0x0240 (2 ^ b) p.val).count blkRIM 0x0298 1 p.val).record blkRIM .none 0x0407

/-- A stale plait (R72): it counts as missing. -/
def State.stale (s : State) : State := ((s.stick blkWEF 0x0200 16).count blkWEF 0x0218).record blkWEF .c 0x0505

/-- Landed plaits that wait for a generation of a slot, once it has been loaded (R72): those of that generation count a reference, others are
stale. -/
def State.wakeWaiting (s : State) (p : Fin 4) (slot gen : Nat) : State :=
  let waits := fun (d : Landed) => let h := hdrOf d.bytes; d.kept && !d.refs && h.kind = 0 && !h.free && h.tslot = slot
  let mine := s.rims[p].landed.filter (fun d => waits d && (hdrOf d.bytes).tgen = gen)
  let old := s.rims[p].landed.filter (fun d => waits d && (hdrOf d.bytes).tgen ≠ gen)
  -- the member's own plaits that wait in an expander's buffer count from now on (R75)
  let own := fun (u : Buffered) => let h := hdrOf u.bytes; u.own && u.ref.isNone && !h.free && s.tableOf p h = some (slot, gen)
  let n := ((s.coresOf p).map (fun c => (s.cores[c].xbuf.filter own).length)).sum
  let s := forAll (s.coresOf p) (fun c s =>
    s.modCore c (fun k => { k with xbuf := k.xbuf.map (fun (u : Buffered) => if own u then { u with ref := some slot } else u) })) s
  let s := s.setTslot p slot { s.tslot p slot with refs := (s.tslot p slot).refs + mine.length + n }
  let s := s.modRim p (fun r => { r with landed := r.landed.map (fun (d : Landed) => if mine.contains d then { d with refs := true } else d) })
  forAll old (fun d s =>
    let h := hdrOf d.bytes
    let copy := fun (u : Buffered) => !u.own && samePlait u.bytes d.bytes
    let s := forAll (s.coresOf p) (fun c s => s.modCore c (fun k => { k with xbuf := k.xbuf.filter (fun u => !copy u) })) s
    let same := fun (k : Ident) => decide ({ k with step := 0 } = identOf h 0) && decide (fld k.step 0 16 = h.step16)
    ((s.dropLanded p (· = d)).modRim p (fun r => { r with kept := r.kept.filter (fun k => !same k) })).stale) s

/-- A table frame that names a slot, loaded or refused (R70, R71). The answer tells whether it was loaded. -/
def State.loadTable (s : State) (p : Fin 4) (frame : Bytes) (slot gen : Nat) : Bool × State :=
  let h := hdrOf frame
  match frameTable frame with
  | none => (false, (s.stick blkWEF 0x0200 8).record blkWEF .c 0x0504)
  | some lens =>
    if 0 < (s.tslot p slot).refs then (false, (s.stick blkWEF 0x0200 4).record blkWEF .none 0x0503)
    else
      let s := s.setTslot p slot { gen := BitVec.ofNat 2 gen, loaded := true, refs := 0, format := h.format, lens := lens }
      (true, s.wakeWaiting p slot gen)

/-- Room for a plait in landing: the buffer's share first, then the ring; none when the ring is full (R106, R111). -/
def State.landRoom (s : State) (p : Fin 4) (n : Nat) : Option Bool :=
  let r := s.rims[p]
  let used := ((r.landed.filter (fun d => !d.inRing)).map (fun d => d.bytes.length)).sum
  if used + n ≤ 524288 * s.parts[p].cores then some false
  else if r.ringUsed + n ≤ s.ringBytes p then some true else none

/-- A free place in the ring for a plait; the spec gives the ring no layout (DESIGN CHOICE, log entry 118). -/
def State.ringPlace (s : State) (p : Fin 4) (n : Nat) : Nat :=
  let used := (s.rims[p].landed.filter (·.inRing)).map (fun d => (d.place, d.bytes.length))
  (freePlace 0 (s.ringBytes p) 64 used n).getD 0

/-- A landed plait put in its place; one that meets a line of the ring that cannot be written is not kept (R377, Table 14.2). -/
def State.putLanded (s : State) (p : Fin 4) (d : Landed) : State :=
  let n := d.bytes.length
  let (ok, s) := if d.inRing then s.writeHbm (s.ringBase p + d.place) d.bytes else (true, s)
  let s := s.modRim p (fun r =>
    let used := if d.inRing then r.ringUsed + n else r.ringUsed
    { r with landed := r.landed ++ [d], ringUsed := used, ringPeak := max r.ringPeak used })
  if ok then s else s.giveUp p d

/-- Whether, and with what reference, a plait that passed CHECK is kept for the cores (R106 to R108, R117, R70 to R72). The answers: kept for this
member's cores, for those of a seat taken that the copy serves (R390), and whether it counts a reference. -/
def State.judge (s : State) (p : Fin 4) (b : Bytes) (ccw : Bool) (cover : Bool × Bool) : (Bool × Bool) × Bool × State :=
  let no : Bool × Bool := (false, false)
  let h := hdrOf b
  let cs := (s.rimCtxs p).filter (fun c => c.2.model = h.model)
  let inWin := cs.filter (fun c => inWindow c.2.cons (stepOfPlait c.2 h))
  match inWin.find? (fun c => (s.epochsAt c.1 c.2 (stepOfPlait c.2 h)).contains h.epoch) with
  | none => (no, false, if inWin.isEmpty then s.rimDiscard p 7 else s.rimDiscard p 6)
  | some (id, x) =>
    let t := stepOfPlait x h
    let i := identOf h t
    let r := s.rims[p]
    let j : Ident := { i with seat := true }
    let mine := cover.1 && !r.kept.contains i && !s.seatDone false id x t h.owner h.layer
    let seat := cover.2 && s.twoHalves p && !r.kept.contains j && !s.seatDone true id x t h.owner h.layer
    if !mine && !seat then (no, false, s)
    else if 2 ≤ h.kind then (no, false, ((s.stick blkWEF 0x0200 2).record blkWEF .c 0x0502).corrupt p h ccw)
    else
      let note := fun (s : State) => s.modRim p (fun r => { r with kept := r.kept ++ (if mine then [i] else []) ++ (if seat then [j] else []) })
      if h.kind = 1 then
        -- the copy for the other seat finds the table loaded
        if r.kept.contains i || r.kept.contains j then (no, false, note s)
        else
          let (ok, s') := s.loadTable p b h.tslot h.tgen
          if ok then (no, false, note s')
          else (no, false, if (frameTable b).isNone then s'.corrupt p h ccw else s')
      else if h.free then ((mine, seat), false, note s)
      else match s.genState p h.tslot h.tgen with
        | 0 => ((mine, seat), true, note (s.setTslot p h.tslot { s.tslot p h.tslot with refs := (s.tslot p h.tslot).refs + 1 }))
        | 1 => ((mine, seat), false, note s)
        | _ => (no, false, s.stale)

/-- A plait landed (R106, R111, R112): it is verified, judged, and keeps its space while it is kept or held for forwarding; `cover` tells which
seats the copy serves. -/
def State.land (s : State) (p : Fin 4) (b : Bytes) (held ccw : Bool) (cover : Bool × Bool := (true, false)) : State :=
  match s.landRoom p b.length with
  | none => (s.stick blkRIM 0x0240 (2 ^ 10) p.val).partFault p blkRIM 0x0405
  | some ring =>
    let (kept, ref, s) :=
      if checkPasses b then s.judge p b ccw cover
      else ((false, false), false, ((s.stick blkRIM 0x0240 1 p.val).record blkRIM .c 0x0401).corrupt p (hdrOf b) ccw)
    if kept.1 || kept.2 || held then s.putLanded p ⟨b, held, ccw, kept.1 || kept.2, ref, ring, kept.1, kept.2, s.ringPlace p b.length⟩ else s

/-- What follows a landing: layers may be finished, and instructions that wait for a plait that cannot come fault. -/
def State.afterLanding (s : State) (p : Fin 4) : State := forAll (s.coresOf p) (fun c s => s.faultMissing c) (s.settleRim p)

/-- The seats of this device that an arriving copy serves, and how many they are (R390): its own, and a seat taken if the copy's remaining hops reach
it; with one hop left only the first on its path. -/
def State.seatsServed (s : State) (p : Fin 4) (hop : Nat) (ccw : Bool) : (Bool × Bool) × Nat :=
  match s.twin.seated.find? (fun t => t.1 = p) with
  | none => ((true, false), 1)
  | some (_, k) => if 2 ≤ hop then ((true, true), 2) else if s.rims[p].ccwSide k ≠ ccw then ((false, true), 1) else ((true, false), 1)

/-- A plait frame that arrives (R101, R103): checked, forwarded if it goes on, and landed for the seats of this device on its path (R390). -/
def State.plaitArrives (s : State) (p : Fin 4) (ccw : Bool) (b : Bytes) : State :=
  let h := hdrOf b
  let r := s.rims[p]
  let seat := (s.twin.seated.find? (fun t => t.1 = p)).map (·.2)
  if h.hop = 0 || h.owner = r.own || some h.owner = seat || h.dir ≠ ccw then s.rimDiscard p 8
  else
    let (cover, n) := s.seatsServed p h.hop ccw
    let hop := h.hop - n
    let b := withHop b hop
    if hop = 0 then (s.land p b false ccw cover).afterLanding p
    else match if r.landed.any (fun d => d.forward && d.ccw = ccw) then none else s.pickLink p ccw with
      | some l => ((s.sendPlait p ccw l b).land p b false ccw cover).afterLanding p
      | none => (s.land p b true ccw cover).afterLanding p

/-- PLAIT_FRAME (R106, R255): `busy` cycles the inbound port was receiving. -/
def execPlaitFrame (l : Fin 20) (frame : Bytes) (busy : Nat) (chk : Check) (s : State) : Host.Outcome State Fault Refusal :=
  .next (
    match s.rimPort l.val with
    | some (p, ccwPort) =>
      if s.stopped || s.links[l].st ≠ .up || (frameOk frame && frameType frame ≠ 1) || (chk ≠ .ok && chk ≠ .landing) then s
      else
        let ccw := !ccwPort
        let s := (s.rxDrain l 5 frame.length).count blkRIM (if ccw then 0x0270 else 0x0268) busy p.val
        if !frameOk frame then s.frameBad p
        else
          let b := frameBody frame
          let s := s.count blkRIM (if ccw then 0x0250 else 0x0248) b.length p.val
          if chk = .landing then s.landParity.corrupt p (hdrOf b) ccw else s.plaitArrives p ccw b
    | none => s)

/-- FORWARD_RESUME (R103): a held plait goes on from its landed copy; `off` cycles the link was held off. -/
def execForwardResume (p : Fin 4) (idx : Nat) (l : Fin 20) (off : Nat) (m : MemRead) (s : State) : Host.Outcome State Fault Refusal :=
  .next (
    match s.rims[p].landed[idx]? with
    | some d =>
      if s.stopped || !d.forward || !((s.rims[p].outLinks d.ccw).contains l) || !s.rimLinkOn l || (m.chk ≠ .ok && m.chk ≠ .landing) then s
      else if m.chk = .landing then s.landParity.giveUp p d
      else
        let (ok, s) := s.readLanded p m.errs d
        if !ok then s.giveUp p d
        else
        let s := (s.sendPlait p d.ccw l d.bytes).count blkRIM (if d.ccw then 0x0280 else 0x0278) off p.val
        s.modRim p (fun r =>
          if d.kept then { r with landed := r.landed.set idx { d with forward := false } }
          else { r with landed := r.landed.eraseIdx idx, ringUsed := if d.inRing then r.ringUsed - d.bytes.length else r.ringUsed })
    | none => s)

/-! Injection (R65, R75, R100 to R102, R109) -/

/-- Keys in injection order: strand, then segment; for table frames the format. -/
def sortKeys (l : List Nat) : List Nat :=
  let f := fun (k : Nat) => 1024 * (k / 2 ^ 28 % 2 ^ 12) + k / 2 ^ 40 % 2 ^ 10
  l.foldl (fun l k => l.filter (fun x => f x ≤ f k) ++ [k] ++ l.filter (fun x => f k < f x)) []

/-- The keys of an owner's segments, or frames, of a layer: the directory's for this member, the shadow's for a seat it serves (R390). -/
def State.keysOf (s : State) (p : Fin 4) (owner model epoch layer : Nat) : List Nat :=
  if owner = s.rims[p].own then (s.ownEntries model epoch layer).map (·.key)
  else
    let hits := s.twin.shadow.filter (fun e => e.1 % 2 ^ 16 = model && e.1 / 2 ^ 16 % 2 ^ 12 = layer && e.1 / 2 ^ 50 % 2 ^ 8 = epoch)
    sortKeys (hits.map (·.1))

/-- The run of a context that a step belongs to, and the one before it when the step has a dual verdict: old weight epoch first (R119). A run whose
map is not in place injects nothing, and nothing goes before it. -/
def State.injRuns (s : State) (p : Fin 4) (id : Nat) (t : Word) : List Run :=
  let r := s.rims[p]
  match r.runs.filter (fun u => u.ctx = id && stepLe u.first t) with
  | u :: l => ((if r.dual id t then (l.filter (fun v => v.epoch ≠ u.epoch)).take 1 else []) ++ [u]).takeWhile (·.ready)
  | [] => []

/-- Whether the lead member's verdicts tell which weight epochs a step injects (R118, R120). -/
def State.epochsKnown (s : State) (p : Fin 4) (id : Nat) (x : Ctx) (t : Word) : Bool :=
  let r := s.rims[p]
  (match r.flipOf id with
   | some f => f.verdict.isSome || !(stepLe f.step t)
   | none => true)
  && ((s.pinFlip id x t).isNone || r.duals.any (fun d => d.1 = id && d.2.1 = t))

/-- The layer of a step that the cores work on: the first that is not finished. -/
def State.consAt (s : State) (p : Fin 4) (id : Nat) (x : Ctx) (layers : Nat) : Nat :=
  match x.armed with
  | some t =>
    if s.parts[p].running = some id then s.rims[p].consLayer
    else ((List.range layers).find? (fun l => !s.layerDone p id x t l)).getD layers
  | none => 0

/-- What a context may inject now, in order: step, layer, run (R102, R109). Layers count on across steps; a later step must have been submitted. -/
def State.injPlan (s : State) (p : Fin 4) (id : Nat) (x : Ctx) : List (Word × Nat × Run) :=
  match s.model? x.model with
  | none => []
  | some m =>
    let t := x.cons
    let c := s.consAt p id x m.layers
    let sub := fun (t : Word) => x.queue.any (fun w => !w.task && w.step = t)
    let steps := [(t - 1, m.layers)] ++ (if sub t then [(t, min m.layers (c + 2))] else []) ++ (if sub (t + 1) then [(t + 1, c + 2 - m.layers)] else [])
    (steps.filter (fun st => st.1 = t - 1 || s.epochsKnown p id x st.1)).flatMap (fun st =>
      let runs := s.injRuns p id st.1
      let frames := if st.2 = 0 then [] else (runs.filter (fun u => u.first = st.1)).map (fun u => (st.1, 0xFFF, u))
      frames ++ (List.range st.2).flatMap (fun l => runs.map (fun u => (st.1, l, u))))

/-- The identity of a plait of a segment in a step. -/
def itemIdent (t : Word) (owner key part : Nat) : Ident :=
  ⟨t, key % 2 ^ 16, owner, key / 2 ^ 16 % 2 ^ 12, key / 2 ^ 28 % 2 ^ 12, 16 * (key / 2 ^ 40 % 2 ^ 10) + part, key / 2 ^ 50 % 2 ^ 8, false⟩

/-- The mark that a segment has been injected whole. -/
def segMark (t : Word) (owner key : Nat) : Ident := itemIdent t owner key (2 ^ 20)

/-- The owners this device injects for: itself, and a seat it holds or has taken. -/
def State.injOwners (s : State) (p : Fin 4) : List Nat := s.rims[p].own :: (s.seatHeld p).toList

/-- The next segment to inject: its context, step, run, owner and key. Segments that cannot be read are left out. -/
def State.nextSeg (s : State) (p : Fin 4) : Option (Nat × Word × Run × Nat × Nat) :=
  let r := s.rims[p]
  (s.rimCtxs p).findSome? (fun c =>
    (s.injPlan p c.1 c.2).findSome? (fun q =>
      (s.injOwners p).findSome? (fun o =>
        ((s.keysOf p o c.2.model q.2.2.epoch q.2.1).find? (fun k =>
          !r.injected.contains (segMark q.1 o k) && !r.failed.contains k && !r.fixing.contains k)).map (fun k => (c.1, q.1, q.2.2, o, k)))))

/-- What fetching a stored plait gives. -/
inductive Fetched where
  /-- The plait. -/
  | got (b : Bytes)
  /-- The read failed. -/
  | fail
  /-- Its segment must first be read from the slower tier. -/
  | slow
  /-- The segment has no such plait. -/
  | past
deriving DecidableEq, Repr

/-- The plait of a segment held in bytes. -/
def segPart (bs : Bytes) (part : Nat) : Fetched :=
  let ps := (splitSeg 16 bs).filter (fun b => decide (32 ≤ b.length))
  match ps[part]? with
  | some b => if checkPasses b then .got b else .fail
  | none => .past

/-- A stored plait of an owner fetched for injection (R65, R79, R86); with a segment's first one its segment check is compared (R116). -/
def State.fetch (s : State) (p : Fin 4) (errs : List LineErr) (owner key part : Nat) : Fetched × State :=
  let held := match s.rims[p].slowSeg with
    | some (k, bs) => if k = key then segPart bs part else .slow
    | none => .slow
  if owner ≠ s.rims[p].own then (held, s)
  else
    let (e, s) := if part = 0 then s.dirLookup errs key else (s.enc.dir.find? (fun d => d.key = key), s)
    match e with
    | none => (.fail, s)
    | some d =>
      if d.countM1 < part then (.past, s)
      else if d.slower then (held, s)
      else
        let a := d.location + s.plaitOffset d.location part
        let n := 32 + leNat (s.peekN (a + 18) 2)
        let (ok, s) := s.readHbm errs a n
        let b := s.peekN a n
        (if ok && checkPasses b && (part ≠ 0 || s.segHolds d) then .got b else .fail, s)

/-- A failed read of a segment (R116): what was read of it is given up, so that it is read again; a shadow has no copy to fall back on. -/
def State.segFails (s : State) (p : Fin 4) (owner key : Nat) : State :=
  let s := s.modRim p (fun r => { r with slowSeg := r.slowSeg.filter (fun k => k.1 ≠ key) })
  if owner = s.rims[p].own then s.ownReadFail p key else s.modRim p (fun r => { r with failed := r.failed ++ [key] })

/-- The hop counts of an owner's plait as they leave this device, each none where the copy does not go: a copy that passes the other local seat
first leaves with one hop less, and during a hold a departed seat's copy goes only away from it (R389, R390). -/
def State.hopsOut (s : State) (p : Fin 4) (owner idx : Nat) : Nat × Nat :=
  let r := s.rims[p]
  let (a, b) := hopsOf r.n idx
  let held := s.twin.hold.any (fun t => t.1 = p)
  match s.seatHeld p with
  | none => (a, b)
  | some k =>
    let ccw := r.ccwSide k
    if owner = k then (if ccw then (a - 1, if held then 0 else b) else (if held then 0 else a, b - 1))
    else if held then (a, b)
    else if ccw then (a, b - 1) else (a - 1, b)

/-- A plait stamped and sent in the directions in which it goes, if every one has a link that is on; held-up forwarding comes first (R102). -/
def State.injectOut (s : State) (p : Fin 4) (b : Bytes) (step16 slot gen : Nat) (repair : Bool) (hops : Nat × Nat) : Option State :=
  let r := s.rims[p]
  let link := fun (ccw : Bool) => if r.landed.any (fun d => d.forward && d.ccw = ccw) then none else s.pickLink p ccw
  match (if hops.1 = 0 then some none else (link false).map some), (if hops.2 = 0 then some none else (link true).map some) with
  | some a, some c =>
    let s := match a with
      | some l => s.sendPlait p false l (stamped b step16 slot gen repair hops.1 false)
      | none => s
    some (match c with
      | some l => s.sendPlait p true l (stamped b step16 slot gen repair hops.2 true)
      | none => s)
  | _, _ => none

/-- An injected plait's effect on this device: a table frame of its own is loaded (R75), a plait of the other seat lands here as well (R390). -/
def State.injectHere (s : State) (p : Fin 4) (b : Bytes) (owner step16 slot gen : Nat) (repair : Bool) : State :=
  let h := hdrOf b
  if owner ≠ s.rims[p].own then
    let ccw := !(s.rims[p].ccwSide owner)
    (s.land p (stamped b step16 slot gen repair 0 ccw) false ccw (true, true)).afterLanding p
  else if h.kind = 1 then
    let (ok, s') := s.loadTable p b slot gen
    if !ok && (frameTable b).isNone then s'.ownReadFail p (dirKey h.model 0xFFF h.format 0 h.epoch) else s'
  else s

/-- The segments of a repair in their order (R115): those of its layer, and of the frames of the runs that begin with its step. -/
def State.repairKeys (s : State) (p : Fin 4) (id : Nat) (x : Ctx) (q : Repair) : List (Run × Nat) :=
  ((s.injRuns p id q.step).filter (fun u => q.layer ≠ 0xFFF || u.first = q.step)).flatMap (fun u =>
    (s.keysOf p q.owner x.model u.epoch q.layer).map (fun k => (u, k)))

/-- One plait of a repair (R115). -/
def State.injectRepair (s : State) (p : Fin 4) (errs : List LineErr) (q : Repair) : State :=
  let drop := fun (s : State) => s.modRim p (fun r => { r with repairs := r.repairs.drop 1 })
  let next := fun (n : Nat) (s : State) => s.modRim p (fun r => { r with
    repairs := r.repairs.modifyHead (fun (e : Repair) => { e with next := n }), slowSeg := if n % 16 = 0 then none else r.slowSeg })
  match (s.rimCtxs p).find? (fun c => decide ((q.step - c.2.cons + 1).toNat ≤ 4)) with
  | none => drop s
  | some (id, x) =>
    match (s.repairKeys p id x q)[q.next / 16]? with
    | none => drop (if q.flag then s.count blkRIM 0x0290 1 p.val else s)
    | some (u, key) =>
      if s.rims[p].failed.contains key || s.rims[p].fixing.contains key then next (16 * (q.next / 16 + 1)) s
      else match s.fetch p errs q.owner key (q.next % 16) with
        | (.got b, s) =>
          let h := hdrOf b
          let (slot, gen) := s.runSlot u x.model q.owner h.format
          let (a, c) := s.hopsOut p q.owner h.p
          match s.injectOut p b (fld q.step 0 16) slot gen q.flag (if q.ccw then (0, c) else (a, 0)) with
          | some s => next (if q.next % 16 = 15 then 16 * (q.next / 16 + 1) else q.next + 1) s
          | none => s
        | (.fail, s) => s.segFails p q.owner key
        | (.slow, s) => s
        | (.past, s) => next (16 * (q.next / 16 + 1)) s

/-- A segment injected whole: what was read of it from the slower tier is used up, and if it had been mended its repair is done (R115, R116). -/
def State.segDone (s : State) (p : Fin 4) (t : Word) (owner key : Nat) : State :=
  let s := if s.rims[p].mended.contains key then s.count blkRIM 0x0290 1 p.val else s
  s.modRim p (fun r => { r with
    injected := r.injected ++ [segMark t owner key], mended := r.mended.filter (· ≠ key), slowSeg := r.slowSeg.filter (fun k => k.1 ≠ key) })

/-- INJ_LAYER: the highest layer injected of the latest step injected of the context (Table 4.13; DESIGN CHOICE, log entry 117). -/
def Rim.noteInj (r : Rim) (id : Nat) (t : Word) (layer : Nat) : Rim :=
  match r.injAt with
  | some (i, u) =>
    if i = id && t = u then { r with injLayer := max r.injLayer layer }
    else if i = id && stepLe t u then r
    else { r with injAt := some (id, t), injLayer := layer }
  | none => { r with injAt := some (id, t), injLayer := layer }

/-- The next plait of a segment that is being injected. -/
def State.injectNext (s : State) (p : Fin 4) (errs : List LineErr) : State :=
  match s.nextSeg p with
  | none => s
  | some (id, t, u, owner, key) =>
    let r := s.rims[p]
    let part := ((List.range 16).find? (fun i => !r.injected.contains (itemIdent t owner key i))).getD 16
    let mark := fun (i : Ident) (s : State) => s.modRim p (fun r => { r with injected := r.injected ++ [i] })
    if 16 ≤ part then s.segDone p t owner key
    else match s.fetch p errs owner key part with
      | (.got b, s) =>
        let h := hdrOf b
        let (slot, gen) := s.runSlot u h.model owner h.format
        let repair := r.mended.contains key
        match s.injectOut p b (fld t 0 16) slot gen repair (s.hopsOut p owner h.p) with
        | some s =>
          let s := (mark (itemIdent t owner key part) s).modRim p (fun r => { r with
            reread := r.reread.filter (· ≠ key) })
          let s := if h.kind = 1 then s else s.modRim p (fun r => r.noteInj id t h.layer)
          let whole := match (s.enc.dir.find? (fun d => d.key = key)) with
            | some d => owner = s.rims[p].own && d.countM1 ≤ part
            | none => false
          (if whole then s.segDone p t owner key else s).injectHere p b owner (fld t 0 16) slot gen repair
        | none => s
      | (.fail, s) => s.segFails p owner key
      | (.slow, s) => s
      | (.past, s) => s.segDone p t owner key

/-- The owner and key of the segment that injection is at: a repair's before any other. -/
def State.injSeg (s : State) (p : Fin 4) : Option (Nat × Nat) :=
  match s.rims[p].repairs with
  | q :: _ =>
    match (s.rimCtxs p).find? (fun (c : Nat × Ctx) => decide ((q.step - c.2.cons + 1).toNat ≤ 4)) with
    | some (id, x) =>
      ((s.repairKeys p id x q)[q.next / 16]?).map (fun (k : Run × Nat) => (q.owner, k.2))
    | none => none
  | [] => match s.nextSeg p with
    | some (_, _, _, owner, key) => some (owner, key)
    | none => none

/-- PLAIT_INJECT (R102): repairs go before plaits in their order. -/
def execPlaitInject (p : Fin 4) (errs : List LineErr) (chk : Check) (s : State) : Host.Outcome State Fault Refusal :=
  .next (
    if s.stopped || s.rims[p].phase ≠ .formed || (chk ≠ .ok && chk ≠ .cache) then s
    else
      let s := if chk = .cache then s.cacheParity ((s.injSeg p).map (·.2)) else s
      match s.rims[p].repairs with
      | q :: _ => s.injectRepair p errs q
      | [] => s.injectNext p errs)

/-- The segment in the slower tier that injection waits for. -/
def State.slowWanted (s : State) (p : Fin 4) : Option (Nat × Nat) :=
  (s.injSeg p).filter (fun (w : Nat × Nat) => decide (s.rims[p].slowSeg.map (fun (x : Nat × Bytes) => x.1) ≠ some w.2)
    && (w.1 ≠ s.rims[p].own || (s.enc.dir.any (fun (d : DirEntry) => d.key = w.2 && d.slower))))

/-- Where a segment of an owner lies in the slower tier, with its length and salt. -/
def State.slowPlace (s : State) (p : Fin 4) (owner key : Nat) : Option (Nat × Nat × Nat) :=
  if owner = s.rims[p].own then (s.enc.dir.find? (fun d => d.key = key && d.slower)).map (fun d => (d.location, d.length, d.salt))
  else (look s.twin.shadow key).map (fun e => (e.place, e.len, e.salt))

/-- SLOWER_TIER_READ_DONE (R86): a segment read across VCL, decrypted and its tag and segment check verified, or its read (`ok`) or one
of these failed (R116).
A failed check of the security unit's state stops the device (Table 14.1). -/
def execSlowerTierReadDone (p : Fin 4) (ok : Bool) (chk : Check) (s : State) : Host.Outcome State Fault Refusal :=
  .next (
    match s.slowWanted p with
    | none => s
    | some (owner, key) =>
      match s.slowPlace p owner key with
      | none => if s.stopped then s else s.segFails p owner key
      | some (a, n, salt) =>
        if s.stopped || (ok && s.vcl.st ≠ .up) || (chk ≠ .ok && chk ≠ .security) then s
        else if chk = .security then s.stopDevice blkSEC 0x0107
        else if !ok then s.hostFailed.segFails p owner key
        else
          let s := s.hostMoved false (s.tierAddr a) (n + 16) 1
          let bad := fun (bs : Bytes) => owner = s.rims[p].own && (s.enc.dir.any (fun d => d.key = key && d.slower && segCheck (splitSeg (d.countM1 + 1) bs) != d.check))
          match (s.tierOpen key salt a n).filter (fun bs => !bad bs) with
          | some bs => s.modRim p (fun r => { r with slowSeg := some (key, bs) })
          | none => s.segFails p owner key)

/-- The segment, or frame, of a key made anew from a retained model package (R116): signature, manifest, tag and digest verified again. -/
def State.remake (s : State) (sh : Shard) (key : Nat) (buf : Bytes) : Option StoreItem :=
  let man := buf.take (leAt buf 8 4)
  let a := ingestArgs (s.publisherOf sh.model) (BitVec.ofNat 16 sh.model) (BitVec.ofNat 8 sh.epoch) 0 (BitVec.ofNat 8 sh.n) (BitVec.ofNat 8 sh.k) man
  let (bs, ok) := s.openShard sh.model sh.epoch sh.n sh.k a.nonce a.digest (buf.drop man.length)
  if manifestBad a buf.length || !a.sigOk || !ok then none
  else match (s.model? sh.model).bind (fun m => (parseShard sh.n sh.k bs).filter (recordsFit m)) with
    | none => none
    | some l =>
      let o : EncOp :=
        { phase := .pass2, cmd := 0, opcode := 0, model := sh.model, epoch := sh.epoch, n := sh.n, k := sh.k, retain := none, ctLen := 0, checks := []
          nonce := [], digest := [], records := l }
      (tableItems o ++ segmentItems o).find? (fun i => i.key = key)

/-- REPAIR_INGEST_DONE (R116): the retained package, if its read did not fail, has been ingested again. The failed segment is written anew and goes
out with REPAIR, or the owner gives it up. -/
def execRepairIngestDone (p : Fin 4) (pkg : Option Package) (s : State) : Host.Outcome State Fault Refusal :=
  .next (
    match s.rims[p].fixing with
    | key :: rest =>
      if s.stopped then s
      else
        let sh := s.shardOf (key % 2 ^ 16) (key / 2 ^ 50 % 2 ^ 8)
        let at_ := ((sh.bind (·.retain)).map (·.1)).getD 0
        let s := (s.stick blkRIM 0x0240 8 p.val).modRim p (fun r => { r with fixing := rest })
        let s := match pkg with
          | some b => s.hostMoved false (hostBase + at_) b.bytes.length ingestRank
          | none => s.hostFailed
        let give := fun (s : State) => ((s.stick blkRIM 0x0240 4 p.val).record blkRIM .none 0x0403).modRim p (fun r => { r with failed := r.failed ++ [key] })
        match s.enc.dir.find? (fun d => d.key = key), pkg.bind (fun b => sh.bind (fun h => s.remake h key b.bytes)) with
        | some d, some i =>
          match freePlace storeBase storeSize 512 (storeUsed s.enc.dir) d.length with
          | some a =>
            if i.check = d.check && i.bytes.length = d.length then
              let s := (s.writeHbm a i.bytes).2.setEntry { d with slower := false, location := a, salt := 0 }
              let again := fun (r : Rim) (k : Ident) =>
                stepLe r.step k.step && (List.range 17).any (fun j => decide (k = itemIdent k.step r.own key (if j = 16 then 2 ^ 20 else j)))
              s.modRim p (fun r => { r with mended := r.mended ++ [key], injected := r.injected.filter (fun k => !again r k) })
            else give s
          | none => give s
        | _, _ => give s
    | [] => s)

/-! Timers of pairs (R113, R114) -/

/-- Whether the timers of a partition run: its context runs, and no seat hold stands (R114, R389). -/
def State.timersRun (s : State) (p : Fin 4) : Bool :=
  !s.stopped && s.rims[p].phase = .formed && !s.rims[p].paused && !s.twin.hold.any (fun t => t.1 = p) && !s.twin.notices.any (fun t => t.1 = p && !s.isTime t.2.2)

/-- GAP_TIMER_EXPIRY (R113). -/
def execGapTimerExpiry (p : Fin 4) (owner layer : Nat) (s : State) : Host.Outcome State Fault Refusal :=
  .next (
    let r := s.rims[p]
    match s.rimStep p with
    | some (id, x, _, t) =>
      if !s.timersRun p || !r.timers.contains (owner, layer) || s.pairDone id x t owner layer then s
      else
        let s := (s.stick blkRIM 0x0240 2 p.val).record blkRIM .c 0x0402 (s.errCtx (some id))
        let opp := decide (2 * ((r.own + r.n - owner) % r.n) = r.n)
        let dirs := if opp then [false, true] else [!r.reaches owner 0 false]
        let recent := fun (ccw : Bool) => r.gapSent.any (fun a => a.owner = owner && a.layer = layer && a.ccw = ccw
          && decide ((s.podTime - a.at_).toNat < 1000 * r.gap))
        forAll (dirs.filter (fun d => !recent d)) (fun ccw s =>
          (s.sendRereq p owner layer t ccw).modRim p (fun r => { r with
            gapSent := r.gapSent.filter (fun a => !(a.owner = owner && a.layer = layer && a.ccw = ccw)) ++ [⟨owner, layer, ccw, s.podTime⟩] })) s
    | none => s)

/-- SHARD_DEADLINE_EXPIRY (R114). -/
def execShardDeadlineExpiry (p : Fin 4) (owner layer : Nat) (s : State) : Host.Outcome State Fault Refusal :=
  .next (
    match s.rimStep p with
    | some (id, x, _, t) =>
      if !s.timersRun p || !s.rims[p].timers.contains (owner, layer) || s.pairDone id x t owner layer then s
      else (s.stick blkRIM 0x0240 16 p.val).faultCtx id blkRIM 0x0404
    | none => s)

end Sys2Proof.Machine
end

