-- ==== Sys2Proof/Machine/Twin.lean ====
section
/-! DEFINITION. The twin (R382 to R395): pairing and its records, shadows, checkpoints, heartbeats and departure, seat holds, detaching and handing back. -/

namespace Sys2Proof.Machine

/-- Whether a twin link is in UP. -/
def State.twinUp (s : State) (l : Fin 2) : Bool := s.links[18 + l.val].st = .up
def State.anyTwinUp (s : State) : Bool := s.twinUp 0 || s.twinUp 1

/-! Pairing (R382, R386) -/

/-- A TWIN_PAIR that ends without a pairing. -/
def State.pairFails (s : State) (status : Nat) : State :=
  let c := s.twin.cmd
  let s : State := { s with twin := { s.twin with st := if s.twin.seated.isEmpty then .unpaired else .departed, cmd := none } }
  match c with
  | some k => s.complete k status 0 0 0
  | none => s

/-- Everything the twin must know once paired: the rims, contexts and program images that exist (R383). -/
def State.sendRecords (s : State) : State :=
  let s := forAll (List.finRange 4) (fun p s => if s.rims[p].phase = .none then s else s.rimRecord p) s
  forAll (s.ctxs.map (·.1)) (fun x s => (s.ctxRecord x).programRecord x) s

/-- The twin's request judged (R382, R386). -/
def State.judgePair (s : State) (q : PairRequest) : State :=
  let theirs := natRegions q.regions
  let clash := s.ctxs.any (fun x => q.ctxs.contains (BitVec.ofNat 16 x.1) || regionsMeet x.2.regions theirs)
  let mine := (s.ctxs.map (fun x => ckptBytes x.2.regions)).sum
  let hers := 147456 * q.ctxs.length + ((theirs.filter (fun g => inHbm g.1 g.2)).map (·.2)).sum
  let s : State := { s with twin := { s.twin with request := none } }
  if q.shape.toNat ≠ s.shape.toNat || clash then s.pairFails stInvalid
  else if ckptSize < mine || ckptSize < hers then s.pairFails stNoResource
  else
    let c := s.twin.cmd
    let s : State := { s with twin := { s.twin with
      st := .paired, partner := s.twin.target, cmd := none, lastHb := s.podTime, rims := s.twin.rims.filter (fun t => s.twin.seated.contains (t.part, t.own)), ctxs := [], progs := [], sending := [], deferred := [], dirty := [], outgoing := []
      whole := (s.ctxs.filter (fun x => x.2.interval = 0)).map (·.1), firsts := (s.ctxs.filter (fun x => x.2.interval ≠ 0)).map (·.1) } }
    let s := match c with
      | some k => s.complete k stOk 0 0 0
      | none => s
    s.sendRecords

/-- The twin's request is judged once both sides have asked: it must name this device, come from the serial named, and be at most 10 ms old. -/
def State.tryPair (s : State) : State :=
  match s.twin.request with
  | some (q, at_) =>
    if s.twin.st = .pairing && q.serial = s.twin.target && q.named = s.fuses.serial && decide ((s.podTime - at_).toNat ≤ 10000000) then s.judgePair q else s
  | none => s

/-- TWIN_PAIR (R382). -/
def execTwinPair (h : CmdHdr) (serial : BitVec 64) (s : State) : Host.Outcome State Fault Refusal :=
  s.cmd h 0x60 [(24, serial.toNat)] (fun t s =>
    let up := (List.finRange 2).filter s.twinUp
    let named := up.all (fun l => (s.links[18 + l.val].partner.map (·.serial)) = some serial)
    if serial = 0 || serial = s.fuses.serial || up.isEmpty || !named then s.done t stInvalid
    else if !(s.twin.st = .unpaired || (s.twin.st = .departed && !s.twin.seated.isEmpty)) then s.done t stBusy
    else
      let s : State := { s with twin := { s.twin with
        st := .pairing, target := serial, cmd := some t.id, deadline := s.podTime + 10000000 } }
      let s := s.sendTwin "pairing request" ([s.fuses.serial.toNat, serial.toNat, s.shape.toNat] ++ s.ctxs.map (·.1)
        ++ s.ctxs.flatMap (fun x => x.2.regions.flatMap (fun g => [g.1, g.2])))
      s.tryPair)

/-- PAIRING_REQUEST_RX (R382): it waits for this device's own TWIN_PAIR. -/
def execPairingRequestRx (r : PairRequest) (s : State) : Host.Outcome State Fault Refusal :=
  .next (
    if s.stopped || !s.anyTwinUp then s
    else ({ s with twin := { s.twin with request := some (r, s.podTime) } } : State).tryPair)

/-- TWIN_PAIR_TIMEOUT (R382). -/
def execTwinPairTimeout (s : State) : Host.Outcome State Fault Refusal :=
  .next (if s.stopped || s.twin.st ≠ .pairing then s else s.pairFails stTimeout)

/-! Pair records and shadows (R383) -/

/-- SHADOW_RX (R383): a segment or table frame of the twin kept in the slower tier in the form of R83; an empty one removes it. -/
def execShadowRx (key : BitVec 64) (stored : Bytes) (s : State) : Host.Outcome State Fault Refusal :=
  .next (
    if s.stopped || !s.paired || !s.anyTwinUp then s
    else
      let k := key.toNat
      let len := stored.length
      let old := s.twin.shadow.filter (fun e => e.1 ≠ k)
      let s : State := { s with twin := { s.twin with shadow := old } }
      if len = 0 then s
      else
        let s := s.count blkTWN 0x0258 len
        let miss := (s.stick blkTWN 0x0210 16).record blkTWN .none 0x0904
        if s.slowerSize = 0 || s.vcl.st ≠ .up || s.enc.salt = 0xFFFFFFFF || decide (2 ^ 20 ≤ s.twin.shadow.length) then miss
        else match freePlace 0 s.slowerSize.toNat 64 s.slowerUsed (len + 16) with
          | none => miss
          | some a =>
            let count := ((splitSeg 16 stored).filter (fun b => decide (32 ≤ b.length))).length
            let s : State := { s with twin := { s.twin with shadow := insertAt s.twin.shadow k ⟨a, len, count, s.enc.salt.toNat⟩ } }
            s.tierWrite k a stored)

/-! Checkpoints (R385 to R387) -/

/-- The values of a context's sync objects and handle queues as they stand: in the sync unit while it is resident, else in its image (R209, R333). -/
def State.syncArea (s : State) (x : Ctx) : List Word × List (List Word) :=
  let m := x.img.getD {}
  if x.isRes then ((boundObjs x).map s.obj, x.ghqs.map (fun q => (s.ghq q).entries)) else (m.sync, m.ghqs)

/-- A checkpoint of a context begins to be sent: its pages are marked, every one or those written since the last, and its sync area is taken as it stands
(R385 to R387). -/
def State.sendCkpt (s : State) (id : Nat) (t : Word) : State :=
  let full := s.twin.firsts.contains id || s.twin.whole.contains id
  let regions := (((s.ctx? id).map (·.regions)).getD []).filter (fun g => inHbm g.1 g.2)
  let marked := if full then regions.map (fun g => (g.1 / 4096, g.2 / 4096)) else ((look s.twin.dirty id).getD []).map (fun p => (p, 1))
  let area := ((s.ctx? id).map s.syncArea).getD ([], [])
  let s := s.sendTwin "checkpoint" [id, t.toNat, b2n full]
  { s with twin := { s.twin with
    sending := s.twin.sending ++ [(id, t)], firsts := s.twin.firsts.filter (· ≠ id), deferred := s.twin.deferred.filter (· ≠ id)
    whole := s.twin.whole.filter (· ≠ id), dirty := erase s.twin.dirty id, outgoing := insertAt s.twin.outgoing id { marked := marked, sync := area.1, ghqs := area.2 } } }

/-- Where the pages of a checkpoint being sent lie, as they stood at its step's end: in the outgoing area, or in place (R387). -/
def Outgoing.pages (o : Outgoing) : List Nat :=
  o.marked.flatMap (fun m => (List.range m.2).map (fun i => (look o.copies (m.1 + i)).getD (4096 * (m.1 + i))))

/-- The checkpoint that falls due at a step's end; one that meets another still being sent waits for the next boundary (R385 to R387). -/
def State.checkpointDue (s : State) (id : Nat) (t : Word) : State :=
  match s.ctx? id with
  | none => s
  | some x =>
    let due := s.twin.firsts.contains id || s.twin.deferred.contains id || t.toNat % x.interval.toNat = 0
    if !s.paired || x.interval = 0 || !due then s
    else if s.twin.sending.any (fun c => c.1 = id) then
      (({ s with twin := { s.twin with deferred := s.twin.deferred.filter (· ≠ id) ++ [id] } } : State).stick blkTWN 0x0210 32)
    else s.sendCkpt id t

/-- Whether pages lie in a context's HBM regions, each 4 KiB and aligned. -/
def pagesFit (regions : List (Nat × Nat)) (pages : List Nat) : Bool :=
  pages.all (fun g => g % 4096 = 0 && inHbm g 4096 && regions.any (fun r => decide (r.1 ≤ g) && decide (g + 4096 ≤ r.1 + r.2)))

/-- The endpoint id of the twin, from its HELLO (Table 9.9). -/
def State.twinEp (s : State) (l : Fin 20) : BitVec 16 := ((s.links[l].partner).map (·.endpoint)).getD 0xFFFF

/-- A page of a checkpoint sent to the twin (R256, R264, R387): HBM_WRITE packets of at most PKT_MAX bytes, to the page's place in the twin's incoming area. -/
def State.sendPage (s : State) (l : Fin 20) (i : Nat) (bs : Bytes) : State :=
  let max := 64 * (s.fab.banks[s.fab.inj].pktMaxM1.toNat + 1)
  forAll (chunks max bs).zipIdx (fun b s => s.sendPkt (s.twinEp l) 0x0B (BitVec.ofNat 32 ((4096 * i + max * b.2) / 64)) b.1 .obinha none) s

/-- The pages of a checkpoint read and sent, one after another from the start of the twin's incoming area; whether every one could be read: what
cannot be is not sent (R376). -/
def State.sendPages (s : State) (pages : List Nat) : Bool × State :=
  pages.zipIdx.foldl (fun (acc : Bool × State) g =>
    let (ok, s) := acc.2.readHbm [] g.1 4096
    (acc.1 && ok, match s.twinLink with
      | some l => if ok then s.sendPage l g.2 (s.peekN g.1 4096) else s
      | none => s)) (true, s)

/-- The twin's side of a commit: the pages of the incoming area, in the order sent, copied to their own addresses; a checkpoint with a line that cannot
be read is discarded. -/
def State.takeCkpt (s : State) (id : Nat) (step : Word) (bad : Bool) (sync : List Word) (queues : List (List Word)) (pages : List Nat) : State :=
  let (ok, s) := s.readHbm [] ckptBase (4096 * pages.length)
  if bad || !ok then (s.stick blkTWN 0x0210 8).record blkTWN .none 0x0903
  else
    let s := forAll pages.zipIdx (fun g s => (s.writeHbm g.1 (s.peekN (ckptBase + 4096 * g.2) 4096)).2) (s.count blkTWN 0x0240)
    { s with twin := { s.twin with ckpts := s.twin.ckpts.filter (fun c => c.ctx ≠ id) ++ [⟨id, step, true, sync, queues⟩] } }

/-- The sender's side: the marked pages go out, then the sync area with the commit (log entry 68); a corrupt checkpoint is discarded, and the next contains every
page. -/
def State.ckptSent (s : State) (id : Nat) (step : Word) (bad : Bool) : State :=
  let o := (look s.twin.outgoing id).getD { marked := [] }
  let (ok, s) := s.sendPages o.pages
  let bad := bad || o.bad || !ok
  let s : State := { s with twin := { s.twin with sending := s.twin.sending.filter (· ≠ (id, step)), outgoing := erase s.twin.outgoing id } }
  let s := (s.count blkTWN 0x0238 (147456 + 4096 * o.pages.length)).sendTwin "checkpoint commit"
    ([id, step.toNat, b2n bad] ++ o.sync.map (·.toNat) ++ o.ghqs.flatMap (fun q => q.length :: q.map (·.toNat)))
  if bad then { s with twin := { s.twin with whole := s.twin.whole.filter (· ≠ id) ++ [id] } }
  else { s with twin := { s.twin with ckpts := s.twin.ckpts.filter (fun c => c.ctx ≠ id) ++ [⟨id, step, false, [], []⟩] } }

/-- CKPT_COMMIT (R387): the last page of a checkpoint has arrived. `pages` are the addresses of the pages that the twin has in its incoming area; for a
context of this device it is the commit as the sender sees it. -/
def execCkptCommit (ctx : BitVec 16) (step : BitVec 64) (bad : Bool) (sync : List (BitVec 64)) (queues : List (List (BitVec 64)))
    (pages : List Nat) (s : State) : Host.Outcome State Fault Refusal :=
  .next (
    let id := ctx.toNat
    if s.stopped || !(s.paired || s.twin.st = .departed || s.twin.st = .handedOver) then s
    else if s.twin.sending.contains (id, step) then s.ckptSent id step bad
    else match look s.twin.ctxs id, s.ctx? id with
      | _, some _ => s
      | some a, none => if pagesFit (natRegions (ctxRegions a)) pages then s.takeCkpt id step bad sync queues pages else s
      | none, none => s)

/-! Heartbeat and departure (R384, R388, R389) -/

/-- HEARTBEAT_TIMER (R384). -/
def execHeartbeatTimer (s : State) : Host.Outcome State Fault Refusal :=
  .next (
    if s.stopped || !s.paired then s
    else forAll ((List.finRange 2).filter s.twinUp) (fun l s => s.sendCtl (18 + l.castLE (by omega)) "heartbeat" []) s)

/-- HEARTBEAT_RX (R384): whole periods that brought no heartbeat are counted. -/
def execHeartbeatRx (l : Fin 2) (s : State) : Host.Outcome State Fault Refusal :=
  .next (
    if s.stopped || !s.paired || !s.twinUp l then s
    else
      let s := s.count blkTWN 0x0230 ((s.podTime - s.twin.lastHb).toNat / 100000 - 1)
      { s with twin := { s.twin with lastHb := s.podTime } })

/-- The departed twin's seat on a partition, if it is covered (R388). -/
def State.coveredSeat (s : State) (p : Fin 4) : Option Nat :=
  let r := s.rims[p]
  match s.twin.rims.find? (fun t => t.part = p) with
  | some t =>
    if r.phase = .formed && t.members = r.members && t.digest = r.digest && t.own ≠ r.own
        && ((t.own + 1) % r.n = r.own || (r.own + 1) % r.n = t.own) && !s.twin.seated.any (fun q => q.1 = p) then some t.own
    else none
  | none => none

/-- A seat hold begun on a partition (R389); of two members both seats lie here at once. -/
def State.beginHold (s : State) (p : Fin 4) (k : Nat) : State :=
  let s : State := { s with twin := { s.twin with hold := s.twin.hold ++ [(p, k, s.podTime + 250000000)] } }
  let s := s.modRim p (fun r => { r with heard := r.heard &&& ~~~(if r.ccwSide k then r.ccw else r.cw) })
  let s := s.seatNotices p k
  if s.rims[p].n = 2 then s.beginSeat p k else s

/-- The twin has departed (R384): a sticky bit, vector 68, and the seat holds. -/
def State.departed (s : State) (b : Nat) : State :=
  let s := ((s.stick blkTWN 0x0210 b).record blkTWN .none 0x0901).raiseVec 68
  let s : State := { s with twin := { s.twin with st := .departed, sending := [], deferred := [], firsts := [], whole := [], dirty := [], outgoing := [] } }
  forAll (List.finRange 4) (fun p s => match s.coveredSeat p with
    | some k => s.beginHold p k
    | none => s) s

/-- HEARTBEAT_TIMEOUT (R384): 300 µs, three periods, without a heartbeat. -/
def execHeartbeatTimeout (s : State) : Host.Outcome State Fault Refusal :=
  .next (if s.stopped || !s.paired then s else (s.count blkTWN 0x0230 3).departed 1)

/-- DEPARTURE_RX (R379, R384). -/
def execDepartureRx (s : State) : Host.Outcome State Fault Refusal :=
  .next (if s.stopped || !s.paired || !s.anyTwinUp then s else s.departed 2)

/-- The hold that a detach started has ended. -/
def State.endDetach (s : State) : State :=
  match s.twin.detach with
  | some (_, k) => ({ s with twin := { s.twin with detach := none } } : State).complete k stOk 0 0 0
  | none => s

/-- SEAT_HOLD_EXPIRY (R389): the rim's contexts are aborted, and the error is recorded even where none is left. On a device that is leaving, the hold
that its departure began has lapsed (R395). -/
def execSeatHoldExpiry (p : Fin 4) (s : State) : Host.Outcome State Fault Refusal :=
  .next (
    if s.stopped then s
    else if !s.twin.hold.any (fun t => t.1 = p) then
      let left := s.twin.notices.filter (fun t => !(t.1 = p && s.isTime t.2.2))
      if left.length = s.twin.notices.length then s
      else
        let s : State := { s with twin := { s.twin with notices := left } }
        if left.isEmpty then s.endDetach else s
    else
      let s : State := { s with twin := { s.twin with hold := s.twin.hold.filter (fun t => t.1 ≠ p) } }
      let s := s.stick blkTWN 0x0210 4
      let hit := (s.ctxs.filter (fun x => x.2.part = p && x.2.st ≠ .faulted && s.isRimCtx x.2)).map (·.1)
      let s := if hit.isEmpty then s.record blkTWN .k 0x0902 else forAll hit (fun x s => s.faultCtx x blkTWN 0x0902) s
      if s.rims[p].phase = .forming then s.noRim p else s)

/-! Detaching (R395) -/

/-- The pairing ends, and the twin's checkpoints and shadows are discarded (R395); a seat taken before stays. -/
def State.endPairing (s : State) : State :=
  if s.twin.seated.isEmpty then { s with twin := { (({}) : Twin) with lastHb := s.twin.lastHb, notices := s.twin.notices } }
  else { s with twin := { s.twin with st := .departed, ctxs := [], progs := [], ckpts := s.twin.ckpts.filter (fun c => (s.ctx? c.ctx).isSome && !c.held), sending := [], outgoing := [] } }

/-- A seat that the double-seated twin hands back (R395): the rim of its record, a hold, and its notice to every member; hellos on both ports end it
(R389). The times of the rim are not in the record: those of the last RIM_FORM stay (DESIGN CHOICE, log entry 128). -/
def State.takeBack (s : State) (p : Fin 4) (k lead : Nat) : State :=
  match s.twin.rims.find? (fun t => t.part = p && t.own = k) with
  | some t =>
    if s.rims[p].phase ≠ .none then s
    else
      let s := s.modRim p (fun r => { r with
        phase := .forming, n := t.members.length, own := k, lead := lead, members := t.members, cw := t.cw, ccw := t.ccw, digest := t.digest, cmd := none })
      let s : State := { s with twin := { s.twin with hold := s.twin.hold ++ [(p, k, s.podTime + 250000000)] } }
      s.seatNotices p k
  | none => s

/-- PAIR_RECORD_RX (R383, R395). -/
def execPairRecordRx (r : PairRecord) (s : State) : Host.Outcome State Fault Refusal :=
  .next (
    if s.stopped || !s.paired || !s.anyTwinUp then s
    else match r with
      | .rim part members own cw ccw digest =>
        { s with twin := { s.twin with rims := s.twin.rims.filter (fun t => t.part ≠ part) ++ [⟨part, members, own.toNat, cw, ccw, digest⟩] } }
      | .ctx a => { s with twin := { s.twin with ctxs := insertAt s.twin.ctxs a.ctx.toNat a } }
      | .program ctx image => { s with twin := { s.twin with progs := insertAt s.twin.progs ctx.toNat image } }
      | .rimGone part => { s with twin := { s.twin with rims := s.twin.rims.filter (fun t => t.part ≠ part) } }
      | .unpair => s.endPairing
      | .handBack p k lead => s.takeBack p k.toNat lead.toNat
      | .ctxGone ctx => { s with twin := { s.twin with
          ctxs := erase s.twin.ctxs ctx.toNat, progs := erase s.twin.progs ctx.toNat
          ckpts := s.twin.ckpts.filter (fun c => c.ctx ≠ ctx.toNat || !c.held) } })

/-- SEAT_HOLD_NOTICE_RX (R389): a notice begins a hold, and a second one of the same seat ends it; its sender then serves the seat, and leads
the rim if the seat did (R97, R390). -/
def execSeatHoldNoticeRx (p : Fin 4) (m : SeatNotice) (s : State) : Host.Outcome State Fault Refusal :=
  .next (
    let k := m.index.toNat
    let here := s.rims[p].phase = .formed && decide (k < s.rims[p].n)
    if s.stopped || !(here || s.twin.detach.isSome) then s
    else if s.twin.notices.any (fun t => t.1 = p && t.2.1 = k && !s.isTime t.2.2) then
      let by_ := s.rims[p].members.idxOf m.src
      let s := if here && s.rims[p].lead = k && decide (by_ < s.rims[p].n) then s.leadPasses p by_ else s
      let s : State := { s with twin := { s.twin with notices := s.twin.notices.filter (fun t => !(t.1 = p && t.2.1 = k)) } }
      if s.twin.notices.isEmpty then s.endDetach else s
    else { s with twin := { s.twin with
      notices := s.twin.notices.filter (fun t => !(t.1 = p && t.2.1 = k)) ++ [(p, k, s.podTime + 250000000)] } })

/-- Whether a rim step is in flight on a partition. -/
def State.rimBusy (s : State) (p : Fin 4) : Bool := s.ctxs.any (fun x => x.2.part = p && x.2.armed.isSome && s.isRimCtx x.2)

/-- The handover of mode 0: final checkpoints, the departure message, and no service any more. -/
def State.handOver (s : State) : State :=
  let s := forAll (s.ctxs.filter (fun x => x.2.st ≠ .faulted)) (fun x s => s.sendCkpt x.1 (x.2.cons - 1)) s
  let served := s.rims.toList.any (fun r => r.phase = .formed)
  let s : State := { s.sendDeparture with twin := { s.twin with st := .handedOver } }
  let s := forAll (List.finRange 4) (fun p s => { s.noRim p with tslots := s.tslots.set p [] }) s
  if served then s else s.endDetach

/-- The rim record of a seat taken, as the departed device had sent it (R383, R395). -/
def State.seatRecord (s : State) (p : Fin 4) (k : Nat) : State :=
  match s.twin.rims.find? (fun t => t.part = p && t.own = k) with
  | some t => s.sendTwin "rim record" ([p.val, t.own, t.cw.toNat, t.ccw.toNat, t.digest.toNat] ++ t.members.map (·.toNat))
  | none => s

/-- The hand-back of mode 2: each departed context's checkpoint and record go to the replacement, and the seat is given up. -/
def State.handBack (s : State) : State :=
  let guests := s.ctxs.filter (fun x => x.2.partner.isSome)
  let s := forAll guests (fun x s => (s.sendCkpt x.1 (x.2.cons - 1)).ctxRecord x.1) s
  let s := forAll s.twin.seated (fun q s => (s.seatRecord q.1 q.2).sendTwin "hand-back" [q.1.val, q.2, s.rims[q.1].lead]) s
  let s := forAll guests (fun x s =>
    let s := s.release x.1 x.2
    let s := forAll x.2.queue (fun w s => s.finishWork w stAborted (if w.task then 0 else w.step.toNat) 0 0) s
    { (s.leavePart x.2.part x.1) with ctxs := s.ctxs.filter (fun c => c.1 ≠ x.1) }) s
  ({ s with twin := { s.twin with seated := [], halved := [] } } : State).raiseVec 68

/-- A detach goes on as soon as no step it waits for is in flight. -/
def State.progressDetach (s : State) : State :=
  match s.twin.detach with
  | some (0, _) => if s.twin.st = .paired && !(List.finRange 4).any s.rimBusy then s.handOver else s
  | some (2, _) => if !s.twin.seated.isEmpty && !(s.twin.seated.any (fun q => s.rimBusy q.1)) then s.handBack else s
  | _ => s

/-- TWIN_DETACH (R395). -/
def execTwinDetach (h : CmdHdr) (mode : BitVec 8) (s : State) : Host.Outcome State Fault Refusal :=
  s.cmd h 0x61 [(16, mode.toNat)] (fun t s =>
    let double := !s.twin.seated.isEmpty
    match mode.toNat with
    | 0 =>
      if !s.paired then s.done t stInvalid
      else if !s.twin.sending.isEmpty then s.done t stBusy
      else ({ s with twin := { s.twin with detach := some (0, t.id) } } : State).progressDetach
    | 1 =>
      if s.twin.st = .unpaired then s.done t stInvalid
      else if double then s.done t stBusy
      else
        (s.sendTwin "unpair" []).endPairing.done t stOk
    | 2 =>
      if !(s.paired && double) then s.done t stInvalid
      else ({ s with twin := { s.twin with detach := some (2, t.id) } } : State).progressDetach
    | _ => s.done t stInvalid)

end Sys2Proof.Machine
end

