-- ==== Sys2Proof/Machine/LinkLoss.lean ====
section
/-! DEFINITION. What becomes of the device's requests over VCL that fail (R294), the barometer ring's turn from one copy to the next (R411), and the loss of the link (R281, R295). -/

namespace Sys2Proof.Machine

/-! The barometer ring (R411) -/

/-- The next snapshot that waits is copied, once no copy and no TELEMETRY_CFG is under way; outside UP all that wait are lost. -/
def State.nextCopy (s : State) : State :=
  match s.hkp.ring with
  | some r =>
    if r.busy || s.hkp.newRing.isSome then s
    else match r.waiting with
      | bs :: w =>
        if s.vcl.st = .up then s.baroCopy { r with waiting := w } bs
        else forAll r.waiting (fun _ s => s.baroLost) { s with hkp := { s.hkp with ring := some { r with waiting := [] } } }
      | [] => s
  | none => s

/-- The copy under way has ended: a TELEMETRY_CFG that waits for it goes on, and else the next copy. -/
def State.copyEnds (s : State) : State :=
  (({ s with hkp := { s.hkp with ring := s.hkp.ring.map (fun r => { r with busy := false }) } } : State).swapRing).nextCopy

/-- A host line given up (R284). -/
def State.dropOwned (s : State) (a : Nat) : State := { s with vcl := { s.vcl with owned := s.vcl.owned.filter (fun o => o.1 ≠ a) } }

/-! Requests that fail (R294) -/

/-- A command's output could not be written: HOST_IO (R294); a ring that was to be set stays as it was. -/
def State.replyFailed (s : State) (id : Nat) : State :=
  let mine := fun (x : Nat) => x = id
  if s.replies.any (fun q => mine q.1) then
    let s : State := { s with
      replies := s.replies.filter (fun q => !mine q.1)
      hkp := { s.hkp with newRing := s.hkp.newRing.filter (fun q => !mine q.1) } }
    (s.complete id stHostIo 0 0 0x0803).nextCopy
  else s

/-- What the failure of a request does to the agent that issued it (R294, R304, R411). -/
def State.failFor (s : State) (q : VclReq) : State :=
  match q.who with
  | .cqEntry r => s.ringError r 3 2 0x0003
  | .stream c id =>
    match s.cores[c].streams.find? (fun t => decide (t.id = id)) with
    | some t =>
      if t.d.qen then s.modStream c id (fun t => if q.write then t.fail 4 else { t with lost := t.lost ++ [(q.dpa, q.len)] })
      else s.endStream c (t.fail 4)
    | none => s
  | .prefetch c =>
    let hit := fun (f : Prefetch) => f.host && decide (f.dpa = q.dpa) && decide (f.len = q.len)
    let n := (s.cores[c].prefetch.filter hit).length
    (s.count (blkCore c) 0x0978 n).modCore c (fun k => { k with prefetch := k.prefetch.filter (fun f => !hit f) })
  | .snapshot => s.baroLost.copyEnds
  | .snapHead => (s.dropOwned q.dpa).baroLost.copyEnds
  | .cmd id => s.replyFailed id
  | .fw => { s with fwLoad := s.fwLoad.map (fun l => { l with failed := true }) }
  | .bulk _ => s

/-- The context that a request's program transfer belongs to. -/
def State.reqCtx (s : State) (q : VclReq) : Option Nat :=
  match q.who with
  | .stream c _ => s.ctxOn c
  | _ => none

/-- A device request that failed, no longer outstanding: counted, recorded, and its effect (R294, R297). -/
def State.reqFailed (s : State) (q : VclReq) (cause : Nat) : State :=
  let x := s.reqCtx q
  (((s.count blkVCL 0x0280).stick blkVCL 0x0208 4).record blkVCL (if x.isSome then .k else .none) cause (s.errCtx x)).failFor q

/-- The host's firmware image is in place once its last read has ended; verification follows (R369, R370). -/
def State.fwRead (s : State) : State :=
  match s.fwLoad with
  | some l =>
    if l.mgt || l.ended || s.vcl.reqs.any (fun q => q.who = .fw) || s.vcl.obReqs.any (fun q => q.who = .fw) then s
    else ({ s with fwLoad := some { l with ended := true }, sec := { s.sec with boot := 3 } } : State).stateEvent
  | none => s

/-! The loss of the link (R281) -/

/-- LINK_DOWN and RETRAINS of a return to DOWN (R281, R297, R413). -/
def State.vclCounted (s : State) : State :=
  let n := s.vcl.retrains
  let s : State := { s with vcl := { s.vcl with retrains := if n = 255 then 255 else n + 1 } }
  ((s.stick blkVCL 0x0208 2).record blkVCL .none 0x0802).linkErr1

/-- VCL in DOWN: every outstanding request fails, with those that had no tag yet and the slower-tier reads under way (R294, R116); answers not sent are lost. -/
def State.vclDown (s : State) : State :=
  let reqs := s.vcl.reqs ++ (s.vcl.obReqs ++ s.vcl.bulkQ).map (fun q => s.newReq q.who q.write q.own q.dpa q.len)
  let s : State := { s with vcl := { s.vcl with
    st := .down, replay := [], resends := 0, badRun := false, reqs := [], obReqs := [], bulkQ := [], retryDue := false, rspQ := [], owned := []
    credits := Vector.replicate 3 0, owed := Vector.replicate 3 0 } }
  let s := forAll reqs (fun q s => s.reqFailed q 0x0803) s
  forAll (List.finRange 4) (fun p s => match s.slowWanted p with
    | some (owner, key) => s.hostFailed.segFails p owner key
    | none => s) s.fwRead

end Sys2Proof.Machine
end

