-- ==== Sys2Proof/Machine/Router.lean ====
section
/-! DEFINITION. The router (09_fabric): what it does with a packet (R260), output ports and links (R261), the escape path (R263), the gust limiter (R267), routing flips and the retirement of banks (R259). -/

namespace Sys2Proof.Machine

/-! Drops (R260, R274) -/

/-- A multicast copy dropped counts as lost as well (R266). -/
def State.mcLost (s : State) (p : Packet) : State :=
  if bit p.flags 8 then s.mcastLost 1 else s
def State.dropStale (s : State) (p : Packet) : State := ((s.count blkFAB 0x02E8).record blkFAB .none 0x0305).mcLost p
def State.dropEpoch (s : State) (p : Packet) : State := (((s.stick blkFAB 0x0208 (2 ^ 5)).count blkFAB 0x02E8).record blkFAB .none 0x0305).mcLost p
def State.dropParity (s : State) (p : Packet) : State := (((s.stick blkFAB 0x0208 (2 ^ 9)).count blkFAB 0x02F0).record blkFAB .c 0x0307).mcLost p
def State.dropRoute (s : State) (p : Packet) : State := (((s.stick blkFAB 0x0208 (2 ^ 6)).count blkFAB 0x02F0).record blkFAB .none 0x0306).mcLost p

/-- KIND of a packet's flits (Table 9.7, R263). -/
def kindOf (p : Packet) : Nat :=
  if bit p.flags 11 then 3 + fld p.flags 12 1
  else match p.typ.toNat with
    | 0x01 | 0x0B => 0
    | 0x02 => 1
    | _ => 2

/-- The bytes of a packet with its header. -/
def pktBytes (p : Packet) : Nat := 16 + p.payload.length

/-! The escape path (R263) -/

/-- The coordinate a packet goes to: DST itself with COORD set. -/
def destOf (p : Packet) : BitVec 16 := if bit p.flags 7 then p.dst else Config.endpointCoord p.dst

/-- The x, y and z of a coordinate, and the extents of a bank. -/
def coordAt (c : BitVec 16) (d : Nat) : Nat := if d = 0 then fld c 0 6 else if d = 1 then fld c 6 6 else fld c 12 4
def RBank.ext (b : RBank) (d : Nat) : Nat := if d = 0 then b.extX else if d = 1 then b.extY else b.extZ

/-- The first dimension in which two coordinates differ, in the order x, y, z. -/
def firstDim (a b : BitVec 16) : Option Nat := (List.range 3).find? (fun d => coordAt a d ≠ coordAt b d)

/-- The direction code of the next hop: the shorter way round, + when both are equal. -/
def escapeDir (b : RBank) (d own dest : Nat) : Nat :=
  let up := (dest + b.ext d - own) % b.ext d
  if 2 * up ≤ b.ext d then 2 * d else 2 * d + 1

/-- Whether a hop in a direction crosses the ring's dateline. -/
def crosses (b : RBank) (dir own : Nat) : Bool := if dir % 2 = 0 then own + 1 = b.ext (dir / 2) else own = 0

/-- The direction and class of a packet's next hop on the escape path: none at its destination. A packet that came along the same
dimension keeps its class; one that enters a dimension starts in class 0. -/
def State.escapeHop (s : State) (p : Packet) (input : Option (Fin 20)) : Option (Nat × Nat) :=
  let b := s.bankOf p
  let dest := destOf p
  match firstDim b.ownCoord dest with
  | none => none
  | some d =>
    let dir := escapeDir b d (coordAt b.ownCoord d) (coordAt dest d)
    let same := match input.bind (fun l => b.portOf l.val) with
      | some (_, e) => decide (e.dir.toNat / 2 = d) && bit p.flags 11
      | none => false
    let cls := if same then fld p.flags 12 1 else 0
    some (dir, if crosses b dir (coordAt b.ownCoord d) then 1 else cls)

/-- A packet put on the escape path: delivered at its destination, dropped where no port has the direction. -/
def State.escape (s : State) (p : Packet) (input : Option (Fin 20)) (kind : Nat) : State :=
  match s.escapeHop p input with
  | none => s.deliver p
  | some (dir, cls) =>
    if (s.bankOf p).portsTo dir = [] then s.dropRoute p
    else s.enqueue { p with flags := p.flags &&& ~~~ 0x1000#16 ||| 0x0800#16 ||| (BitVec.ofNat 16 cls <<< 12) } input kind

/-! A packet at the router (R260) -/

/-- The entry of a bank's endpoint table. -/
def RBank.entry (b : RBank) (ep : BitVec 16) : BitVec 16 := mget (fun _ => 0) b.table ep.toNat

/-- Whether a packet is stale: older than 488 units of 1,024 ns (R260). -/
def State.isStale (s : State) (p : Packet) : Bool := decide (488 < (s.injTime - p.injTime).toNat)

/-- What the router does with a packet, in the order of R260. -/
def State.route (s : State) (p : Packet) (input : Option (Fin 20)) : State :=
  let b := s.bankOf p
  let e := b.entry p.dst
  let kind := kindOf p
  if s.isStale p then s.dropStale p
  else if !b.live then s.dropEpoch p
  else if bit p.flags 8 then (if input.isNone then s.mcSend p none else s.deliver p input)
  else if bit p.flags 7 then
    if p.dst = b.ownCoord then s.deliver p
    else if p.hops.toNat + 1 = 63 then s.dropRoute p
    else (if bit p.flags 11 then s else s.count blkFAB 0x02F8).escape { p with hops := p.hops + 1 } input kind
  else if p.dst = b.ownEp || bit e 8 then s.deliver p
  else if !bit e 15 then s.dropRoute p
  else if p.hops.toNat + 1 = 63 then s.dropRoute p
  else if bit p.flags 11 then s.escape { p with hops := p.hops + 1 } input kind
  else s.enqueue { p with hops := p.hops + 1 } input kind

/-- Whether the gust limiter admits a packet of this device at this opportunity: of request KIND, one in 2^level (R267). -/
def State.admits (s : State) (p : Packet) : Bool := kindOf p ≠ 0 || s.tune.turns % 2 ^ s.tune.gust = 0

/-- A packet addressed to the twin put on a twin link, without routing (R387); with none in UP it is lost (DESIGN CHOICE, log entry 122). -/
def State.toTwin (s : State) (p : Packet) : State :=
  match s.twinLink with
  | some l => (s.send (.packet p)).toLink l (kindOf p) false (packetBytes p)
  | none => s

/-- PACKET_AT_ROUTER (R260): a packet this device sent, injected now, or one that a general link in UP brings; a packet that waits in the router still fills the
buffer of its input (R262). -/
def execPacketAtRouter (p : Packet) (input : Option (Fin 20)) (s : State) : Host.Outcome State Fault Refusal :=
  .next (
    if s.stopped then s
    else
      match input with
      | none =>
        match pull (fun (q : Packet) => q = p) s.fab.inject with
        | some (_, rest) =>
          let t : State := if kindOf p = 0 then { s with tune := { s.tune with turns := s.tune.turns + 1 } } else s
          if !s.admits p then t
          else
            let t := ({ t with fab := { t.fab with inject := rest } } : State).injected p
            if twinBound p then t.toTwin (t.stamp p) else t.route (t.stamp p) none
        | none => s
      | some l =>
        if s.links[l].st ≠ .up || !s.isGeneral l.val then s
        else
          let s := s.rxTake l (kindOf p) (pktBytes p)
          let s := match (s.fab.banks[s.fab.inj]).portOf l.val with
            | some (n, _) => (s.count blkFAB 0x0268 1 n).count blkFAB 0x0278 (pktBytes p) n
            | none => s
          (s.route p (some l)).reflow l)

/-! Output (R261, R263, R266) -/

/-- The ports by which a waiting packet may leave (R261, R263, R266). -/
def State.portsFor (s : State) (r : Routed) : List Nat :=
  let b := s.bankOf r.pkt
  if bit r.pkt.flags 8 then b.portsTo (mcDir r.pkt)
  else if bit r.pkt.flags 11 then
    match s.escapeHop r.pkt r.input with
    | some (dir, _) => b.portsTo dir
    | none => []
  else (List.range 8).filter (fun i => bit (b.entry r.pkt.dst) i && ((b.ports[i]?).map (·.valid)).getD false)

/-- The links of a port of a bank. -/
def RBank.linksAt (b : RBank) (i : Nat) : List (Fin 20) :=
  match b.ports[i]? with
  | some e => (List.finRange 20).filter (fun l => decide (l.val < 18) && bit e.links l.val)
  | none => []

/-- Whether a link may start a packet of a KIND: free, in UP, its KIND shown ON (R261). -/
def State.linkOn (s : State) (l : Fin 20) (kind : Nat) : Bool := s.linkFree l kind && bit s.links[l].fcIn kind

/-- The bytes queued for output on a port. -/
def State.portBytes (s : State) (b : RBank) (i : Nat) : Nat := ((b.linksAt i).map (fun l => (s.links[l].txQ.map (fun q => pieceBytes q.2)).sum)).sum

/-- The port and link by which a waiting packet leaves (R261): of the ports with a link that is ON, the one with the fewest bytes queued for output, ties
by rotation; on it a link that is ON, by rotation. -/
def State.pickOutput (s : State) (r : Routed) : Option (Nat × Fin 20) :=
  let b := s.bankOf r.pkt
  let on := fun (i : Nat) => (b.linksAt i).filter (fun l => s.linkOn l (kindOf r.pkt))
  (minBy (fun i => s.portBytes b i * 8 + (i + 7 - s.fab.lastPort) % 8) ((s.portsFor r).filter (fun i => !(on i).isEmpty))).bind (fun i =>
    (((on i).find? (fun l => decide (mget (fun _ => 0) s.fab.lastLink i < l.val + 1))).or (on i).head?).map (fun l => (i, l)))

/-- A packet taken out of the router's queue: its input's buffer and the drain counter fall (R259, R262). -/
def State.unqueue (s : State) (idx : Nat) (r : Routed) : State :=
  let s := ({ s with fab := { s.fab with queue := s.fab.queue.eraseIdx idx } } : State).packetGone r.pkt
  match r.input with
  | some l => s.reflow l
  | none => s

/-- A packet started on a link of a port, whole on that link (R261). -/
def State.sendOn (s : State) (r : Routed) (i : Nat) (l : Fin 20) : State :=
  let s : State := { s with fab := { s.fab with lastPort := i, lastLink := mset (fun _ => 0) s.fab.lastLink i (l.val + 1) } }
  (s.send (.packet r.pkt)).toLink l (kindOf r.pkt) (bit r.pkt.flags 8) (packetBytes r.pkt)

/-- PACKET_OUTPUT_GRANT (R261): the link `l` is granted to a waiting packet that leaves by it, if it is the one the router chooses; `stall` router cycles
every link of its port was OFF. One that has become stale is dropped (R260). -/
def execPacketOutputGrant (idx : Nat) (l : Fin 20) (stall : Nat) (chk : Check) (s : State) : Host.Outcome State Fault Refusal :=
  .next (
    match s.fab.queue[idx]? with
    | none => s
    | some r =>
      if s.stopped || (chk ≠ .ok && chk ≠ .buffer) then s
      else if s.isStale r.pkt then (s.unqueue idx r).dropStale r.pkt
      else
        match s.pickOutput r with
        | none => s
        | some (i, m) =>
          if m ≠ l then s else
          let s := s.unqueue idx r
          if chk ≠ .ok then s.dropParity r.pkt
          else
            let s := s.sendOn r i l
            match (s.fab.banks[s.fab.inj]).portOf l.val with
            | some (i, _) => ((s.count blkFAB 0x0260 1 i).count blkFAB 0x0270 (pktBytes r.pkt) i).count blkFAB 0x0280 stall i
            | none => s)

/-- Whether a waiting packet stands at the head of its input buffer: none of the same input and KIND waits before it (R262, R263). -/
def State.atHead (s : State) (idx : Nat) (r : Routed) : Bool := (s.fab.queue.take idx).all (fun q => q.input ≠ r.input || q.kind ≠ r.kind)

/-- ESCAPE_TIMEOUT (R263): a packet that has waited 4,096 router cycles at the head of its input buffer moves to the escape path. -/
def execEscapeTimeout (idx : Nat) (s : State) : Host.Outcome State Fault Refusal :=
  .next (
    match s.fab.queue[idx]? with
    | none => s
    | some r =>
      if s.stopped || bit r.pkt.flags 8 || bit r.pkt.flags 11 || !s.atHead idx r then s
      else if s.isStale r.pkt then (s.unqueue idx r).dropStale r.pkt
      else
        let s := ((({ s with fab := { s.fab with queue := s.fab.queue.eraseIdx idx } } : State).packetGone r.pkt).count blkFAB 0x02F8).escape r.pkt r.input r.kind
        match r.input with
        | some l => s.reflow l
        | none => s)

/-- The packets that have become stale while they wait dropped (R260). -/
def State.ageQueue (s : State) : State :=
  let old := s.fab.queue.filter (fun r => s.isStale r.pkt)
  let s : State := { s with fab := { s.fab with queue := s.fab.queue.filter (fun r => !s.isStale r.pkt) } }
  forAll old (fun r s =>
    let s := (s.dropStale r.pkt).packetGone r.pkt
    match r.input with
    | some l => s.reflow l
    | none => s) s

/-! The gust limiter (R267) -/

/-- A 1 µs sample of a port's request queue: one more in its bin, which saturates at 2^16 − 1 (Table 9.14). -/
def State.histSample (s : State) (port bin : Fin 8) : State :=
  let off := if bin.val < 4 then 0x0290 else 0x0298
  let lo := 16 * (bin.val % 4)
  let w := s.reg blkFAB off port.val
  s.setReg blkFAB off (withFld w lo 16 (min 65535 (fld w lo 16 + 1))) port.val

/-- The bytes of request KIND that this device has to inject. -/
def State.injectBytes (s : State) : Nat := ((s.fab.inject.filter (fun p => kindOf p = 0)).map pktBytes).sum

/-- GUST_TICK (R267): every 10 µs; five quiet windows are 50 µs. the request KIND of `port`, the general output port where it was OFF
longest, was OFF for `offNs` of the window, `samples` are the 1 µs samples of the ports' queues in the window, by port and bin. -/
def execGustTick (port : Fin 8) (offNs : Nat) (samples : List (Fin 8 × Fin 8)) (s : State) : Host.Outcome State Fault Refusal :=
  .next (
    let s := forAll samples (fun x s => s.histSample x.1 x.2) s
    let t := s.tune
    let general := !(s.fab.banks[s.fab.inj].linksAt port.val).isEmpty
    if (general && decide (2500 ≤ offNs)) || decide (65536 < s.injectBytes) then
      if t.gust < 7 then
        (({ s with tune := { t with gust := t.gust + 1, quiet := 0 } } : State).count blkFAB 0x02B8).stick blkFAB 0x0208 2
      else { s with tune := { t with quiet := 0 } }
    else if 5 ≤ t.quiet + 1 then { s with tune := { t with gust := t.gust - 1, quiet := 0 } }
    else { s with tune := { t with quiet := t.quiet + 1 } })

/-! Routing flips (R259) -/

/-- The drain counter of a bank (R259): packets in this device's router buffers with its bit, and those sent with it that await an ACK; what waits to be
injected carries no bank's bit yet. -/
def State.drain (s : State) (b : Fin 2) : Nat :=
  let has := fun (p : Packet) => fld p.flags 6 1 = b.val
  (s.fab.queue.filter (fun r => has r.pkt)).length + (s.fab.outst.filter (fun o => decide (0 < o.sends) && has o.pkt)).length

/-- FAB_EPOCH_FLIP_AT_T (R259): at T the named bank injects and the command completes. -/
def execFabEpochFlipAtT (s : State) : Host.Outcome State Fault Refusal :=
  .next (
    match s.fab.flip with
    | some f =>
      if s.stopped || !s.isTime f.at_ then s
      else
        let s : State := { s with fab := { s.fab with
          flip := none, inj := f.bank, flippedAt := s.podTime, banks := s.fab.banks.set f.bank { s.fab.banks[f.bank] with used := true } } }
        (s.complete f.cmd stOk).drainInject
    | none => s)

/-- Whether a bank's drain counter has stayed at 0 for 20 µs after the flip (R259). -/
def State.drained20 (s : State) (b : Fin 2) : Bool :=
  s.drain b = 0 && decide (20000 ≤ (s.podTime - s.fab.flippedAt).toNat) && decide (20000 ≤ (s.podTime - s.fab.busyAt[b]).toNat)

/-- BANK_RETIRE (R259): a bank that has injected, is no longer the injection bank and has drained retires; the links that only it named leave the general
role (R246). -/
def execBankRetire (b : Fin 2) (s : State) : Host.Outcome State Fault Refusal :=
  .next (
    let k := s.fab.banks[b]
    if k.live && k.used && b ≠ s.fab.inj && s.drained20 b then
      ({ s with fab := { s.fab with banks := s.fab.banks.set b { k with live := false } } } : State).refit s
    else s)

/-! Time that passes (log entry 1) -/

/-- A nanosecond of pod time at the rate that the time tree gives (R270): stale packets are dropped (R260), and flits that are not full leave (R249). -/
def State.tick (s : State) : State :=
  let f := s.time.frac + s.time.rate
  let extra : Int := if 1000000000 ≤ f then 1 else if f ≤ -1000000000 then -1 else 0
  let s : State := { s with podTime := s.podTime + BitVec.ofInt 64 (1 + extra), time := { s.time with frac := f - 1000000000 * extra } }
  if s.stopped then s else forAll (List.finRange 20) (fun l s => s.pumpLink l true) s.ageQueue

end Sys2Proof.Machine
end

