-- ==== Sys2Proof/Machine/SchedRows.lean ====
section
/-! DEFINITION. The events of the schedule (R334 to R348): arming and completing steps, switches and their ends, schedule slots, automatic swaps, side tasks, and the messages between the members' Obinha instances (R97). -/

namespace Sys2Proof.Machine

/-! Arming steps (R334) -/

/-- Whether the schedule lets a partition's running context arm a step now: no switch away is due and in cyclic mode the slot is
its own, or a switch lets it run through step H. -/
def State.mayArm (s : State) (p : Fin 4) (id : Nat) (t : Word) : Bool :=
  (match s.parts[p].switch with
   | .idle => s.parts[p].mode = .demand || s.slotCtx p = some id
   | .through _ h => stepLe t h
   | _ => false)
  && s.twin.detach.isNone && (s.waitingCmd 0x31 id).isNone && (s.waitingCmd 0x33 id).isNone

/-- The weight epoch of a departed context's step, which flips with its seat partner (R392, R394): from the partner's last flip step on the new one, before
it the old one, while it circulates. -/
def guestEpoch (x v : Ctx) (t : Word) : Option Nat :=
  match v.pinFrom with
  | some f => if stepLe f t then some v.epoch else v.oldEpoch
  | none => some x.epoch

/-- The step of a departed context that runs beside its seat partner's step (R392, R394). -/
def State.armGuest (s : State) (p : Fin 4) (y : Nat) (t : Word) : State :=
  if !s.twin.halved.contains p then s
  else match s.ctxs.find? (fun (z : Nat × Ctx) => z.2.partner = some y && z.2.isRes && z.2.armed.isNone), s.ctx? y with
    | some (id, x), some v =>
      match x.oldest with
      | some w =>
        let e := guestEpoch x v w.step
        if !(e.any ((s.epochsAt y v t).contains ·)) then (s.stick blkTWN 0x0210 64).faultCtx id blkTWN 0x0905
        else
          let w' := { w with st := .running, lost := bit x.attr 0 }
          let s := s.setCtx id ({ x with armed := some w.step, epoch := e.getD x.epoch, pwrCfg := some (x.pwrCfg.getD (s.reg blkPWR 0x0200)) }.modWork w (fun _ => w'))
          if w.rows = 0 then s else s.startStep id w' (s.coresFor p true)
      | none => s
    | _, _ => s

/-- STEP_ARM (R334). A side task on a core that the step needs stops first, and its outstanding work completes (R146, R348). -/
def execStepArm (p : Fin 4) (s : State) : Host.Outcome State Fault Refusal :=
  .next (
    match s.parts[p].running with
    | none => s
    | some id => match s.ctx? id with
      | none => s
      | some x => match x.oldest with
        | none => s
        | some w =>
          if s.stopped || s.pwr.entering.isSome || s.rims[p].phase ≠ .formed || x.st ≠ .running || x.armed.isSome || !s.mayArm p id w.step || !s.verdictsIn id x w.step then s
          else if w.rows ≠ 0 && !(s.undrained (s.coresOf p)).isEmpty then s.callOff id (s.coresOf p)
          else (s.armStep p id x w).armGuest p id w.step)

/-! Completing steps (R102, R320) -/

/-- The completion of a context's step. -/
def State.finishStep (s : State) (id : Nat) (x : Ctx) (w : Work) : State :=
  let p := x.part
  let t := w.step
  let lost := bit x.attr 0 && w.lost
  let s := if lost then (s.stick blkCTL 0x0520 2 p.val).record blkCTL .none 0x0006 (s.errCtx (some id)) else s
  let s := if w.expired then s.stick blkRIM 0x0240 (2 ^ 12) p.val else s
  let left := if w.expired then w.pinned else 0
  let r1 := w.rows - left + 2 ^ 16 * left + 2 ^ 32 * b2n w.late + 2 ^ 33 * b2n lost + 2 ^ 34 * b2n w.swapped
  let s := if x.replay.any (fun d => stepLe t d) then s.count blkTWN 0x0250 else s
  let pastPins := x.oldEpoch.isSome && stepLe x.pinUntil (t + 1)
  let s := s.setCtx id { x.dropWork w with
    armed := none, since := s.podTime, oldEpoch := if pastPins then none else x.oldEpoch
    replay := x.replay.filter (fun d => !stepLe d t) }
  let s := if pastPins then s.modRim p (fun r => r.endPins id (fun u => stepLe u t)) else s
  (s.finishWork w (if w.expired then stEpochExpired else stOk) t.toNat r1 0).checkpointDue id t

/-- The pipeline flags of a partition's cores cleared at the end of a step (R208). -/
def State.clearPipes (s : State) (p : Fin 4) : State :=
  let idx := (s.coresOf p).flatMap (fun c => (List.range 48).map (fun n => 48 * c.val + n))
  let s := if idx.any (fun i => bit (s.obj i) 0) then s.stick blkSYN 0x0208 128 else s
  forAll idx (fun i s => s.setObj i (withFld (s.obj i) 0 2 0)) s

/-- What a rim keeps of a finished step is dropped; injection marks of the step before stay no longer. -/
def Rim.dropStep (r : Rim) (model : Nat) (t : Word) : Rim :=
  let old := fun (k : Ident) => k.model = model && stepLe k.step t
  { r with timers := [], failed := r.failed.filter (fun k => k % 2 ^ 16 ≠ model), kept := r.kept.filter (fun k => !old k), decoded := r.decoded.filter (fun k => !old k)
           injected := r.injected.filter (fun k => !(k.model = model && stepLe (k.step + 1) t)) }

/-- STEP_COMPLETE (R102): every pair is complete and every core has finished; with two seats both contexts' steps end. -/
def execStepComplete (p : Fin 4) (s : State) : Host.Outcome State Fault Refusal :=
  .next (
    match s.parts[p].running with
    | none => s
    | some id => match s.ctx? id with
      | none => s
      | some x => match x.armed, x.queue.find? (fun (w : Work) => !w.task && some w.step = x.armed) with
        | some t, some w =>
          if s.stopped || w.st ≠ .running || !s.coresHalted p || !s.layersDone p || s.rims[p].phase ≠ .formed then s
          else
            let s := s.clearPipes p
            let s := s.finishStep id x w
            let guest := s.ctxs.find? (fun (z : Nat × Ctx) => z.2.partner = some id && z.2.armed.isSome)
            let s : State := match guest with
              | some (g, z) => match z.queue.find? (fun (v : Work) => !v.task && some v.step = z.armed) with
                | some v => s.finishStep g z v
                | none => s
              | none => s
            let s := s.modRim p (fun r => { r.dropStep x.model t with step := (s.ctx? id).elim t (·.cons) })
            -- the halves take effect at this boundary (R391)
            let s := if s.twin.seated.any (fun q => q.1 = p) && !s.twin.halved.contains p then s.halve p else s
            (s.passH p).settleRim p |>.progressDetach
        | _, _ => s)

/-! Switches (R335 to R338, R342) -/

/-- SWITCH_TIME_REACHED (R335). -/
def execSwitchTimeReached (p : Fin 4) (s : State) : Host.Outcome State Fault Refusal :=
  .next (if s.stopped || s.twin.detach.isSome then s else s.serveRequest p)

/-- A switch ended, and what has come due meanwhile: another slot's context, or a switch request. -/
def State.finishSwitch (s : State) (p : Fin 4) (inc : Option Nat) : State :=
  let s := s.endSwitch p inc
  if s.parts[p].switch ≠ .idle then s
  else match s.parts[p].running, s.parts[p].next with
  -- the pre-empted step was abandoned as it was to resume: the named context follows (R337, R350)
  | none, some n => (s.modPart p (fun q => { q with next := none })).moveTo p (some n)
  | _, _ =>
  if s.parts[p].mode = .demand then s.serveRequest p
  else if s.slotCtx p ≠ s.parts[p].running then s.switchTo p (s.slotCtx p) true else s

/-- The instant in cyclic mode at which the engines of a slot's context start. -/
def Part.engineTime (q : Part) : Word := q.slotAt + 20000

/-- A switch whose outgoing context was torn down before its boundary goes on with nothing to save (R350). -/
def State.leaveTorn (s : State) (p : Fin 4) : State :=
  match s.parts[p].switch, s.parts[p].running with
  | .through inc _, none => (s.moveTo p inc).finishSwitch p inc
  | _, _ => s

/-- ENGINES_START (R338): in demand mode as soon as the images are in place; in cyclic mode for a switch inside a slot. -/
def execEnginesStart (p : Fin 4) (s : State) : Host.Outcome State Fault Refusal :=
  .next (
    match s.parts[p].switch with
    | .moving inc =>
      if s.stopped || s.pwr.entering.isSome || !s.drained p || (s.parts[p].mode = .cyclic && !(s.isTime (s.parts[p].engineTime + 1))) then s else s.finishSwitch p inc
    | _ => if s.stopped || s.pwr.entering.isSome then s else s.leaveTorn p)

/-- CYCLIC_ENGINE_START (R342): exactly 20 µs after the slot began. -/
def execCyclicEngineStart (p : Fin 4) (s : State) : Host.Outcome State Fault Refusal :=
  .next (
    match s.parts[p].switch with
    | .moving inc =>
      if s.stopped || s.pwr.entering.isSome || !s.drained p || s.parts[p].mode = .demand || s.podTime ≠ s.parts[p].engineTime then s else s.finishSwitch p inc
    | _ => s)

/-- A schedule slot begins (R342). -/
def State.beginSlot (s : State) (p : Fin 4) (n : Nat) (at_ : Word) : State :=
  let s := s.modPart p (fun q => { q with slot := n, slotAt := at_, period0 := if n = 0 then at_ else q.period0, periods := if n = 0 then q.periods + 1 else q.periods })
  let s := if n = 0 then s.count blkCTL 0x0580 1 p.val else s
  let s := (s.loseTiming p).modPart p (fun q => { q with held := q.preempt.isSome && q.preempt ≠ s.slotCtx p })
  let q := s.parts[p]
  let named := ((q.table.bind (fun (t : SchedTable) => t.tab[n]?)).map (fun (e : SchedEntry) => e.ctx.toNat)).filter (· ≠ 0xFFFF)
  let inc := s.slotCtx p
  let s := if named.isSome && inc.isNone then (s.stick blkCTL 0x0520 8 p.val).record blkCTL .none 0x0008 (s.errCtx named) else s
  -- a step that awaits a verdict or runs through a step H with none pre-empted is cut as well (R342)
  let free := match q.switch with
    | .idle => true
    | .moving _ => false
    | _ => q.preempt.isNone
  if free then
    let s := s.modPart p (fun q => { q with switch := .idle })
    match q.running.bind (fun (i : Nat) => (s.ctx? i).map (fun (x : Ctx) => (i, x))) with
    | some (out, x) =>
      let cut := some out ≠ inc && x.armed.isSome && q.preempt.isNone
      let s := if cut && bit x.attr 0 then
          ((s.stick blkCTL 0x0520 1 p.val).record blkCTL .none 0x0005 (s.errCtx (some out))).count blkCTL 0x0578 1 p.val
        else s
      s.switchTo p inc true
    | none => s.switchTo p inc true
  else match q.switch with
  | .idle | .moving _ => s
  | .awaiting .. | .through .. => s.modPart p (fun q => { q with next := if inc = q.preempt then none else inc })

/-- SCHED_SLOT_START (R342): the next slot's start has come. -/
def execSchedSlotStart (p : Fin 4) (s : State) : Host.Outcome State Fault Refusal :=
  .next (
    let q := s.parts[p]
    match q.mode, q.table with
    | .cyclic, some t =>
      let last := decide (t.tab.length ≤ q.slot + 1)
      let n := if last then 0 else q.slot + 1
      let off := if last then t.period.toNat else ((t.tab[n]?).map (fun (e : SchedEntry) => e.start.toNat)).getD 0
      let at_ := q.period0 + BitVec.ofNat 64 (1000 * off)
      if s.stopped || !s.isTime at_ then s else s.beginSlot p n at_
    | _, _ => s)

/-- SCHED_MODE_EFFECT (R341). -/
def execSchedModeEffect (p : Fin 4) (s : State) : Host.Outcome State Fault Refusal :=
  .next (
    match s.parts[p].change with
    | some c =>
      if s.stopped || !s.isTime c.start then s
      else
        let was := s.parts[p].mode
        let s := (s.modPart p (fun q => { q with mode := if c.cyclic then .cyclic else .demand, change := none })).complete c.cmd stOk
        if c.cyclic then s.beginSlot p 0 c.start
        else (if was = .cyclic then s.loseTiming p else s).serveRequest p
    | none => s)

/-! Automatic swaps (R345, R346) -/

/-- Resident contexts of a partition, and those that could be brought in (R345). -/
def State.residents (s : State) (p : Fin 4) : List (Nat × Ctx) := s.ctxs.filter (fun x => x.2.part = p && x.2.isRes)
def State.runnables (s : State) (p : Fin 4) : List (Nat × Ctx) := s.ctxs.filter (fun x => x.2.part = p && x.2.st = .created && !x.2.queue.isEmpty)

/-- AUTO_SWAP_FAIL (R346). -/
def State.swapFails (s : State) (p : Fin 4) : State :=
  ((s.stick blkCTL 0x0520 32 p.val).record blkCTL .none 0x0009).modPart p (fun q => { q with swapAt := none, swapReps := [] })

/-- Whether R330 lets a context be made resident, once the victim is gone. -/
def State.swapPlan (s : State) (id : Nat) (victim : Option Nat) : Option (State × Ctx × Program) :=
  let ok := match victim.bind s.ctx? with
    | some v => v.isRes && !v.working
    | none => true
  let s := match victim with
    | some v => s.evict v false
    | none => s
  match s.ctx? id with
  | some x =>
    if !ok || s.resideInvalid x || s.podClash x || !(s.resideTables id x).isEmpty then none
    else (s.residePlan id x).map (fun g => (s, g.1, g.2))
  | none => none

/-- The choice of the lead member, or of a member alone (R346). -/
def State.chooseSwap (s : State) (p : Fin 4) (reps : List (Nat × List (BitVec 16) × List (BitVec 16))) : State :=
  let inAll := fun (i : Nat) => reps.all (fun r => r.2.2.contains (BitVec.ofNat 16 i))
  let flying := fun (i : Nat) => reps.any (fun r => r.2.1.contains (BitVec.ofNat 16 i))
  let res := s.residents p
  match minBy (fun (x : Nat × Ctx) => 1024 * b2n x.2.be + x.1) ((s.runnables p).filter (fun x => inAll x.1)) with
  | none => s
  | some (inc, _) =>
    let cand := res.filter (fun x => !flying x.1 && !x.2.working)
    let age := fun (x : Nat × Ctx) => (s.podTime - x.2.since).toNat
    let victim := if res.length < 8 then none
      else (minBy (fun (x : Nat × Ctx) => b2n (!x.2.be) * 2 ^ 74 + (2 ^ 64 - 1 - age x) * 1024 + x.1) cand).map (·.1)
    let rim := s.rims[p].phase = .formed
    if decide (8 ≤ res.length) && victim.isNone then (if rim then s.tellAll p .swapFail else s).swapFails p
    else if (s.swapPlan inc victim).isNone then (if rim then s.tellAll p .swapFail else s).swapFails p
    else
      let at_ := s.podTime + 20000
      let s := if rim then s.tellAll p (.swapChoice (BitVec.ofNat 16 inc) (victim.map (BitVec.ofNat 16)) at_) else s
      s.modPart p (fun q => { q with swapAt := some (inc, victim, at_), swapReps := [] })

/-- The lead member chooses once every member has reported. -/
def State.leadSwap (s : State) (p : Fin 4) : State :=
  let reps := s.parts[p].swapReps
  if s.rims[p].leads && s.parts[p].swapAt.isNone && decide (s.rims[p].n ≤ reps.length) then
    (s.modPart p (fun q => { q with swapReps := [] })).chooseSwap p reps
  else s

/-- BLOCKED_GRACE_EXPIRY (R346). -/
def execBlockedGraceExpiry (p : Fin 4) (s : State) : Host.Outcome State Fault Refusal :=
  .next (
    let res := s.residents p
    let run := s.runnables p
    if s.stopped || fld (s.reg blkCTL 0x0510 p.val) 0 20 = 0 || s.parts[p].swapAt.isSome || run.isEmpty || !res.all (fun x => s.ctxBlocked x.1 x.2) then s
    else
      let ids := fun (l : List (Nat × Ctx)) => l.map (fun x => BitVec.ofNat 16 x.1)
      let flying := ids (res.filter (fun x => x.2.armed.isSome))
      let r := s.rims[p]
      if r.phase ≠ .formed then s.chooseSwap p [(0, flying, ids run)]
      else (s.toLead p (fun k => .swapReport k (res.map (fun x => (BitVec.ofNat 16 x.1, s.podTime - x.2.since))) flying (ids run))
        (fun k s => s.modPart p (fun q => { q with swapReps := q.swapReps.filter (fun e => e.1 ≠ k) ++ [(k, flying, ids run)] }))).leadSwap p)

/-- A check that fails at the instant only: the other members are told, so that nothing changes on those that have not swapped yet (DESIGN CHOICE, log
entry 120). -/
def State.lateFail (s : State) (p : Fin 4) : State := (if s.rims[p].phase = .formed then s.tellAll p .swapFail else s).swapFails p

/-- AUTO_SWAP_INSTANT (R346): victim out, incoming context in; a host image must be readable. -/
def execAutoSwapInstant (p : Fin 4) (imgOk : Bool) (s : State) : Host.Outcome State Fault Refusal :=
  .next (
    match s.parts[p].swapAt with
    | some (inc, victim, at_) =>
      if s.stopped || !s.isTime at_ then s
      else match s.swapPlan inc victim with
        | none => s.lateFail p
        | some (t, x, g) =>
          if x.imgAt = .host && !(imgOk && s.vcl.st = .up) then s.hostFailed.lateFail p
          else
            let x := match x.oldest with
              | some w => x.modWork w (fun w => { w with swapped := true })
              | none => x
            let t := t.makeResident inc x g
            let t := (t.setReg blkCTL 0x0540 (BitVec.ofNat 64 (put inc 22 10 + put (b2n victim.isSome) 21 1 + put (victim.getD 0) 11 10 + p.val))).stick blkCTL 0x0520 16 p.val
            (t.count blkCTL 0x0588 1 p.val).modPart p (fun q => { q with swapAt := none, swapReps := [] })
    | none => s)

/-! Side tasks (R347, R348) -/

/-- Whether an armed or pre-empted step of a partition uses a core. -/
def State.stepUses (s : State) (p : Fin 4) (c : Fin 16) : Bool :=
  s.ctxs.any (fun x => x.2.part = p && x.2.queue.any (fun w => !w.task && w.st ≠ .queued && w.rows ≠ 0) && (s.coresFor p x.2.partner.isSome).contains c)

/-- The tasks of a partition's resident contexts in a state, LC contexts first and then in acceptance order. -/
def State.tasksIn (s : State) (p : Fin 4) (st : WState) : List (Nat × Ctx × Work) :=
  let all := (s.residents p).flatMap (fun x => (x.2.queue.filter (fun w => w.task && w.st = st)).map (fun w => (x.1, x.2, w)))
  let inOrder := fun (be : Bool) => s.taken.flatMap (fun t => all.filter (fun k => k.2.1.be = be && k.2.2.cmd = t.id))
  inOrder false ++ inOrder true

/-- A task put on a core, started afresh or resumed. -/
def State.runTask (s : State) (c : Fin 16) (id : Nat) (w : Work) : State :=
  let s := (if (s.cores[c].run.bind (·.task)).isSome then s.preemptTask c else s.saveCore c)
  let s := s.modCtx id (fun x => x.modWork w (fun w => { w with st := .running, core := c.val }))
  let s := s.loadCore c id (some w.cmd)
  if w.st = .preempted || s.ctxOn c ≠ some id then s else s.startEngines c [(1, w.argblk), (4, 1)]

/-- TASK_START (R347, R348): a pre-empted task returns to its core first; else the first queued task takes the lowest free core, an LC task
the lowest core of a BE task if none is free. -/
def execTaskStart (p : Fin 4) (s : State) : Host.Outcome State Fault Refusal :=
  .next (
    let usable := (s.coresOf p).filter (fun c => !s.stepUses p c)
    let free := usable.filter (fun c => (s.cores[c].run.bind (·.task)).isNone)
    let beTasks := usable.filter (fun c => match s.cores[c].run with
      | some ⟨id, some _⟩ => ((s.ctx? id).map (·.be)).getD false
      | _ => false)
    let parked := s.tasksIn p .preempted
    let holds := fun (id : Nat) (c : Fin 16) => parked.any (fun k => k.1 = id && k.2.2.core = c.val)
    if s.stopped || s.pwr.entering.isSome then s
    else match parked.findSome? (fun k => (free.find? (fun c => c.val = k.2.2.core)).map (fun c => (c, k))) with
      | some (c, k) => s.runTask c k.1 k.2.2
      | none =>
        match (s.tasksIn p .queued).head? with
        | some (id, x, w) =>
          match (free ++ (if x.be then [] else beTasks)).find? (fun c => !holds id c) with
          | some c => if (s.undrained [c]).isEmpty then s.runTask c id w else s.callOff id [c]
          | none => s
        | none => s)

/-! Messages between Obinha instances (R97) -/

/-- A message that only the lead member takes, from another member of the rim. -/
def Rim.toLead (r : Rim) (member : Nat) : Bool := r.leads && decide (member < r.n) && member != r.own

/-- RIM_CTRL (R97): what each message does on the member that receives it. -/
def execRimCtrl (part : Fin 4) (m : RimMsg) (s : State) : Host.Outcome State Fault Refusal :=
  .next (
    let p := part
    let r := s.rims[p]
    if s.stopped then s
    else if r.phase = .none then
      -- a rim forms here later than at the member that reports (R458)
      match m with
      | .tableReport model epoch k layers => s.modRim p (fun r => r.noteTab ⟨model.toNat, epoch.toNat, k, layers⟩)
      | .tableRequest model epoch k => s.modRim p (fun r => { r with tabAsked := r.tabAsked ++ [(model.toNat, epoch.toNat, k)] })
      | _ => s
    else match m with
      | .runReport ctx epoch first k layers =>
        if !r.toLead k then s
        else
          let model := ((s.ctx? ctx.toNat).map (·.model)).getD 0xFFFF
          (s.modRim p (fun r => r.noteRun (ctx.toNat, epoch.toNat, first) model k layers)).leadRun p |>.settleRim p
      | .runMap ctx epoch first half gens table =>
        if r.leads || !((r.run.map (fun (u : Run) => u.sent && !u.ready)).getD false) then s
        else (s.applyRunMap p (ctx.toNat, epoch.toNat, first) half gens table).settleRim p
      | .flipReport ctx epoch step k => if !r.toLead k then s else s.noteFlip p ctx.toNat epoch.toNat step k
      | .flipVerdict ctx step commit => if r.leads then s else s.applyFlip p ctx.toNat step commit
      | .pinReport ctx step k n =>
        if !r.toLead k then s else (s.modRim p (fun r => r.notePins ctx.toNat step k n)).leadPins p
      | .pinVerdict ctx step dual =>
        if r.leads || r.duals.any (fun d => d.1 = ctx.toNat && d.2.1 = step) then s
        else s.modRim p (fun r => { r with duals := r.duals ++ [(ctx.toNat, step, dual)] })
      | .switchReport ctx k step =>
        if !r.toLead k then s
        else match s.parts[p].switch with
          | .awaiting inc reps =>
            if s.parts[p].running = some ctx.toNat then
              (s.modPart p (fun q => { q with switch := .awaiting inc (reps.filter (fun e => e.1 ≠ k) ++ [(k, step)]) })).leadSwitch p |>.passH p
            else s.modPart p (fun q => { q with early := q.early ++ [(ctx.toNat, k, step)] })
          | _ => s.modPart p (fun q => { q with early := q.early ++ [(ctx.toNat, k, step)] })
      | .switchVerdict ctx step =>
        match s.parts[p].switch with
        | .awaiting inc _ =>
          if r.leads || s.parts[p].running ≠ some ctx.toNat then s else (s.modPart p (fun q => { q with switch := .through inc step })).passH p
        | _ => s
      | .tableReport model epoch k layers =>
        if !r.toLead k then s else (s.noteTable p ⟨model.toNat, epoch.toNat, k, layers⟩).retryTables p
      | .combinedTable model epoch layers =>
        if r.leads then s
        else (s.modRim p (fun r => r.setTable (model.toNat, epoch.toNat) layers)).retryTables p
      | .tableRequest model epoch k =>
        if !r.toLead k then s else (s.modRim p (fun r => { r with tabAsked := r.tabAsked ++ [(model.toNat, epoch.toNat, k)] })).answerTables p
      | .swapReport k _ flying run =>
        if !r.toLead k then s else (s.modPart p (fun q => { q with swapReps := q.swapReps.filter (fun e => e.1 ≠ k) ++ [(k, flying, run)] })).leadSwap p
      | .swapChoice inc victim at_ =>
        if r.leads then s
        else
          let v := victim.map (·.toNat)
          if (s.swapPlan inc.toNat v).isNone then (s.tellAll p .swapFail).swapFails p
          else s.modPart p (fun q => { q with swapAt := some (inc.toNat, v, at_) })
      | .swapFail => s.swapFails p)

end Sys2Proof.Machine
end

