-- ==== Sys2Proof/Machine/Power.lean ====
section
/-! DEFINITION. Power, clock, reset levels and bring-up (16_bringup_package): what each reset clears and keeps (R432 to R435), the losses of power and clock (R428, R431), and the stages up to ready (R436, R437). -/

namespace Sys2Proof.Machine

/-! Bring-up (R436) -/

/-- The end of a bring-up stage kept in PWR_STAGE_TIME, in µs after the release. -/
def State.stageEnded (s : State) (n : Nat) : State :=
  s.setReg blkPWR 0x0250 (BitVec.ofNat 64 (min (2 ^ 32 - 1) ((s.podTime - s.pwr.released).toNat / 1000))) n

/-- A stage becomes the one in progress. -/
def State.inStage (s : State) (n : Nat) : State := ({ s with pwr := { s.pwr with stage := n } } : State).stateEvent

/-- VCL starts to train afresh, in boot or in full mode (R282). -/
def State.trainVcl (s : State) (boot : Bool) : State :=
  { s with vcl := { s.vcl with st := .train, boot := boot, txSeq := 0, rxSeq := 0, replay := [], resends := 0, badRun := false, outQ := [], rspQ := [], retryDue := false,
                                  credits := Vector.replicate 3 0, owed := Vector.replicate 3 0 } }

/-- Stages 6 and 7 run together; stage 8 follows once both have ended. -/
def State.afterLinks (s : State) : State :=
  if s.pwr.vclDone && s.pwr.linksDone then s.inStage 8 else if s.pwr.vclDone then s.inStage 7 else s

/-- VCL leaves the state it is in for DOWN, out of UP as a return that counts (R281, R282). -/
def State.vclLeave (s : State) : State := if s.vcl.st = .up then s.vclCounted.vclDown else s.vclDown

/-- HBM trained and zeroed; VCL passes through DOWN and trains in full mode (R282), and the links start to train. -/
def State.hbmReady (s : State) : State :=
  let s : State := { s with mem := s.mem.filter (fun c => decide (hbmEnd ≤ c.1)), bad := [] }
  let s := (((s.stageEnded 5).inStage 6).vclLeave).trainVcl false
  forAll (List.finRange 20) (fun l s => if s.links[l].st = .down then s.setLink l .train else s) s

/-- VCL has entered UP: the end of stage 3 in boot mode, of stage 6 in full mode. -/
def State.vclReached (s : State) : State :=
  if s.pwr.stage = 3 then
    let s := (s.stageEnded 3).inStage 4
    if s.sec.boot = 4 then (s.stageEnded 4).inStage 5 else s
  else if s.pwr.stage = 6 && !s.vcl.boot then ({ s.stageEnded 6 with pwr := { s.pwr with vclDone := true } }).afterLinks
  else s

/-- Obinha has started: the end of stage 4. -/
def State.fwStarted (s : State) : State := if s.pwr.stage = 4 then (s.stageEnded 4).inStage 5 else s

/-- Stage 9 ends; stage 10 ends as it begins, since READY is 1 from then on. -/
def State.madeReady (s : State) : State := ((s.stageEnded 9).inStage 10).stageEnded 10

/-- Whether bring-up goes on: the main reset is released, none is being entered, and the device has not stopped. -/
def State.bringing (s : State) : Bool := !s.pwr.held && s.pwr.entering.isNone && !s.stopped

/-- BRINGUP_STAGE_END (R436, R437): the work of a stage is done, for stage 7 once every link is in UP, disabled, or has
returned to DOWN once; stage 2 reads the EEPROM chain and sets CHAIN_BAD where it cannot (R356, R374), and a failed HBM training is class D. -/
def execBringupStageEnd (r : StageEnd) (s : State) : Host.Outcome State Fault Refusal :=
  .next (
    if !s.bringing then s
    else match s.pwr.stage, r with
      | 2, .ok => if s.pwr.refclk then (({ s with sec := { s.sec with chainBad := false } } : State).stageEnded 2).inStage 3 |>.trainVcl true else s
      | 2, .chainUnreadable => if s.pwr.refclk then (({ s with sec := { s.sec with chainBad := true } } : State).stageEnded 2).inStage 3 |>.trainVcl true else s
      | 5, .ok => s.hbmReady
      | 5, .hbmTrainFail => s.stopDevice blkHBM 0x0704
      | 6, .ok | 7, .ok =>
        let settled := s.links.toList.all (fun k => k.st = .up || k.st = .down || k.st = .disabled || k.returned)
        if s.pwr.linksDone || !settled then s
        else ({ s.stageEnded 7 with pwr := { s.pwr with linksDone := true } }).afterLinks
      | 8, .ok => (s.stageEnded 8).inStage 9
      | 9, .ok => if s.time.locked || s.time.root then s.madeReady else s
      | _, _ => s)

/-- TIME_SYNC_TIMEOUT (R437). -/
def execTimeSyncTimeout (s : State) : Host.Outcome State Fault Refusal :=
  .next (
    if !s.bringing || s.pwr.stage ≠ 9 || s.time.locked || s.time.root then s
    else
      let s := s.madeReady
      { s with pwr := { s.pwr with timePending := true } })

/-! Reset levels (R432) -/

/-- PWR_RESET_CAUSE.LAST of a cause, and its precedence: the lower goes first (R434). -/
def ResetCause.code : ResetCause → Nat
  | .standby => 1
  | .pwrOk => 2
  | .rstN => 3
  | .pwrReset => 4

/-- PWR_RESET_CAUSE.LAST set. -/
def State.setLast (s : State) (c : ResetCause) : State :=
  s.setReg blkPWR 0x0230 (BitVec.ofNat 64 (put c.code 16 4 + fld (s.reg blkPWR 0x0230) 0 3))

/-- The links after a reset: those of the twin port stay disabled without a twin (R435). -/
def resetLinks (twinAbsent : Bool) : Vector Link 20 :=
  Vector.ofFn (fun (i : Fin 20) => if twinAbsent && decide (18 ≤ i.val) then { st := LinkSt.disabled } else {})

/-- The state after a main reset: every block but MGT is reset, the reset causes, the almanac and the ageing indexes kept (R425, R432, R434). -/
def State.mainReset (s : State) (c : ResetCause) : State :=
  let kept := s.regs.filter (fun r => r.1 / 2 ^ 16 % 2 ^ 16 = blkMGT || r.1 = rkey blkPWR 0x0230 0 || r.1 = rkey blkPWR 0x0238 0)
  let h := s.hkp
  let t : State := { State.reset with
    fuses := s.fuses, regs := kept, mgt := s.mgt, mem := s.mem, out := s.out, freeN := s.freeN, pending := s.pending
    links := resetLinks s.pwr.twinAbsent
    hkp := { (({}) : Hkp) with
      wasHot := h.wasHot, alm := h.alm, almPos := h.almPos, almSeq := h.almSeq, almUtc := h.almUtc, almHot := h.almHot, almHeld := h.almHeld, almNow := h.almNow
      almWrite := h.almWrite, totals := h.totals, age := h.age }
    pwr := { s.pwr with entering := none, asked := false, held := true, stage := 0, vclDone := false, linksDone := false, released := 0, timePending := false } }
  (t.setLast c).stateEvent

/-- What survives the loss of all power: the fuses and the EEPROM without the record whose write it breaks off, the pins' levels and host memory. -/
def State.powerless (s : State) : State :=
  { State.reset with
    fuses := s.fuses, out := s.out, freeN := s.freeN, pending := s.pending, mem := s.mem.filter (fun c => decide (hbmEnd ≤ c.1))
    hkp := { (({}) : Hkp) with alm := match s.hkp.almWrite with
      | some w => almErased (w.tried ++ [w.pos]) s.hkp.alm
      | none => s.hkp.alm }
    pwr := { (({}) : Pwr) with stby := false, pwrOk := s.pwr.pwrOk, rstN := s.pwr.rstN, trstN := s.pwr.trstN, twinN := s.pwr.twinN, refclk := s.pwr.refclk } }

/-- The release of the main reset, once PWR_OK and RST_N are high (R432, R436): TWIN_PRESENT_N is sampled (R435), and bring-up begins. -/
def State.release2 (s : State) : State :=
  if s.pwr.held && s.pwr.pwrOk && s.pwr.rstN && s.pwr.stby && !s.pwr.stbyHeld && s.pwr.entering.isNone then
    let s : State := { s with links := resetLinks s.pwr.twinN, pwr := { s.pwr with held := false, twinAbsent := s.pwr.twinN, released := s.podTime } }
    s.inStage 2
  else s

/-- A main reset begins (R433): the departure message goes out, and the effect follows 10 µs later. Of events that meet, the one of higher
precedence is recorded, as when one comes while a reset is held (R434). -/
def State.beginReset (s : State) (c : ResetCause) : State :=
  match s.pwr.entering with
  | some (d, t) => { s with pwr := { s.pwr with entering := some (if c.code < d.code then c else d, t) } }
  | none =>
    if s.pwr.held then (if c.code < fld (s.reg blkPWR 0x0230) 16 4 then s.setLast c else s)
    else
      let s := if s.stopped then s else s.sendDeparture
      { s with pwr := { s.pwr with entering := some (c, s.podTime) } }

/-- MAIN_RESET_EFFECT (R433). -/
def execMainResetEffect (s : State) : Host.Outcome State Fault Refusal :=
  .next (
    match s.pwr.entering with
    | some (c, _) => (s.mainReset c).release2
    | none => s)

/-! Standby power (R427, R432) -/

/-- STANDBY_POWER_ON (R432). -/
def execStandbyPowerOn (s : State) : Host.Outcome State Fault Refusal :=
  .next (if s.pwr.stby then s else { s.powerless with pwr := { s.powerless.pwr with stby := true } })

/-- STANDBY_POWER_OFF (R427). -/
def execStandbyPowerOff (s : State) : Host.Outcome State Fault Refusal := .next (if s.pwr.stby then s.powerless else s)

/-- The totals and ageing indexes of an almanac record (Table 15.5). -/
def almTotals (r : Bytes) : Totals × Vector Nat 28 :=
  ({ powerOnS := leAt r 24 8, cycles := leAt r 32 8, fwLoads := leAt r 40 8, linkErrs := leAt r 48 8, dFaults := leAt r 56 4
     peak := (BitVec.ofNat 8 (leAt r 60 1)).toInt },
   Vector.ofFn (fun (i : Fin 28) => 225 * leAt r (64 + 4 * i.val) 4 * 2 ^ 32))

/-- The almanac loaded (R416): the valid record of the highest SEQ, or ALM_EMPTY. -/
def State.loadAlmanac (s : State) : State :=
  match s.almLatest.head? with
  | some r =>
    let (t, age) := almTotals r
    let pos := ((s.hkp.alm.find? (fun e => e.2 = r)).map (·.1)).getD 511
    { s with hkp := { s.hkp with totals := t, age := age, almPos := pos, almSeq := leAt r 8 8, almUtc := leAt r 16 8 } }
  | none => s.stick blkHKP 0x0240 2

/-- STANDBY_RESET_RELEASE (R425, R430, R432): a REFCLK that has been present for long clocks the island from then on. -/
def execStandbyResetRelease (s : State) : Host.Outcome State Fault Refusal :=
  .next (
    if !s.pwr.stby || !s.pwr.stbyHeld then s
    else ((({ s with pwr := { s.pwr with stbyHeld := false, stbyClock := s.pwr.refclk } } : State).loadAlmanac).release2).stateEvent)

/-! Pins and clocks -/

/-- PWR_OK_RISE (R436). -/
def execPwrOkRise (s : State) : Host.Outcome State Fault Refusal :=
  .next (if s.pwr.pwrOk then s else (({ s with pwr := { s.pwr with pwrOk := true } } : State).release2).stateEvent)

/-- PWR_OK_FALL (R428, R415): past stage 2 a power loss of class D; the almanac is written at once. -/
def execPwrOkFall (s : State) : Host.Outcome State Fault Refusal :=
  .next (
    if !s.pwr.pwrOk then s
    else
      let s : State := { s with pwr := { s.pwr with pwrOk := false } }
      let s := if 2 < s.pwr.stage then (s.stick blkPWR 0x0230 1).stopDevice blkPWR 0x0C03 else s
      let s : State := if s.stbyOn then s.almPwrOk else s
      (s.beginReset .pwrOk).stateEvent)

/-- RST_N_FALL (R433). -/
def execRstNFall (s : State) : Host.Outcome State Fault Refusal :=
  .next (if s.pwr.rstN then ({ s with pwr := { s.pwr with rstN := false } } : State).beginReset .rstN else s)

/-- RST_N_RISE (R432, R433, R435): a pulse shorter than 10 µs has no effect, and a reset that a PWR_RESET write asked for goes on. The command brings the level of TWIN_PRESENT_N, which a release samples. -/
def execRstNRise (twinPresentN : Bool) (s : State) : Host.Outcome State Fault Refusal :=
  .next (
    if s.pwr.rstN then s
    else
      let e := match s.pwr.entering with
        | some (.rstN, t) => if s.pwr.asked then some (.pwrReset, t) else none
        | x => x
      ({ s with pwr := { s.pwr with rstN := true, twinN := twinPresentN, entering := e } } : State).release2)

/-- TRST_N low (R432): only the TAP controller is reset. -/
def execTrstN (s : State) : Host.Outcome State Fault Refusal := .next { s with pwr := { s.pwr with trstN := false, tap := true } }

/-- REFCLK_LOSS (R430, R431): a clock loss, class D, while PWR_OK is high; the standby island goes back to its own oscillator. A loss while a main reset
is held is recorded as well, where there is nothing to stop (DEDUCED, log entry 115). -/
def execRefclkLoss (s : State) : Host.Outcome State Fault Refusal :=
  .next (
    let lost := s.pwr.refclk && s.pwr.pwrOk
    let s : State := { s with pwr := { s.pwr with refclk := false, stbyClock := false } }
    if lost then
      let s := s.stick blkPWR 0x0230 4
      if s.pwr.held then s.noteD blkPWR 0x0C05 else s.stopDevice blkPWR 0x0C05
    else s)

/-- REFCLK_PRESENT (R430). -/
def execRefclkPresent (s : State) : Host.Outcome State Fault Refusal :=
  .next { s with pwr := { s.pwr with refclk := true, stbyClock := s.stbyOn } }

/-- PWR_RESET (R434, R435). -/
def execPwrReset (v : Word) (s : State) : Host.Outcome State Fault Refusal :=
  .next (if fld v 48 16 = 0x9624 && bit v 0 && s.pwr.entering.isNone && !s.pwr.held then ({ s with pwr := { s.pwr with asked := true } } : State).beginReset .pwrReset else s)

end Sys2Proof.Machine
end

