-- ==== Sys2Proof/Machine/Security.lean ====
section
/-! DEFINITION. Firmware loading and verification (R368 to R371), the SPDM responders (R366, R367), and the entropy source (R373). -/

namespace Sys2Proof.Machine

/-! Firmware (R369 to R371) -/

/-- A firmware load begins: it owns the boot ROM until its verification ends. -/
def State.beginFw (s : State) (mgt : Bool) (len : Nat) : State :=
  ({ s with fwLoad := some { mgt := mgt, len := len, bytes := [], ended := false }, sec := { s.sec with boot := if mgt then 2 else 1 } } : State).stateEvent

/-- LOAD set in SEC_FW_CTL: acts only in "awaiting image", in VCL boot mode; the image is read with RD_SHARED (R369). -/
def State.loadHost (s : State) : State :=
  if s.sec.boot = 0 && s.vcl.st = .up && s.vcl.boot && !s.stopped && s.pwr.entering.isNone && decide (3 ≤ s.pwr.stage) then
    let len := fld (s.reg blkSEC 0x0210) 0 22
    let s := s.beginFw false len
    let qs := (hostBlocks (hostBase + (s.reg blkSEC 0x0208).toNat) len).map (fun b => (⟨.fw, false, false, b.1, b.2⟩ : ObReq))
    (({ s with vcl := { s.vcl with obReqs := s.vcl.obReqs ++ qs } } : State).vclPump).fwRead
  else s

/-- A write of SEC_FW_SRC, which acts only in "awaiting image" (R369). -/
def State.setFwSrc (s : State) (v : Word) : State :=
  if s.sec.boot = 0 then s.setReg blkSEC 0x0208 (v &&& ~~~ 0x3F#64) else s

/-- A write of SEC_FW_CTL: LEN, and the load if LOAD is 1. -/
def State.setFwCtl (s : State) (v : Word) : State :=
  let s := if s.sec.boot = 0 then s.setReg blkSEC 0x0210 (v &&& 0x3FFFFF#64) else s
  if bit v 63 then s.loadHost else s

/-- FW_LOAD_HOST (R369): SEC_FW_SRC and LEN written, then LOAD set. -/
def execFwLoadHost (src len : BitVec 64) (s : State) : Host.Outcome State Fault Refusal :=
  .next ((s.setFwSrc src).setFwCtl ((len &&& 0x3FFFFF#64) ||| 0x8000000000000000#64))

/-- The code of Table 13.8 for an image of a length, its header as Table 13.7 gives it: the first check in order that fails, 0 for none. -/
def fwCode (fuses : Fuses) (len : Nat) (b : Bytes) (readOk : Bool) : Nat :=
  let step := if fuses.stepping = 0xB0 then 1 else 0
  let key := leAt b 20 1
  if !(decide (512 ≤ len) && decide (len ≤ 3145728) && len = 512 + leAt b 16 4) then 1
  else if !(leAt b 0 4 = 0x4F424E48 && leAt b 4 2 = 1 && decide (leAt b 6 2 < 4) && zeroAt b 21 11 && zeroAt b 360 152) then 2
  else if !(leAt b 6 2).testBit step then 3
  else if 3 < key || bit fuses.revoked key then 4
  else if pointHash ((b.drop 96).take 132) ≠ romHash key then 5
  else if leAt b 12 4 < fuses.minSvn.toNat then 6
  else if !ecdsaOk ((b.drop 96).take 132) (b.take 228) ((b.drop 228).take 132) then 7
  else if sha512 ((b.drop 512).take (leAt b 16 4)) ≠ (b.drop 32).take 64 then 8
  else if !readOk then 9 else 0

/-- Obinha started from a verified image: its version and SVN, its digest and key number for the measurements, and the keys of this boot, the alias
key from the image's digest with its certificate and the storage key from 32 random bytes (R356, R370, Table 13.1). -/
def State.startFw (s : State) (b : Bytes) : State :=
  let random := (List.range 4).flatMap (fun i => toLe 8 (Config.freeValue (s.freeN + i)).toNat)
  ({ s with freeN := s.freeN + 4, sec := { s.sec with
    boot := 4, recovery := false, svn := BitVec.ofNat 8 (leAt b 12 4), version := BitVec.ofNat 32 (leAt b 8 4), fwDigest := sha512 b, fwKey := leAt b 20 1
    aliasKey := derivedKey s.fuses.secret (sha512 b) "vpz-alias", aliasCert := aliasCertOf s.fuses.secret (sha512 b), storageKey := storageKeyOf s.fuses.secret random } } : State).fwStarted.stateEvent

/-- The image of a load: what the management controller has sent, or what the reads of host memory have brought. -/
def State.fwImage (s : State) (l : FwLoad) : Bytes := if l.mgt then l.bytes else s.peekN (hostBase + (s.reg blkSEC 0x0208).toNat) l.len

/-- The device enters recovery, with VCL held in DOWN (R371). -/
def State.enterRecovery (s : State) : State :=
  let s := ((s.stick blkSEC 0x0230 16).record blkSEC .none 0x0104).vclLeave
  ({ s with sec := { s.sec with boot := 5, recovery := true } } : State).stateEvent

/-- FW_VERIFY_DONE (R370, R371): Obinha starts, or the device enters recovery. -/
def execFwVerifyDone (_ : Unit) (s : State) : Host.Outcome State Fault Refusal :=
  .next (
    match s.fwLoad with
    | none => s
    | some l =>
      if s.stopped || !l.ended || s.sec.boot ≠ 3 then s
      else
        let b := s.fwImage l
        let code := fwCode s.fuses l.len b (!l.failed)
        let s : State := { s with fwLoad := none, hkp := { s.hkp with totals := { s.hkp.totals with fwLoads := s.hkp.totals.fwLoads + 1 } } }
        let s := (s.count blkSEC 0x0250).almEvent 3
        let s : State := { s with sec := { s.sec with result := BitVec.ofNat 8 code } }
        if code = 0 then s.startFw b else s.enterRecovery)

/-! Attestation (R366, R367) -/

/-- The measurement blocks of Table 13.6, as they stand at the request. Block 3 holds one byte each of its three contents in the table's order, then 0
(DESIGN CHOICE, log entry 10). -/
def State.measurements (s : State) : List Bytes :=
  let f := s.fuses
  let m := s.measBlocks
  [toLe 4 Config.romVersion.toNat, s.sec.fwDigest, [s.sec.svn, f.minSvn, BitVec.ofNat 8 s.sec.fwKey, 0],
   sha512 (Config.measureBytes 4 ([b2n f.binL, f.stepping.toNat, b2n f.debug, f.revoked.toNat] ++ (if f.rootSet then rootHash.map (·.toNat) else []))),
   sha512 (Config.measureBytes 5 (m.getD 0 [])),
   sha512 ((List.range 64).flatMap (fun i => (look s.sec.publishers i).getD (List.replicate 132 0))),
   sha512 (Config.measureBytes 7 (m.getD 2 []))]

/-- The SPDM 1.2 requests that the responder answers, by request code (PRESUMED: the codes of DSP0274). -/
def spdmKnown (req : Bytes) : Bool :=
  match req[1]? with
  | some c => [0x81, 0x82, 0x83, 0x84, 0xE0, 0xE1, 0xE3].contains c.toNat
  | none => false

/-- An SPDM ERROR response (PRESUMED: its layout and codes, of DSP0274). -/
def spdmError (code data : Nat) : Bytes := [0x12, 0x7F, BitVec.ofNat 8 code, BitVec.ofNat 8 data]

/-- What the responder's answers state (R366): the capabilities CERT_CAP, CHAL_CAP and MEAS_CAP with signatures, the algorithms P-521 with ECDSA and SHA-512
(PRESUMED: the bits of DSP0274), and the chain of slot 0 up to the alias certificate. -/
def State.spdmFacts (s : State) : List Bytes := [toLe 4 0x16, toLe 4 0x100, toLe 4 4, Config.certChain ++ s.sec.aliasCert]

/-- A portion of the chain of slot 0 (R366): of the length asked for, at most 3,584 B (PRESUMED: the layout of DSP0274). -/
def State.spdmChain (s : State) (req : Bytes) : Bytes :=
  let chain := Config.certChain ++ s.sec.aliasCert
  let off := leAt req 4 2
  let part := (chain.drop off).take (min 3584 (leAt req 6 2))
  [0x12, 0x02, 0, 0] ++ toLe 2 part.length ++ toLe 2 (chain.length - off - part.length) ++ part

/-- Whether the alias key signs the answer to a request: a CHALLENGE, and a GET_MEASUREMENTS that asks for it (PRESUMED: bit 0 of its second parameter,
DSP0274). -/
def spdmSigned (req : Bytes) : Bool := req[1]? = some 0x83 || (req[1]? = some 0xE0 && bit (req.getD 2 0) 0)

/-- The answer of one of the two responders to an SPDM request, which keep separate state; one refused sets SPDM_BAD. Without a readable chain
GET_CERTIFICATE answers with an error (R356). A signed answer carries the alias key's signature over the requests so far and what precedes it (R366);
where there is no alias key it is an error (DESIGN CHOICE, log entry 116). -/
def State.spdmAnswer (s : State) (vcl : Bool) (req : Bytes) : Bytes × State :=
  if !spdmKnown req || 4096 < req.length then
    (spdmError 7 ((req.getD 1 0).toNat), (s.stick blkSEC 0x0230 32).record blkSEC .none 0x0105)
  else
    let n := s.freeN
    let asked := (if vcl then s.sec.spdmVcl else s.sec.spdmMgt) ++ [req]
    let s : State := { s with freeN := n + 1, sec := if vcl then { s.sec with spdmVcl := asked } else { s.sec with spdmMgt := asked } }
    if req[1]? = some 0x82 then (if s.sec.chainBad then spdmError ((Config.freeValue n).toNat) 0 else s.spdmChain req, s)
    else
      let ans := (Config.standardAnswer asked (s.measurements ++ s.spdmFacts) n).take (4096 - 132)
      (if !spdmSigned req then ans
        else if s.sec.aliasKey = [] then spdmError ((Config.freeValue n).toNat) 0
        else ans ++ ecdsaSign s.sec.aliasKey (asked.flatten ++ ans), s)

/-- GO set in SEC_SPDM_CTL (R372): the request in the mailbox is replaced by the response, and RSP_LEN tells its length. -/
def State.spdmGo (s : State) (len : Nat) : State :=
  let (ans, s) :=
    if len = 0 || 4096 < len then (spdmError 1 0, (s.stick blkSEC 0x0230 32).record blkSEC .none 0x0105)
    else s.spdmAnswer true (getBytes s.spdm 0 len)
  let s : State := { s with spdm := setBytes s.spdm 0 ans }
  s.setReg blkSEC 0x0238 (BitVec.ofNat 64 (put ans.length 16 13 + put len 0 13))

/-- SPDM_GO (R366, R372). -/
def execSpdmGo (reqLen : BitVec 13) (s : State) : Host.Outcome State Fault Refusal :=
  .next (if s.stopped then s else s.spdmGo reqLen.toNat)

/-- ENTROPY_HEALTH_FAIL (R373). -/
def execEntropyHealthFail (s : State) : Host.Outcome State Fault Refusal :=
  .next (if s.pwr.held || s.stopped then s else (s.stick blkSEC 0x0230 64).stopDevice blkSEC 0x0106)

end Sys2Proof.Machine
end

