-- ==== Sys2Proof/Machine/Views.lean ====
section
/-! DEFINITION. What a read of each register returns (17_address_map, R451 to R454): the registers kept as words, and the views of typed state, of the entry that a selector names. -/

namespace Sys2Proof.Machine

/-- A field of a view. -/
def fieldsOf (l : List (Nat × Nat × Nat)) : Word := BitVec.ofNat 64 ((l.map (fun (f : Nat × Nat × Nat) => put f.1 f.2.1 f.2.2)).sum)

/-- A signed number as a field. -/
def sfield (v : Int) (len : Nat) : Nat := (v % 2 ^ len).toNat

/-- A register of an entry that a selector names, zero for a selector out of range (R454). -/
def State.regAt (s : State) (blk off idx limit : Nat) : Word := if idx < limit then s.reg blk off idx else 0

/-- A selector's value. -/
def State.sel (s : State) (blk off : Nat) : Nat := (s.reg blk off).toNat

/-! CTL (Tables 11.10 to 11.12, 12.9 to 12.12, 17.4, 17.5) -/

/-- STATE of CTL_RING_STATUS. -/
def RingSt.code : RingSt → Nat
  | .disabled => 0
  | .active => 1
  | .draining => 2
  | .error => 3

/-- CTL_RING_STATUS. -/
def Ring.status (g : Ring) : Word :=
  fieldsOf [(g.cfgStatus.toNat, 56, 8), (g.st.code, 54, 2), (g.err.toNat, 48, 4), (g.cqHead, 36, 12), (g.cqTail, 24, 12), (g.sqHead, 12, 12),
    (g.sqTail, 0, 12)]

/-- Whether a context is resident. -/
def Ctx.isResident (x : Ctx) : Bool := x.st = .resident || x.st = .running

/-- CTL_PART_STATUS. -/
def State.partStatus (s : State) (p : Fin 4) : Word :=
  let q := s.parts[p]
  let mode := if q.change.isSome then 2 else match q.mode with
    | .demand => 0
    | .cyclic => 1
  let sw := match q.switch with
    | .idle => 0
    | .awaiting .. => 2
    | .through .. => 1
    | .moving _ => 1
  fieldsOf [(b2n q.running.isSome, 48, 1), (q.running.getD 0, 38, 10), (b2n q.preempt.isSome, 37, 1), (q.preempt.getD 0, 27, 10),
    ((s.ctxs.filter (fun (x : Nat × Ctx) => x.2.part = p && x.2.isResident)).length, 23, 4), (mode, 21, 2), (sw, 19, 2), (q.first, 15, 4), (q.cores, 10, 5)]

/-- CTL_SCHED_STATUS. -/
def State.schedStatus (s : State) (p : Fin 4) : Word :=
  let q := s.parts[p]
  match q.mode with
  | .demand => 0
  | .cyclic => fieldsOf [(q.slot, 40, 8), ((s.podTime - q.period0).toNat / 1000, 0, 32)]

/-- STATE of CTL_CTX_STATE. -/
def CState.code : CState → Nat
  | .created => 1
  | .resident => 2
  | .running => 3
  | .faulted => 4

/-- CTL_CTX_STATE. -/
def ctxStatus (x : Ctx) : Word :=
  let img := match x.imgAt with
    | .none => 0
    | .hbm => 1
    | .host => 2
  fieldsOf [(x.queue.length, 35, 5), (b2n (x.queue.any (fun (w : Work) => w.st = WState.preempted)), 34, 1), (img, 32, 2), (x.attr.toNat, 26, 6), (b2n x.be, 25, 1),
    (if x.isResident then x.cslot.val else 0, 21, 3), (x.part.val, 18, 2), (x.st.code, 0, 3)]

/-- A register of CTL. -/
def State.viewCtl (s : State) (off : Nat) : Word :=
  let ring := s.sel blkCTL 0x0400
  let r : Fin 64 := Fin.ofNat 64 ring
  let part := s.sel blkCTL 0x0500
  let p : Fin 4 := Fin.ofNat 4 part
  let x := s.ctx? (s.sel blkCTL 0x0528)
  let client := s.client (s.sel blkCTL 0x0548)
  match off with
  | 0x0200 => fieldsOf [(0x7A31, 48, 16), (0x9624, 32, 16), (s.fuses.stepping.toNat, 16, 16), (b2n s.fuses.binL, 8, 1)]
  | 0x0208 => s.fuses.serial
  | 0x0400 | 0x0430 | 0x0438 | 0x0440 | 0x0448 | 0x0500 | 0x0528 | 0x0540 | 0x0548 => s.reg blkCTL off
  | 0x0408 | 0x0410 | 0x0418 => s.reg blkCTL off ring
  | 0x0420 => s.rings[r].status
  | 0x0428 => fieldsOf [(b2n s.obinhaOn, 63, 1), (s.taken.length, 0, 10)]
  | 0x0508 => s.partStatus p
  | 0x0510 | 0x0520 | 0x0568 | 0x0570 | 0x0578 | 0x0580 | 0x0588 => s.reg blkCTL off part
  | 0x0518 => s.schedStatus p
  | 0x0530 => (x.map ctxStatus).getD 0
  | 0x0538 => (x.map (fun c => c.nextStep)).getD 0
  | 0x0550 => client.1
  | 0x0558 => client.2.1
  | 0x0560 => client.2.2
  | _ => 0

/-! SEC (Tables 13.10 to 13.12) -/

/-- SEC_STATUS. -/
def State.secStatus (s : State) : Word :=
  fieldsOf [(s.fuses.minSvn.toNat, 40, 8), (s.sec.svn.toNat, 32, 8), (s.fuses.revoked.toNat, 24, 4), (b2n s.sec.chainBad, 19, 1), (b2n s.fuses.debug, 18, 1),
    (b2n s.fuses.rootSet, 17, 1), (s.sec.result.toNat, 8, 8), (s.sec.boot, 0, 3)]

/-- A register of SEC. LOAD reads 1 until the load from the host has ended. -/
def State.viewSec (s : State) (off : Nat) : Word :=
  if 0x1000 ≤ off then BitVec.ofNat 64 (leNat (getBytes s.spdm (off - 0x1000) 8))
  else match off with
    | 0x0200 => s.secStatus
    | 0x0208 | 0x0228 | 0x0230 | 0x0238 | 0x0240 | 0x0248 | 0x0250 => s.reg blkSEC off
    | 0x0210 => s.reg blkSEC 0x0210 ||| (if (s.fwLoad.map (·.mgt)) = some false then 0x8000000000000000 else 0)
    | 0x0218 => BitVec.ofNat 64 ((s.sec.publishers.map (fun k => 2 ^ k.1)).sum)
    | 0x0220 => BitVec.ofNat 64 s.enc.models.length
    | _ => 0

/-! SYN (Tables 6.11, 7.7 to 7.11) -/

/-- The resident context that SYN_BIND_SEL names. -/
def State.boundCtx (s : State) : Option Ctx :=
  let v := s.sel blkSYN 0x0218
  (s.ctxs.find? (fun (x : Nat × Ctx) => x.2.isResident && decide (x.2.part.val = v / 8) && decide (x.2.cslot.val = v % 8))).map (·.2)

/-- The numbers of flags, counters and barriers that a context's program uses. -/
def Ctx.uses (x : Ctx) : Nat × Nat × Nat := (x.prog.map (fun (g : Program) => (g.cflags, g.ctrs, g.bars.length))).getD (0, 0, 0)

/-- A register of SYN. -/
def State.viewSyn (s : State) (off : Nat) : Word :=
  let q := s.syn.ghq[(Fin.ofNat 64 (s.sel blkSYN 0x0800) : Fin 64)]
  match off with
  | 0x0200 | 0x0208 | 0x0210 | 0x0218 | 0x0238 | 0x0240 | 0x0248 | 0x0250 | 0x0258 | 0x0260 | 0x0800 => s.reg blkSYN off
  | 0x0220 => (s.boundCtx.map (fun x => fieldsOf [(x.uses.1, 32, 14), (x.cflagBase, 0, 13)])).getD 0
  | 0x0228 => (s.boundCtx.map (fun x => fieldsOf [(x.uses.2.2, 48, 9), (x.barBase, 32, 8), (x.uses.2.1, 16, 13), (x.ctrBase, 0, 13)])).getD 0
  | 0x0230 => fieldsOf [(s.syn.heldPeak, 32, 11), (s.syn.held.length, 0, 11)]
  | 0x0268 => s.podTime
  | 0x0808 => fieldsOf [(b2n q.owner.isSome, 32, 1), (q.entries.length, 0, 6)]
  | 0x0810 => BitVec.ofNat 64 s.syn.parked.length
  | _ => 0

/-! FAB (Tables 9.12 to 9.16) -/

/-- FAB_LINK_STATUS. -/
def State.linkStatus (s : State) (l : Fin 20) : Word :=
  let k := s.links[l]
  let (port, dir) := s.portDir l.val
  fieldsOf [(k.retrains.toNat, 40, 8), ((k.partner.map (fun (m : HelloMsg) => m.link.toNat)).getD 0, 32, 5), (k.st.code, 26, 3), (s.role l.val, 24, 2), (port, 20, 3),
    (dir, 16, 3), (k.fcOut.toNat, 0, 5)]

/-- FAB_TIME_STATUS. -/
def State.timeStatus (s : State) : Word :=
  let t := s.time
  fieldsOf [((s.fab.banks[s.fab.inj]).prio.toNat, 51, 8), (b2n t.root, 50, 1), (b2n t.locked, 49, 1), ((t.parent.map (·.val)).getD 0, 44, 5), (t.depth, 36, 8),
    (sfield t.rate 20, 16, 20), (sfield t.offset 16, 0, 16)]

/-- A register of FAB. -/
def State.viewFab (s : State) (off : Nat) : Word :=
  let b := s.fab.banks[s.fab.inj]
  let link := s.sel blkFAB 0x0210
  let l : Fin 20 := Fin.ofNat 20 link
  match off with
  | 0x0200 => fieldsOf [(b.extZ - 1, 47, 4), (b.extY - 1, 41, 6), (b.extX - 1, 35, 6), (b.ownCoord.toNat, 16, 16), (b.ownEp.toNat, 0, 16)]
  | 0x0208 | 0x0210 | 0x0258 | 0x02B8 | 0x02D0 | 0x02D8 | 0x02E0 | 0x02E8 | 0x02F0 | 0x02F8 | 0x0300 => s.reg blkFAB off
  | 0x0218 => if link < 20 then s.linkStatus l else 0
  | 0x0220 => if link < 20 then (s.links[l].partner.map (fun (m : HelloMsg) => m.serial)).getD 0 else 0
  | 0x0228 | 0x0230 | 0x0238 | 0x0240 | 0x0248 | 0x0250 => s.regAt blkFAB off link 20
  | 0x0260 | 0x0268 | 0x0270 | 0x0278 | 0x0280 | 0x0288 | 0x0290 | 0x0298 => s.regAt blkFAB off (s.sel blkFAB 0x0258) 8
  | 0x02A0 =>
    fieldsOf [(b2n s.fab.flip.isSome, 35, 1), (s.fab.inj.val, 34, 1), (b2n s.fab.banks[1].live, 33, 1), (b2n s.fab.banks[0].live, 32, 1),
      (min (s.drain 1) 65535, 16, 16), (min (s.drain 0) 65535, 0, 16)]
  | 0x02A8 => fieldsOf [(20, 32, 8), (b.pktMaxM1.toNat, 16, 6), (100, 0, 16)]
  | 0x02B0 => BitVec.ofNat 64 s.tune.gust
  | 0x02C0 => s.timeStatus
  | 0x02C8 => s.time.rootSerial
  | _ => 0

/-! RIM (Tables 4.7 to 4.15) -/

/-- STATE of RIM_CFG. -/
def RimPhase.code : RimPhase → Nat
  | .none => 0
  | .forming => 1
  | .formed => 2
  | .dissolving => 3

/-- A register of RIM. -/
def State.viewRim (s : State) (off : Nat) : Word :=
  let part := s.sel blkRIM 0x0200
  let p : Fin 4 := Fin.ofNat 4 part
  let r := s.rims[p]
  match off with
  | 0x0200 => s.reg blkRIM 0x0200
  | 0x0208 => fieldsOf [(r.phase.code, 30, 2), (r.lead, 24, 6), (r.n, 10, 7), (r.own, 0, 6)]
  | 0x0210 => fieldsOf [((s.linksUp r.ccw).toNat, 24, 18), ((s.linksUp r.cw).toNat, 0, 18)]
  | 0x0218 => fieldsOf [(r.gap, 32, 16), (r.deadline, 0, 32)]
  | 0x0220 => if s.parts[p].cores = 0 then 0 else fieldsOf [(s.parts[p].ringMib, 32, 16), (s.ringBase p / 65536, 0, 32)]
  | 0x0228 => fieldsOf [((r.ringPeak + 1023) / 1024, 32, 32), ((r.ringUsed + 1023) / 1024, 0, 32)]
  | 0x0230 => fieldsOf [(r.injLayer, 12, 12), (r.consLayer, 0, 12)]
  | 0x0238 => r.step
  | 0x0240 | 0x0248 | 0x0250 | 0x0258 | 0x0260 | 0x0268 | 0x0270 | 0x0278 | 0x0280 | 0x0288 | 0x0290 | 0x0298 => s.reg blkRIM off part
  | _ => 0

/-! WEF and ENC (Tables 3.10 to 3.17) -/

/-- WEF_SLOT_STATE. -/
def State.slotState (s : State) (p : Fin 4) (n : Nat) : Word :=
  let t := (look s.tslots[p] n).getD {}
  let half := decide (128 ≤ n)
  let holds := fun (u : Option Run) => (u.map (fun (v : Run) => v.ready && v.half = half)).getD false
  let owner := if holds s.rims[p].run then 1 else if (holds s.rims[p].prev || holds s.rims[p].heldRun) && !s.halfFree p half then 2 else 0
  fieldsOf [(t.refs, 16, 24), (if t.loaded then t.format else 0, 13, 3), (b2n t.loaded, 12, 1), (t.gen.toNat, 10, 2), (owner, 8, 2)]

/-- A register of WEF. -/
def State.viewWef (s : State) (off : Nat) : Word :=
  let v := s.sel blkWEF 0x0208
  match off with
  | 0x0200 | 0x0208 | 0x0218 => s.reg blkWEF off
  | 0x0210 => s.slotState (Fin.ofNat 4 (v / 256)) (v % 256)
  | _ => 0

/-- STATE of ENC_STATUS. -/
def EncPhase.code : EncPhase → Nat
  | .pass1 => 1
  | .pass2 => 2
  | .copyOut => 3
  | .copyIn => 4

/-- A register of ENC. -/
def State.viewEnc (s : State) (off : Nat) : Word :=
  match off with
  | 0x0200 => (s.enc.ops.head?.map (fun (o : EncOp) => fieldsOf [(o.model, 16, 16), (o.phase.code, 0, 3)])).getD 0
  | 0x0208 | 0x0220 | 0x0228 => s.reg blkENC off
  | 0x0210 => s.enc.salt.setWidth 64
  | 0x0218 => BitVec.ofNat 64 s.enc.dir.length
  | 0x0230 => if s.pwr.stage = 10 then fieldsOf [(storeSize / 2 ^ 30, 32, 16), (storeBase / 65536, 0, 32)] else 0
  | _ => 0

/-! HBM, VCL, TWN (Tables 14.7 to 14.9, 10.8 to 10.11) -/

/-- A register of HBM: controller 7 stands for all six. -/
def State.viewHbm (s : State) (off : Nat) : Word :=
  let c := s.sel blkHBM 0x0200
  match off with
  | 0x0200 | 0x0208 | 0x0210 => s.reg blkHBM off
  | 0x0218 | 0x0220 | 0x0228 | 0x0230 | 0x0238 | 0x0240 =>
    if c = 7 then BitVec.ofNat 64 (min (s.sumReg blkHBM off 6) (2 ^ 64 - 1)) else s.regAt blkHBM off c 6
  | _ => 0

/-- STATE of VCL_STATUS. -/
def VclSt.code : VclSt → Nat
  | .down => 0
  | .train => 1
  | .config => 2
  | .up => 3

/-- A register of VCL. -/
def State.viewVcl (s : State) (off : Nat) : Word :=
  match off with
  | 0x0200 => fieldsOf [(s.vcl.retrains.toNat, 32, 8), (s.vcl.st.code, 10, 2), (b2n (!s.vcl.boot), 9, 1), (b2n s.vcl.x8, 8, 1), (b2n (s.vcl.x8 && s.vcl.half), 0, 1)]
  | 0x0208 | 0x0210 | 0x0218 | 0x0230 | 0x0240 | 0x0248 | 0x0250 | 0x0258 | 0x0260 | 0x0268 | 0x0270 | 0x0278 | 0x0280 => s.reg blkVCL off
  | 0x0220 | 0x0228 => s.reg blkVCL off (s.sel blkVCL 0x0218)
  | 0x0238 => s.vcl.apt[(Fin.ofNat 16 (s.sel blkVCL 0x0230) : Fin 16)]
  | _ => 0

/-- STATE of TWN_STATUS. -/
def TwinSt.code : TwinSt → Nat
  | .unpaired => 0
  | .pairing => 1
  | .paired => 2
  | .departed => 3
  | .handedOver => 4

/-- TWN_STATUS. -/
def State.twinStatus (s : State) : Word :=
  let parts := fun (l : List (Fin 4)) => (((List.finRange 4).filter (fun p => l.contains p)).map (fun (p : Fin 4) => 2 ^ p.val)).sum
  fieldsOf [(b2n (s.links[18].st = .up) + 2 * b2n (s.links[19].st = .up), 16, 2), (parts (s.twin.hold.map (fun h => h.1)), 12, 4),
    (parts (s.twin.seated.map (fun h => h.1)), 8, 4), (s.twin.st.code, 0, 3)]

/-- A register of TWN. -/
def State.viewTwn (s : State) (off : Nat) : Word :=
  let id := s.sel blkTWN 0x0218
  let k := s.twin.ckpts.find? (fun (c : Ckpt) => c.ctx = id)
  match off with
  | 0x0200 => s.twinStatus
  | 0x0208 => BitVec.ofNat 64 s.twinSerial
  | 0x0210 | 0x0218 | 0x0230 | 0x0238 | 0x0240 | 0x0248 | 0x0250 | 0x0258 => s.reg blkTWN off
  | 0x0220 => (k.map (·.step)).getD 0
  | 0x0228 =>
    fieldsOf [(((s.ctx? id).map (fun x => x.interval.toNat)).getD 0, 16, 16), (b2n k.isSome, 1, 1), (b2n ((k.map (·.held)).getD false), 0, 1)]
  | _ => 0

/-! HKP, MGT, PWR (Tables 15.8 to 15.10, 16.10) -/

/-- A register of HKP. -/
def State.viewHkp (s : State) (off : Nat) : Word :=
  match off with
  | 0x0200 | 0x0210 | 0x0218 | 0x0220 | 0x0230 | 0x0240 => s.reg blkHKP off
  | 0x0208 => BitVec.ofNat 64 s.hkp.scrub
  | 0x0228 => s.utc.getD 0
  | 0x0238 => BitVec.ofNat 64 (s.hkp.age.toList.getD (s.sel blkHKP 0x0230) 0 / 2 ^ 32)
  | _ => 0

/-- A register of MGT. -/
def State.viewMgt (s : State) (off : Nat) : Word :=
  match off with
  | 0x0200 => fieldsOf [(s.mgt.eid.toNat, 16, 8), (s.mgt.addr.toNat, 9, 7), (b2n s.mgt.smbus, 8, 1), (b2n s.mgt.addressed, 0, 1)]
  | 0x0208 | 0x0210 | 0x0218 => s.reg blkMGT off
  | _ => 0

/-- PWR_BRINGUP. -/
def State.bringup (s : State) : Word :=
  let us := if s.pwr.held then 0 else min (2 ^ 32 - 1) ((s.podTime - s.pwr.released).toNat / 1000)
  fieldsOf [(b2n s.pwr.timePending, 39, 1), (s.pwr.stage, 32, 4), (us, 0, 32)]

/-- A register of PWR. -/
def State.viewPwr (s : State) (off : Nat) : Word :=
  let stage := s.sel blkPWR 0x0248
  match off with
  | 0x0200 | 0x0210 | 0x0218 | 0x0220 | 0x0230 | 0x0238 | 0x0248 => s.reg blkPWR off
  | 0x0208 =>
    fieldsOf [(s.hkp.hottest, 40, 8), (sfield (clamp8 s.hkp.hotC) 8, 32, 8), (s.hkp.level, 29, 3), (b2n s.hkp.therm, 28, 1), (s.arrayMHz, 16, 12), (s.hkp.powerW, 0, 16)]
  | 0x0240 => s.bringup
  | 0x0250 => if 2 ≤ stage && decide (stage ≤ 10) then s.reg blkPWR 0x0250 stage else 0
  | _ => 0

/-! The cores (Tables 2.9 to 2.15, 5.6 to 5.10, 6.6 to 6.10, 8.18, 8.19) -/

/-- FET_STATE of CORE_ENGINE_STATUS. -/
def EState.fetCode : EState → Nat
  | .halted => 0
  | .running => 1
  | .runAhead => 2
  | .waitQueue => 3
  | .waitArray => 3
  | .lull => 4
  | .faulted => 5

/-- CORE_ENGINE_STATUS. -/
def State.engineStatus (s : State) (c : Fin 16) : Word :=
  let k := s.cores[c]
  let g := match k.gate with
    | .gated => 0
    | .rampUp => 1
    | .enabled => 2
    | .rampDown => 3
  fieldsOf [(k.exe.pc.toNat, 32, 12), (k.fet.pc.toNat, 20, 12), ((s.doing c .exec).exeCode, 17, 3), ((s.doing c .fetch).fetCode, 14, 3), (g, 12, 2),
    ((k.arrayQ.filter (!·.started)).length, 9, 3)]

/-- The entries that a local queue holds: those before the first place still reserved (R140). -/
def LQueue.occupancy (q : LQueue) : Nat :=
  (q.slots.takeWhile (fun (x : QSlot) => match x with
    | .entry .. => true
    | .reserved _ => false)).length

/-- CORE_QCFG. -/
def LQueue.cfg (q : LQueue) : Word := fieldsOf [(b2n q.exeToFet, 15, 1), (q.limitM1.toNat, 8, 5), (q.depthM1.toNat, 0, 6)]

/-- CORE_WIN_STATE and CORE_WIN_COUNT: the core's own window, or the parked one while the core's is closed. -/
def State.winState (s : State) (c : Fin 16) : Word × Word :=
  let n := s.sel (blkCore c) 0x0A50
  let v := s.cores[c].win n
  match s.syn.parked.find? (fun (k : Parked) => k.core = c && decide (k.win.val = n)) with
  | some k =>
    if v.opened then (fieldsOf [(1, 44, 1), (1, 43, 1), (v.gen.toNat, 35, 8), (v.len.toNat, 14, 14), (v.base.toNat, 0, 14)], v.count.setWidth 64)
    else (fieldsOf [(1, 44, 1), (1, 43, 1), (k.gen.toNat, 35, 8), (k.len.toNat, 14, 14), (k.base.toNat, 0, 14)], k.count.setWidth 64)
  | none => (fieldsOf [(b2n v.opened, 43, 1), (v.gen.toNat, 35, 8), (v.len.toNat, 14, 14), (v.base.toNat, 0, 14)], v.count.setWidth 64)

/-- A register of a core. -/
def State.viewCore (s : State) (c : Fin 16) (off : Nat) : Word :=
  let b := blkCore c
  let k := s.cores[c]
  if 0x4000 ≤ off then
    if off < 0x8000 then BitVec.ofNat 64 (fld (mget (fun _ => 0) k.desc ((off - 0x4000) / 64)) (8 * (off % 64)) 64) else 0
  else if 0x0908 ≤ off && decide (off ≤ 0x0940) then k.queues[(Fin.ofNat 8 ((off - 0x0908) / 8) : Fin 8)].cfg
  else match off with
    | 0x0800 => k.banks[0].view
    | 0x0808 => k.banks[1].view
    | 0x0810 | 0x0818 | 0x0820 | 0x0828 | 0x0830 | 0x0838 => s.reg b off
    | 0x0900 => s.engineStatus c
    | 0x0948 => fieldsOf (k.queues.toList.zipIdx.map (fun (q : LQueue × Nat) => (q.1.occupancy, 7 * q.2, 7)))
    | 0x0950 | 0x0958 | 0x0960 | 0x0968 | 0x0970 | 0x0978 | 0x0980 | 0x0988 | 0x0990 | 0x0998 => s.reg b off
    | 0x0A00 | 0x0A08 | 0x0A10 | 0x0A18 | 0x0A20 | 0x0A28 | 0x0A30 | 0x0A38 | 0x0A40 | 0x0A48 | 0x0A50 | 0x0A70 => s.reg b off
    | 0x0A58 => (s.winState c).1
    | 0x0A60 => (s.winState c).2
    | 0x0A68 => BitVec.ofNat 64 k.streams.length
    | 0x0B00 | 0x0B08 | 0x0B10 | 0x0B20 | 0x0B28 => s.reg b off
    | 0x0B18 =>
      let v := s.sel b 0x0B10
      (if v / 16 = 0 then k.fet else k.exe).sregs[(Fin.ofNat 16 v : Fin 16)]
    | _ => 0

/-! A register -/

/-- Whether an offset is one of the error registers that every block holds (R380). -/
def isErrReg (off : Nat) : Bool := off = 0x0100 || off = 0x0108 || off = 0x0110 || off = 0x0118

/-- What a naturally aligned read of 8 B at an offset of a register block returns (R9, R451). -/
def State.view (s : State) (blk off : Nat) : Word :=
  if off % 8 ≠ 0 || 0x10000 ≤ off then 0
  else if isErrReg off && (blk < 13 || 16 ≤ blk && blk < 32) then s.reg blk off
  else if h : 16 ≤ blk ∧ blk < 32 then s.viewCore ⟨blk - 16, by omega⟩ off
  else match blk with
    | 0x00 => s.viewCtl off
    | 0x01 => if off < 0x2000 then s.viewSec off else 0
    | 0x02 => s.viewSyn off
    | 0x03 => s.viewFab off
    | 0x04 => s.viewRim off
    | 0x05 => s.viewWef off
    | 0x06 => s.viewEnc off
    | 0x07 => s.viewHbm off
    | 0x08 => s.viewVcl off
    | 0x09 => s.viewTwn off
    | 0x0A => s.viewHkp off
    | 0x0B => s.viewMgt off
    | 0x0C => s.viewPwr off
    | _ => 0

/-- What a naturally aligned read of 8 B of the control window returns: registers, sync objects, and zero elsewhere (R190, R286). -/
def State.controlRead (s : State) (offset : Nat) : Word :=
  if offset < 0x200000 then s.view (offset / 65536) (offset % 65536)
  else if offset < 0x220000 then s.obj ((offset - 0x200000) / 8)
  else 0

end Sys2Proof.Machine
end

