-- ==== Sys2Proof/Machine/Vcl.lean ====
section
/-! DEFINITION. The host link (10_host_link): its states (R281, R282), flits and replay (R279), the device's requests and their answers (R283, R291, R294), snoops (R285), the host's windows (R286 to R290), and the host's register writes by access type. -/

namespace Sys2Proof.Machine

/-! The device's requests (R291, R294) -/

/-- The outstanding request with a tag, and the rest. -/
def State.takeReq (s : State) (tag : BitVec 12) (write : Bool) : Option (VclReq × State) :=
  (pull (fun (q : VclReq) => q.tag = tag && q.write = write && q.sent) s.vcl.reqs).map (fun p => (p.1, { s with vcl := { s.vcl with reqs := p.2 } }))

/-- What Obinha does with a host line that it has read for ownership (R284): the count of snapshots is merged into the barometer ring's header
(R411), which is held until its write-back is visible. -/
def State.merged (s : State) (q : VclReq) : State :=
  match q.who, s.hkp.ring with
  | .snapHead, some r =>
    if r.base = q.dpa then
      let s := s.pokeN q.dpa (toLe 8 r.written)
      ({ s with vcl := { s.vcl with owned := s.vcl.owned ++ [(q.dpa, s.peekN q.dpa 64)] } } : State).obinhaReq .snapHead true false q.dpa 64
    else s
  | _, _ => s

/-- A write has become visible: what its agent does next (R291, R308, R313, R411). -/
def State.written (s : State) (q : VclReq) : State :=
  match q.who with
  | .cqEntry r => s.cqVisible r
  | .stream .. => s
  | .prefetch _ => s
  | .snapshot => s.baroWritten
  | .snapHead => ((s.dropOwned q.dpa).raiseVec 67).copyEnds
  | .cmd id =>
    if s.vcl.reqs.any (fun o => o.who = .cmd id) || s.vcl.obReqs.any (fun o => o.who = .cmd id) then s
    else match s.replies.find? (fun o => o.1 = id) with
      | some (_, r0, r1) =>
        let s : State := { s with replies := s.replies.filter (fun o => o.1 ≠ id) }
        (match s.hkp.newRing with
          | some (id', g) => if id' = id then s.setRing g id else s.complete id stOk r0 r1
          | none => s.complete id stOk r0 r1)
      | none => s
  | .fw => s
  | .bulk _ => s

/-- WR_DONE (R291, R294). -/
def execWrDone (tag : BitVec 12) (status : BitVec 8) (s : State) : Host.Outcome State Fault Refusal :=
  .next (
    if s.vcl.st ≠ .up then s
    else match s.takeReq tag true with
      | some (q, s) =>
        let s := s.vclHeard 1 1
        (if status = 0 then s.written q else s.reqFailed q 0x0803).vclPump.returnCredits
      | none => s)

/-- The lines of a DATA response taken into host memory as the device knows it. -/
def State.takeLines (s : State) (q : VclReq) (first : Nat) (lines : Bytes) : State :=
  (s.count blkVCL 0x0260 lines.length).pokeN (q.dpa + 64 * first) lines

/-- DATA (R283, R294): lines of an outstanding read. Data that fails parity is fetched once more; a second failure fails the request. -/
def execData (tag : BitVec 12) (status : BitVec 8) (first : Nat) (lines : Bytes) (parityBad : Bool) (s : State) : Host.Outcome State Fault Refusal :=
  .next (
    if s.vcl.st ≠ .up then s
    else match s.takeReq tag false with
      | none => s
      | some (q, t) =>
        let n := lines.length / 64
        let t := t.vclHeard 1 (1 + 4 * n)
        if status ≠ 0 then (t.reqFailed q 0x0803).fwRead.vclPump.returnCredits
        else if lines.length ≠ 64 * n || n = 0 || 16 < n || q.len < 64 * (first + n) then s
        else if parityBad then
          let t := (t.count blkVCL 0x0260 lines.length).stick blkVCL 0x0208 32
          if q.retried then (t.reqFailed q 0x0804).fwRead.vclPump.returnCredits
          else ({ t with vcl := { t.vcl with reqs := t.vcl.reqs ++ [{ q with retried := true, sent := false, got := [] }] } } : State).vclPump.returnCredits
        else
          let got := q.got ++ (List.range' first n).filter (fun i => !q.got.contains i)
          let t := t.takeLines q first lines
          if got.length = q.len / 64 then (t.merged q).fwRead.vclPump.returnCredits
          else ({ t with vcl := { t.vcl with reqs := t.vcl.reqs ++ [{ q with got := got }] } } : State).vclPump.returnCredits)

/-- VCL_REQ_TIMEOUT (R294). -/
def execVclReqTimeout (tag : BitVec 12) (s : State) : Host.Outcome State Fault Refusal :=
  .next (
    match pull (fun (q : VclReq) => q.tag = tag) s.vcl.reqs with
    | some (q, rest) => ((({ s with vcl := { s.vcl with reqs := rest } } : State).reqFailed q 0x0803).fwRead.vclPump)
    | none => s)

/-! Snoops (R285) -/

/-- A snoop of a line answered (R285): with the line if the device owns it, which it then gives up. -/
def State.snoop (s : State) (a : Nat) (tag : BitVec 12) : State :=
  let line := ((s.vcl.owned.find? (fun o => o.1 = a)).map (·.2)).getD []
  let s : State := { s with vcl := { s.vcl with owned := s.vcl.owned.filter (fun o => o.1 ≠ a) } }
  (((s.count blkVCL 0x0270).vclHeard 2 1).answer "SNP_ACK" [tag.toNat] line (vclHdr 0x32 0 tag.toNat 0 (a - hostBase))).returnCredits

/-- Copies of a host line that prefetches hold dropped (R144, R285): one whose read is still outstanding serves that read. -/
def State.dropLine (s : State) (a : Nat) : State :=
  forAll allCores (fun c s =>
    let hit := fun (f : Prefetch) => f.host && decide (f.dpa < a + 64) && decide (a < f.dpa + f.len)
      && !s.vcl.reqs.any (fun q => q.who = .prefetch c && q.dpa = f.dpa && q.len = f.len)
    let m := (s.cores[c].prefetch.filter hit).length
    if m = 0 then s
    else ((s.count (blkCore c) 0x0978 m).count (blkCore c) 0x0980 m).modCore c (fun k => { k with prefetch := k.prefetch.filter (fun f => !hit f) })) s

/-- SNP_INV (R144, R285). -/
def execSnpInv (addr : BitVec 64) (tag : BitVec 12) (s : State) : Host.Outcome State Fault Refusal :=
  .next (
    if s.vcl.st ≠ .up then s
    else
      let a := hostBase + addr.toNat / 64 * 64
      (s.dropLine a).snoop a tag)

/-- SNP_DATA (R285). -/
def execSnpData (addr : BitVec 64) (tag : BitVec 12) (s : State) : Host.Outcome State Fault Refusal :=
  .next (if s.vcl.st ≠ .up then s else s.snoop (hostBase + addr.toNat / 64 * 64) tag)

/-! Link states (R277, R281, R282, R295) -/

/-- VCL_LOSS_OF_SIGNAL (R281, R295). -/
def execVclLossOfSignal (s : State) : Host.Outcome State Fault Refusal :=
  .next (
    match s.vcl.st with
    | .down => s
    | .up => s.vclCounted.vclDown
    | .train => s.vclDown
    | .config => s.vclDown)

/-- VCL_RETRY_TIMER (R281): from the boot ROM's stage on, but not in recovery (R371). -/
def execVclRetryTimer (s : State) : Host.Outcome State Fault Refusal :=
  .next (if s.vcl.st = .down && decide (3 ≤ s.pwr.stage) && !s.sec.recovery then s.trainVcl s.vcl.boot else s)

/-- The CONFIG exchange as the device sends it (R4, Table 10.2): manufacturer, product and stepping, the mode, the width and its window sizes. -/
def State.configArgs (s : State) : List Nat :=
  [0x7A31, 0x9624, s.fuses.stepping.toNat, b2n (!s.vcl.boot), b2n s.vcl.x8, (Config.vclWindow 0).toNat, (Config.vclWindow 1).toNat, (Config.vclWindow 2).toNat]

/-- VCL_TRAIN_DONE (R277): the width is chosen and CONFIG begins. -/
def execVclTrainDone (x8 half : Bool) (s : State) : Host.Outcome State Fault Refusal :=
  .next (
    if s.vcl.st ≠ .train then s
    else
      let s : State := { s with vcl := { s.vcl with st := .config, x8 := x8, half := x8 && half } }
      (if x8 then s.stick blkVCL 0x0208 64 else s).vclControl "CONFIG" s.configArgs)

/-- VCL_CONFIG_DONE (R281, R282, R295) with the window sizes that the host named, in which the device's credits begin (R280), or in failure. -/
def execVclConfigDone (got : Option Windows) (s : State) : Host.Outcome State Fault Refusal :=
  .next (
    if s.vcl.st ≠ .config then s
    else match got with
      | some w => (({ s with vcl := { s.vcl with st := .up, credits := #v[w.req.toNat, w.rsp.toNat, w.snp.toNat] } } : State).vclReached).vclPump
      | none => s.vclCounted.vclDown)

/-- VCL_STATE_TIMEOUT (R281). -/
def execVclStateTimeout (s : State) : Host.Outcome State Fault Refusal :=
  .next (if s.vcl.st = .train || s.vcl.st = .config then s.vclDown else s)

/-! Flits (R278, R279) -/

/-- KIND and ACK of a VCL flit (Table 10.1). -/
def vclKind (f : VclFlit) : Nat := fld f.header 0 2
def vclAck (f : VclFlit) : BitVec 10 := BitVec.ofNat 10 (fld f.header 12 10)

/-- Whether a VCL flit's CRC holds. -/
def vclCrcOk (f : VclFlit) : Bool := vclCrc f == f.crc

/-- The flits of the replay buffer that an ACK does not cover. -/
def vclUnacked (ack : BitVec 10) (l : List VclFlit) : List VclFlit :=
  if l.any (fun f => vclSeq f = ack) then (l.dropWhile (fun f => vclSeq f ≠ ack)).drop 1 else l

/-- Credits that a flit returns, taken (R280, Table 10.1). -/
def State.takeCredits (s : State) (f : VclFlit) : State :=
  let held := s.vcl.credits
  { s with vcl := { s.vcl with credits := #v[held[0] + fld f.credits 0 16, held[1] + fld f.credits 16 16, held[2] + fld f.credits 32 16] } }

/-- A RETRY that the full replay buffer held back, sent once there is room (R279). -/
def State.sendRetry (s : State) : State :=
  if s.vcl.retryDue && decide (s.vcl.replay.length < 512) then
    ({ s with vcl := { s.vcl with retryDue := false } } : State).vclControl "RETRY" [s.vcl.rxSeq.toNat]
  else s

/-- VCL_FLIT_RX (R279, R280): a flit that fails CRC asks once for the expected SEQ; numbered flits count in order only; ACK and the credits of a
flit that is taken let what waits go out; of a flit of the reserved KIND 0b11 only the ACK counts (DESIGN CHOICE, log entry 112). The transactions in its
slots are commands of their own. -/
def execVclFlitRx (f : VclFlit) (s : State) : Host.Outcome State Fault Refusal :=
  .next (
    if s.vcl.st ≠ .up && s.vcl.st ≠ .config then s
    else if !vclCrcOk f then
      let s := (((s.count blkVCL 0x0258).stick blkVCL 0x0208 1).record blkVCL .c 0x0801).linkErr1
      if s.vcl.badRun then s
      else if s.vcl.replay.length < 512 then ({ s with vcl := { s.vcl with badRun := true } } : State).vclControl "RETRY" [s.vcl.rxSeq.toNat]
      else { s with vcl := { s.vcl with badRun := true, retryDue := true } }
    else
      let left := vclUnacked (vclAck f) s.vcl.replay
      let s : State := { s with vcl := { s.vcl with
        replay := left, resends := if left.length < s.vcl.replay.length then 0 else s.vcl.resends } }
      let s := s.sendRetry
      if vclKind f = 2 then (s.takeCredits f).vclPump
      else if 2 < vclKind f || vclSeq f ≠ s.vcl.rxSeq then s.vclPump
      else ((({ s with vcl := { s.vcl with rxSeq := s.vcl.rxSeq + 1, badRun := false, retryDue := false } } : State).count blkVCL 0x0248).takeCredits f).vclPump)

/-- VCL_RETRY (R279): resent from the named flit; 16 resends in a row of one flit return the link to DOWN. -/
def execVclRetry (seq : BitVec 10) (s : State) : Host.Outcome State Fault Refusal :=
  .next (
    if (s.vcl.st ≠ .up && s.vcl.st ≠ .config) || !s.vcl.replay.any (fun f => vclSeq f = seq) then s
    else
      let again := s.vcl.replay.dropWhile (fun f => vclSeq f ≠ seq)
      let n := again.length
      let s : State := { s with vcl := { s.vcl with replay := again, resends := if n < s.vcl.replay.length then 1 else s.vcl.resends + 1 } }
      let s := forAll again (fun f s => s.send (.vclFlit f)) (s.count blkVCL 0x0250 n)
      if 16 ≤ s.vcl.resends then s.vclCounted.vclDown else s)

/-! Register writes (Table 0.3) -/

/-- The fields of a register that software may clear by writing 1. -/
def w1cMask (blk off : Nat) : Word :=
  if off = 0x0100 then 0x1F
  else if off = 0x0108 then 0x8000000000000000
  else if 16 ≤ blk then
    match off with
    | 0x0810 => 0x3F
    | 0x0838 => 7
    | 0x0988 => 0x1F
    | 0x0A08 => 0xFF
    | 0x0B00 => 0xF
    | _ => 0
  else match blk, off with
    | 0x00, 0x0430 => 0xF
    | 0x00, 0x0520 => 0x3F
    | 0x01, 0x0230 => 0x7E
    | 0x02, 0x0200 => 0xF
    | 0x02, 0x0208 => 0xFF
    | 0x03, 0x0208 => 0x3FF
    | 0x04, 0x0240 => 0x7FFF
    | 0x05, 0x0200 => 0x1F
    | 0x06, 0x0208 => 0xF
    | 0x07, 0x0208 => 7
    | 0x08, 0x0208 => 0x7F
    | 0x09, 0x0210 => 0x7F
    | 0x0A, 0x0240 => 0xF
    | 0x0B, 0x0208 => 3
    | 0x0C, 0x0210 => 0xF
    | 0x0C, 0x0230 => 7
    | _, _ => 0

/-- The fields of a register that software may write, where no rule of the register's own says more. -/
def rwMask (blk off : Nat) : Word :=
  if 16 ≤ blk then
    match off with
    | 0x0A50 => 0xF
    | 0x0B10 => 0x1F
    | _ => 0
  else match blk, off with
    | 0x00, 0x0400 => 0x3F
    | 0x00, 0x0408 => 0xFFFFFFFFFFFFF000
    | 0x00, 0x0410 => 0xFFFFFFFFFFFFF000
    | 0x00, 0x0500 => 3
    | 0x00, 0x0510 => 0xFFFFF
    | 0x00, 0x0528 => 0x3FF
    | 0x00, 0x0548 => 0xFFF
    | 0x02, 0x0218 => 0x1F
    | 0x02, 0x0800 => 0x3F
    | 0x03, 0x0210 => 0x1F
    | 0x03, 0x0258 => 7
    | 0x04, 0x0200 => 3
    | 0x05, 0x0208 => 0x3FF
    | 0x07, 0x0200 => 7
    | 0x08, 0x0218 => 0x7F
    | 0x08, 0x0220 => 0xFFFFFFFFFFFFFFFC
    | 0x08, 0x0230 => 0xF
    | 0x09, 0x0218 => 0x3FF
    | 0x0A, 0x0230 => 0x1F
    | 0x0C, 0x0248 => 0xF
    | _, _ => 0

/-- The entry that a register of one block shows: its selector's value, 0 for a register without one. -/
def State.entryOf (s : State) (blk off : Nat) : Nat :=
  match blk, off with
  | 0x00, 0x0408 => s.sel blkCTL 0x0400
  | 0x00, 0x0410 => s.sel blkCTL 0x0400
  | 0x00, 0x0510 => s.sel blkCTL 0x0500
  | 0x00, 0x0520 => s.sel blkCTL 0x0500
  | 0x04, 0x0240 => s.sel blkRIM 0x0200
  | 0x08, 0x0220 => s.sel blkVCL 0x0218
  | _, _ => 0

/-- A value written to a register by its access types: RW fields take it, W1C bits are cleared by ones, nothing else changes. -/
def State.plainWrite (s : State) (blk off : Nat) (v : Word) : State :=
  let i := s.entryOf blk off
  let m := rwMask blk off
  let w := w1cMask blk off
  if m ||| w = 0 then s
  else
    let old := s.reg blk off i
    s.setReg blk off (((old &&& ~~~ m) ||| (v &&& m)) &&& ~~~ (v &&& w)) i

/-- A vector's MASK and DATA written (R292): clearing MASK while PENDING sends one MSG_INT and clears PENDING. -/
def State.writeMsi (s : State) (v : Nat) (ctl : Word) : State :=
  let old := s.reg blkVCL 0x0228 v
  let new := (ctl &&& 0x1FFFFFFFF) ||| (old &&& 0x200000000)
  if bit new 33 && !bit new 32 then (s.setReg blkVCL 0x0228 (new &&& 0x1FFFFFFFF) v).sendMsi v else s.setReg blkVCL 0x0228 new v

/-- MSI_UNMASK (R292). -/
def execMsiUnmask (v : Fin 128) (ctl : Word) (s : State) : Host.Outcome State Fault Refusal := .next (s.writeMsi v.val ctl)

/-- The state that an operation goes on to. -/
def State.after (s : State) (o : Host.Outcome State Fault Refusal) : State :=
  match o with
  | .next t => t
  | _ => s

/-- REQ_LEN and GO of SEC_SPDM_CTL written (R372). -/
def State.writeSpdm (s : State) (v : Word) : State :=
  let s := s.setReg blkSEC 0x0238 ((s.reg blkSEC 0x0238 &&& 0x1FFF0000) ||| (v &&& 0x1FFF))
  if bit v 63 then s.after (execSpdmGo (BitVec.ofNat 13 (fld v 0 13)) s) else s

/-- HKP_SCRUB_CFG: a PASS_S outside 16 to 86,400 changes nothing. -/
def State.writeScrub (s : State) (v : Word) : State :=
  let n := fld v 0 17
  if 16 ≤ n ∧ n ≤ 86400 then s.setReg blkHKP 0x0200 (BitVec.ofNat 64 n) else s

/-- A naturally aligned write of 8 B to an offset of a register block: the register's own rule, or its access types (R8 to R11). -/
def State.regWrite (s : State) (blk off : Nat) (v : Word) : State :=
  let ring : Fin 64 := Fin.ofNat 64 (s.sel blkCTL 0x0400)
  if off % 8 ≠ 0 || 0x10000 ≤ off || 32 ≤ blk || (13 ≤ blk && decide (blk < 16)) then s
  else if blk = blkSEC && 0x1000 ≤ off then
    if off < 0x2000 then { s with spdm := setBytes s.spdm (off - 0x1000) (toLe 8 v.toNat) } else s
  else match blk, off with
    | 0x00, 0x0408 => if s.rings[ring].st = .active then s else s.plainWrite blk off v
    | 0x00, 0x0410 => if s.rings[ring].st = .active then s else s.plainWrite blk off v
    | 0x00, 0x0418 => s.after (if bit v 63 then execRingEnable ring v s else execRingDrain ring v s)
    | 0x01, 0x0208 => s.setFwSrc v
    | 0x01, 0x0210 => s.setFwCtl v
    | 0x01, 0x0238 => s.writeSpdm v
    | 0x08, 0x0228 => s.writeMsi (s.sel blkVCL 0x0218) v
    | 0x0A, 0x0200 => s.writeScrub v
    | 0x0C, 0x0200 => s.after (execPwrCfgWrite v s)
    | 0x0C, 0x0228 => s.after (execPwrReset v s)
    | _, _ => s.plainWrite blk off v

/-- REGISTER_WRITE (R10, R11). -/
def execRegisterWrite (block : Fin 32) (offset : BitVec 16) (v : Word) (s : State) : Host.Outcome State Fault Refusal :=
  .next (s.regWrite block.val offset.toNat v)

/-! The host's windows (R286 to R290) -/

/-- Whether a register block answers: in boot mode only CTL, SEC and MGT do (R282). -/
def State.answers (s : State) (blk : Nat) : Bool := !s.vcl.boot || blk = blkCTL || blk = blkSEC || blk = blkMGT

/-- How an access is refused (R289): by its form or a closed window, or by the aperture filter. -/
inductive Denial where
  | form
  | filter
deriving DecidableEq, Repr

/-- The access of the aperture range that holds a range of bytes whole: 0 for none, 1 read, 2 read-write (R288). -/
def State.aperture (s : State) (a n : Nat) : Nat :=
  ((s.vcl.apt.toList.find? (fun w =>
    fld w 62 2 ≠ 0 && decide (2 ^ 20 * fld w 0 18 ≤ a) && decide (a + n ≤ 2 ^ 20 * (fld w 0 18 + fld w 32 18)))).map (fun w => fld w 62 2)).getD 0

/-- Why an access of 2^`log2` bytes is refused, if it is (R287, R289). -/
def State.denied (s : State) (win : Fin 3) (offset log2 : Nat) (write : Bool) : Option Denial :=
  let n := 2 ^ log2
  if offset % n ≠ 0 || (win ≠ 2 && log2 ≠ 3) then some .form
  else if s.vcl.boot && win ≠ 0 then some .form
  else if win = 2 && (s.aperture offset n = 0 || (write && s.aperture offset n ≠ 2)) then some .filter
  else none

/-- A refused access recorded (R289, Table 10.9). -/
def State.deny (s : State) (d : Denial) (win : Fin 3) (write : Bool) (offset log2 : Nat) : State :=
  let f := decide (d = .filter)
  let v := put win.val 62 2 + put (b2n write) 61 1 + put (b2n f) 60 1 + put log2 53 3 + put offset 0 38
  (((s.stick blkVCL 0x0208 (if f then 16 else 8)).count blkVCL 0x0278).setReg blkVCL 0x0210 (BitVec.ofNat 64 v)).record blkVCL .none 0x0805

/-- The contexts in whose regions an unreadable line of the host-use area lies fault (Table 14.2). -/
def State.lineFaults (s : State) (a n : Nat) : State :=
  forAll ((s.ctxs.filter (fun (x : Nat × Ctx) => x.2.st ≠ .faulted && x.2.regions.any (fun r => overlaps (a, n) r))).map (·.1))
    (fun x s => s.faultCtx x blkVCL 0x1013) s

/-- Bytes of HBM read through the aperture. A line that cannot be read is not passed on: its bytes are free (R376, log entry 3). -/
def State.apertureRead (s : State) (a n : Nat) : Bytes × State :=
  let (ok, t) := s.readHbm [] a n
  if ok then (s.peekN a n, t)
  else
    let k := t.freeN
    let t : State := { t with freeN := k + n }
    ((List.range n).map (fun i => (Config.freeValue (k + i)).setWidth 8), t.lineFaults a n)

/-- MMIO_DATA (Tables 10.3 and 10.4), its read's buffer free again. -/
def State.mmioData (s : State) (tag : BitVec 12) (bs : Bytes) : State :=
  ((s.vclHeard 2 1).answer "MMIO_DATA" [tag.toNat, 0] bs (vclHdr 0x33 0 tag.toNat (put (Nat.log2 bs.length) 2 3) 0)).returnCredits

/-- What a read of the control window returns: zero from a block that does not answer. -/
def State.hostRead (s : State) (offset : Nat) : Word :=
  if offset < 0x200000 && s.answers (offset / 65536) then s.controlRead offset else if s.vcl.boot then 0 else s.controlRead offset

/-- The host's MMIO reads whose answers have not left: at most 256 are accepted (R287). -/
def State.readsOut (s : State) : Nat := (s.vcl.rspQ.filter (fun m => m.name = "MMIO_DATA")).length

/-- MMIO_RD (R286 to R290): one above the 256 that may be outstanding is not accepted (R287; log entry 114). -/
def execMmioRd (win : Fin 3) (offset : BitVec 38) (log2 : Fin 7) (tag : BitVec 12) (s : State) : Host.Outcome State Fault Refusal :=
  .next (
    let o := offset.toNat
    let n := 2 ^ log2.val
    if s.vcl.st ≠ .up || decide (256 ≤ s.readsOut) then s
    else match s.denied win o log2.val false with
      | some d => (s.deny d win false o log2.val).mmioData tag (List.replicate n 0)
      | none =>
        if win = 0 then s.mmioData tag (toLe 8 (s.hostRead o).toNat)
        else if win = 1 then s.mmioData tag (List.replicate n 0)
        else
          let (bs, s) := s.apertureRead o n
          s.mmioData tag bs)

/-- A write of the doorbell page (Table 10.5). -/
def State.doorbell (s : State) (o : Nat) (v : Word) : State :=
  let r : Fin 64 := Fin.ofNat 64 (o / 8)
  if o < 0x200 then s.after (execSqDoorbell r v s) else if o < 0x400 then s.after (execCqDoorbell r v s) else s

/-- Bytes of HBM written through the aperture. -/
def State.apertureWrite (s : State) (a : Nat) (bs : Bytes) : State :=
  let (ok, t) := s.writeHbm a bs
  if ok then t else t.lineFaults a bs.length

/-- MMIO_WR (R286 to R290). -/
def execMmioWr (win : Fin 3) (offset : BitVec 38) (log2 : Fin 7) (data : Bytes) (s : State) : Host.Outcome State Fault Refusal :=
  .next (
    let o := offset.toNat
    if s.vcl.st ≠ .up || data.length ≠ 2 ^ log2.val then s
    else
      let s := s.vclHeard 2 (1 + (data.length + 15) / 16)
      (match s.denied win o log2.val true with
      | some d => s.deny d win true o log2.val
      | none =>
        let v : Word := BitVec.ofNat 64 (leNat data)
        if win = 0 then
          if o < 0x200000 && s.answers (o / 65536) then s.regWrite (o / 65536) (o % 65536) v else s
        else if win = 1 then s.doorbell o v
        else s.apertureWrite o data).returnCredits)

end Sys2Proof.Machine
end

