-- ==== Sys2Proof/Machine/Mgmt.lean ====
section
/-! DEFINITION. The management port (R419 to R422): its addressing, the MCTP message types it answers, and the vendor messages of Table 15.7 with the states in which they work. -/

namespace Sys2Proof.Machine

/-! Addressing (R419) -/

/-- The provisioned ID (R419): the vendor code and the low 16 bits of the serial. -/
def State.provisionedId (s : State) : Bytes := toLe 2 0x7A31 ++ toLe 2 (s.fuses.serial.toNat % 65536)

/-- ENTDAA: a dynamic address under I3C, for the provisioned ID. -/
def execEntdaa (addr : BitVec 7) (s : State) : Host.Outcome State Fault Refusal :=
  .next (if !s.stbyOn || s.mgt.smbus then s else { s.send (.identity false s.provisionedId) with mgt := { s.mgt with addressed := true, addr := addr } })

/-- SMBUS_FALLBACK_TIMER: 100 ms of standby power without an I3C address. -/
def execSmbusFallbackTimer (s : State) : Host.Outcome State Fault Refusal :=
  .next (if !s.stbyOn || s.mgt.addressed then s else { s with mgt := { s.mgt with smbus := true } })

/-- SMBUS_ARP: an SMBus transaction, the first of all or under SMBus; the port's mode changes only at a new standby power-on. -/
def execSmbusArp (addr : BitVec 7) (s : State) : Host.Outcome State Fault Refusal :=
  .next (if !s.stbyOn || (s.mgt.addressed && !s.mgt.smbus) then s
    else { s.send (.identity true (Config.smbusUdid s.fuses.serial)) with mgt := { s.mgt with smbus := true, addressed := true, addr := addr } })

/-! Messages (R420) -/

/-- A message that is malformed or of an unknown type: counted and discarded (R420, R424). -/
def State.mgtBad (s : State) : State := ((s.count blkMGT 0x0218).stick blkMGT 0x0208 2).record blkMGT .none 0x0B01

/-- A message received by an addressed port, of at most 1,088 B, is carried out; a longer one is discarded. The signal of a pending event ends with it
(DESIGN CHOICE, log entry 111). -/
def State.mgtMsg (s : State) (len : Nat) (body : State → State) : Host.Outcome State Fault Refusal :=
  .next (
    if !s.stbyOn || !s.mgt.addressed then s
    else
      let s := ({ s with mgt := { s.mgt with alert := false } } : State).count blkMGT 0x0210
      if 1088 < len then s.mgtBad else body s)

/-- An answer whose layout a published standard gives, from what the spec says it states (log entry 10). -/
def State.answerStd (s : State) (req : Bytes) (facts : List Bytes := []) : State :=
  let n := s.freeN
  ({ s with freeN := n + 1 } : State).send (.mgt 0 (Config.standardAnswer [req] facts n))

/-- MCTP_CONTROL: answered; Set Endpoint ID names the port's endpoint id. -/
def execMctpControl (req : Bytes) (eid : Option (BitVec 8)) (s : State) : Host.Outcome State Fault Refusal :=
  s.mgtMsg req.length (fun s =>
    let s : State := match eid with
      | some e => { s with mgt := { s.mgt with eid := e } }
      | none => s
    s.answerStd req)

/-- A row of Table 15.6: sensor id, reading, and the thresholds it has. -/
def sensorRow (id : Nat) (reading : Int) (limits : List Nat) : Bytes := toLe 2 id ++ toLe 4 (BitVec.ofInt 32 reading).toNat ++ limits.flatMap (toLe 4)

/-- The PLDM sensors (Table 15.6): temperatures in tenths of a degree, power, throttle level, array clock, and the state sensor. -/
def State.sensors (s : State) : List Bytes :=
  (List.range 34).map (fun i => sensorRow (i + 1) (s.hkp.temps.getD i 0) [920, 950, 1050])
    ++ [sensorRow 35 s.hkp.powerW [s.cap], sensorRow 36 s.hkp.level [1], sensorRow 37 s.arrayMHz [], sensorRow 40 s.stateSensor []]

/-- SetEventReceiver names the endpoint that events go to, or none (PRESUMED: command 0x04 of DSP0248 and the layout of its request). -/
def State.setReceiver (s : State) (req : Bytes) : State :=
  if req[2]? = some 4 then { s with mgt := { s.mgt with receiver := if req.getD 3 0 = 0 then none else some (req.getD 5 0) } } else s

/-- PLDM_REQUEST: types 0 and 2 are answered, and another type with an error, as DSP0240 lays down; answers of type 2 state what the sensors show. -/
def execPldmRequest (typ : BitVec 8) (req : Bytes) (s : State) : Host.Outcome State Fault Refusal :=
  s.mgtMsg req.length (fun s => if typ = 2 then (s.setReceiver req).answerStd (typ :: req) s.sensors else s.answerStd (typ :: req))

/-- SPDM_MESSAGE (R366): answered by the security unit, once the boot ROM runs, after a class D fault too (R379). -/
def execSpdmMessage (req : Bytes) (s : State) : Host.Outcome State Fault Refusal :=
  s.mgtMsg req.length (fun s =>
    if s.pwr.stage < 2 then s
    else
      let (ans, s) := s.spdmAnswer false req
      s.send (.mgt 0 ans))

/-- MCTP_UNKNOWN_TYPE. -/
def execMctpUnknownType (typ : BitVec 8) (s : State) : Host.Outcome State Fault Refusal :=
  s.mgtMsg 0 (fun s => if [0x00, 0x01, 0x05, 0x7E].contains typ.toNat then s else s.mgtBad)

/-! Vendor messages (R421) -/

/-- The columns of Table 15.7. -/
inductive MgtPhase where
  | standby
  | waiting
  | running
deriving DecidableEq, Repr

/-- The column that the device is in: a load or verification under way counts with the wait for an image. -/
def State.mgtPhase (s : State) : MgtPhase := if s.pwr.held then .standby else if s.sec.boot = 4 then .running else .waiting

/-- A vendor response: status and payload (R421). -/
def State.vendor (s : State) (code status : Nat) (payload : Bytes := []) : State :=
  s.send (.mgt status ([0x7E, 0x7A, 0x31, BitVec.ofNat 8 code, 0, BitVec.ofNat 8 status, 0, 0] ++ payload))

/-- A vendor message: carried out in the columns that Table 15.7 marks, status 3 in the others. -/
def State.vendorMsg (s : State) (code : Nat) (standby waiting running : Bool) (body : State → State) : Host.Outcome State Fault Refusal :=
  s.mgtMsg 0 (fun s =>
    let ok := match s.mgtPhase with
      | .standby => standby
      | .waiting => waiting
      | .running => running
    if ok then body s else s.vendor code 3)

/-- GET_STATUS. -/
def execGetStatus (s : State) : Host.Outcome State Fault Refusal :=
  s.vendorMsg 0x01 true true true (fun s =>
    s.vendor 0x01 0 ([BitVec.ofNat 8 s.sec.boot, s.sec.result, BitVec.ofNat 8 s.vcl.st.code, BitVec.ofNat 8 s.hkp.level]
      ++ toLe 8 (s.reg blkCTL 0x0108).toNat))

/-- FW_BEGIN (R369, R371): begins a load in "awaiting image" or recovery; busy while a load runs. -/
def execFwBegin (len : BitVec 32) (s : State) : Host.Outcome State Fault Refusal :=
  s.vendorMsg 0x02 false true false (fun s =>
    if s.fwLoad.isSome then s.vendor 0x02 1
    else if s.stopped || !(s.sec.boot = 5 || (s.sec.boot = 0 && decide (3 ≤ s.pwr.stage))) then s.vendor 0x02 3
    else (s.beginFw true len.toNat).vendor 0x02 0)

/-- FW_DATA (R369): the next bytes in order. -/
def execFwData (offset : BitVec 32) (bytes : Bytes) (s : State) : Host.Outcome State Fault Refusal :=
  s.vendorMsg 0x03 false true false (fun s =>
    if 1024 < bytes.length then s.mgtBad
    else match s.fwLoad with
      | none => s.vendor 0x03 2
      | some l =>
        if !l.mgt || l.ended then s.vendor 0x03 1
        else if offset.toNat ≠ l.bytes.length || l.len < l.bytes.length + bytes.length then s.vendor 0x03 2
        else ({ s with fwLoad := some { l with bytes := l.bytes ++ bytes } } : State).vendor 0x03 0)

/-- FW_END (R370): with every byte in place, verification begins. -/
def execFwEnd (s : State) : Host.Outcome State Fault Refusal :=
  s.vendorMsg 0x04 false true false (fun s =>
    match s.fwLoad with
    | none => s.vendor 0x04 2
    | some l =>
      if !l.mgt || l.ended then s.vendor 0x04 1
      else if l.bytes.length ≠ l.len then s.vendor 0x04 2
      else (({ s with fwLoad := some { l with ended := true }, sec := { s.sec with boot := 3 } } : State).stateEvent).vendor 0x04 0)

/-- Whether a firmware key that is not revoked has signed a message (R421). -/
def State.firmwareSigned (s : State) (msg sig : Bytes) : Bool :=
  (List.range 4).any (fun i => !bit s.fuses.revoked i && ecdsaOk (firmwareKey i) msg sig)

/-- SVN_RAISE (R371, R421): the fused minimum SVN, only upward. -/
def execSvnRaise (svn : BitVec 32) (serial : BitVec 64) (sig : Bytes) (s : State) : Host.Outcome State Fault Refusal :=
  s.vendorMsg 0x05 false true true (fun s =>
    if serial ≠ s.fuses.serial || decide (svn.toNat ≤ s.fuses.minSvn.toNat) || decide (255 < svn.toNat) then s.vendor 0x05 2
    else if !s.firmwareSigned (toLe 4 svn.toNat ++ toLe 8 serial.toNat) sig then s.vendor 0x05 4
    else ((({ s with fuses := { s.fuses with minSvn := svn.setWidth 8 } } : State).stick blkMGT 0x0208 1).vendor 0x05 0))

/-- SYNC_FORCE (R211). -/
def execSyncForce (a : ForceArgs) (s : State) : Host.Outcome State Fault Refusal :=
  s.vendorMsg 0x06 false false true (fun s =>
    let (ok, s) := (s.objFails a.fail).force a true
    s.vendor 0x06 (if ok then 0 else 2))

/-- ALMANAC_GET (R417). -/
def execAlmanacGet (idx : BitVec 8) (s : State) : Host.Outcome State Fault Refusal :=
  s.vendorMsg 0x07 true true true (fun s =>
    match s.almLatest[idx.toNat]? with
    | some r => s.vendor 0x07 0 r
    | none => s.vendor 0x07 2)

/-- TIME_SET_M (R418): UTC at the message's arrival. -/
def execTimeSetM (utc : BitVec 64) (s : State) : Host.Outcome State Fault Refusal :=
  s.vendorMsg 0x08 false true true (fun s => (s.setCal utc s.podTime).vendor 0x08 0)

/-- POWER_SET (R408). -/
def execPowerSet (capW mhz : BitVec 16) (s : State) : Host.Outcome State Fault Refusal :=
  s.vendorMsg 0x09 false true true (fun s =>
    let (ok, s) := s.setPwrCfg capW.toNat mhz.toNat true
    s.vendor 0x09 (if ok then 0 else 2))

/-- BARO_GET: the newest snapshot is 0. -/
def execBaroGet (idx : BitVec 8) (s : State) : Host.Outcome State Fault Refusal :=
  s.vendorMsg 0x0A false false true (fun s =>
    match s.hkp.snaps[idx.toNat]? with
    | some b => s.vendor 0x0A 0 b
    | none => s.vendor 0x0A 2)

/-- REG_READ (R9, R421, R454): before firmware runs, only CTL, SEC and MGT. -/
def execRegRead (block : BitVec 8) (offset : BitVec 16) (s : State) : Host.Outcome State Fault Refusal :=
  s.vendorMsg 0x0B false true true (fun s =>
    if s.mgtPhase = .waiting && !([blkCTL, blkSEC, blkMGT].contains block.toNat) then s.vendor 0x0B 3
    else s.vendor 0x0B 0 (toLe 8 (s.view block.toNat offset.toNat).toNat))

end Sys2Proof.Machine
end

