-- ==== Sys2Proof/Machine/Dispatch.lean ====
section
/-! DEFINITION. The dispatch of every command to its meaning: one arm per row of the table. -/

namespace Sys2Proof.Machine

def exec (i : Instr) (s : State) : Host.Outcome State Fault Refusal :=
  match i with
  | .nop c e w chk => Sys2Proof.Machine.execNop c e w chk s
  | .halt c e w chk => Sys2Proof.Machine.execHalt c e w chk s
  | .loop c e w chk => Sys2Proof.Machine.execLoop c e w chk s
  | .branch c e w chk => Sys2Proof.Machine.execBranch c e w chk s
  | .set c e w chk => Sys2Proof.Machine.execSet c e w chk s
  | .sadd c e w chk => Sys2Proof.Machine.execSadd c e w chk s
  | .sload c e w chk => Sys2Proof.Machine.execSload c e w chk s
  | .stream c w chk => Sys2Proof.Machine.execStream c w chk s
  | .gather c w chk => Sys2Proof.Machine.execGather c w chk s
  | .put c w chk => Sys2Proof.Machine.execPut c w chk s
  | .winOpen c w chk => Sys2Proof.Machine.execWinOpen c w chk s
  | .winClose c w chk => Sys2Proof.Machine.execWinClose c w chk s
  | .weftBind c w chk => Sys2Proof.Machine.execWeftBind c w chk s
  | .hpush c w chk => Sys2Proof.Machine.execHpush c w chk s
  | .hpop c w chk => Sys2Proof.Machine.execHpop c w chk s
  | .fset c e w chk => Sys2Proof.Machine.execFset c e w chk s
  | .fclr c e w chk => Sys2Proof.Machine.execFclr c e w chk s
  | .fwait c e w chk => Sys2Proof.Machine.execFwait c e w chk s
  | .cwait c w chk => Sys2Proof.Machine.execCwait c w chk s
  | .consume c w chk => Sys2Proof.Machine.execConsume c w chk s
  | .rsignal c w chk => Sys2Proof.Machine.execRsignal c w chk s
  | .barrier c w chk => Sys2Proof.Machine.execBarrier c w chk s
  | .mma c w chk => Sys2Proof.Machine.execMma c w chk s
  | .mmaDiag c w chk => Sys2Proof.Machine.execMmaDiag c w chk s
  | .accRead c w chk => Sys2Proof.Machine.execAccRead c w chk s
  | .tload c w chk => Sys2Proof.Machine.execTload c w chk s
  | .vop c w chk => Sys2Proof.Machine.execVop c w chk s
  | .vred c w chk => Sys2Proof.Machine.execVred c w chk s
  | .vfun c w chk => Sys2Proof.Machine.execVfun c w chk s
  | .vectorDone c r => Sys2Proof.Machine.execVectorDone c r s
  | .lullEntry c e => Sys2Proof.Machine.execLullEntry c e s
  | .runaheadPrefetch c => Sys2Proof.Machine.execRunaheadPrefetch c s
  | .mmaStart c bankWait chk => Sys2Proof.Machine.execMmaStart c bankWait chk s
  | .arrayRampStep c => Sys2Proof.Machine.execArrayRampStep c s
  | .arrayHoldExpiry c => Sys2Proof.Machine.execArrayHoldExpiry c s
  | .blockContribution c bank block pass chk => Sys2Proof.Machine.execBlockContribution c bank block pass chk s
  | .mmaBankComplete c bank weftStall actStall r => Sys2Proof.Machine.execMmaBankComplete c bank weftStall actStall r s
  | .readoutStart c bank => Sys2Proof.Machine.execReadoutStart c bank s
  | .readoutEnd c bank r => Sys2Proof.Machine.execReadoutEnd c bank r s
  | .plaitInExpander c plait r => Sys2Proof.Machine.execPlaitInExpander c plait r s
  | .plaitDecodeDone c chk => Sys2Proof.Machine.execPlaitDecodeDone c chk s
  | .streamComplete c id errs r => Sys2Proof.Machine.execStreamComplete c id errs r s
  | .putPacketRx p => Sys2Proof.Machine.execPutPacketRx p s
  | .putRetryTimer dst pseq => Sys2Proof.Machine.execPutRetryTimer dst pseq s
  | .rsignalRx p => Sys2Proof.Machine.execRsignalRx p s
  | .rsigDoneRx p => Sys2Proof.Machine.execRsigDoneRx p s
  | .barArriveRx p => Sys2Proof.Machine.execBarArriveRx p s
  | .barReleaseRx p => Sys2Proof.Machine.execBarReleaseRx p s
  | .barBreakRx p => Sys2Proof.Machine.execBarBreakRx p s
  | .debugSyncForce h a => Sys2Proof.Machine.execDebugSyncForce h a s
  | .syncForce a => Sys2Proof.Machine.execSyncForce a s
  | .linkLossOfSignal l => Sys2Proof.Machine.execLinkLossOfSignal l s
  | .linkRetryTimer l => Sys2Proof.Machine.execLinkRetryTimer l s
  | .linkTrainDone l => Sys2Proof.Machine.execLinkTrainDone l s
  | .linkStateTimeout l => Sys2Proof.Machine.execLinkStateTimeout l s
  | .hello l m => Sys2Proof.Machine.execHello l m s
  | .helloSendTimer l => Sys2Proof.Machine.execHelloSendTimer l s
  | .offer l m => Sys2Proof.Machine.execOffer l m s
  | .proof l m => Sys2Proof.Machine.execProof l m s
  | .flitRx l f => Sys2Proof.Machine.execFlitRx l f s
  | .retry l seq => Sys2Proof.Machine.execRetry l seq s
  | .rekeyStart l => Sys2Proof.Machine.execRekeyStart l s
  | .rekey l switchCount => Sys2Proof.Machine.execRekey l switchCount s
  | .timeReq l t1 t2 t3 adv => Sys2Proof.Machine.execTimeReq l t1 t2 t3 adv s
  | .timeReqTimer => Sys2Proof.Machine.execTimeReqTimer s
  | .timeResp l t1 t2 t3 t4 => Sys2Proof.Machine.execTimeResp l t1 t2 t3 t4 s
  | .linkAdaptTick l => Sys2Proof.Machine.execLinkAdaptTick l s
  | .adapt l up => Sys2Proof.Machine.execAdapt l up s
  | .adaptEvaluate l before after => Sys2Proof.Machine.execAdaptEvaluate l before after s
  | .packetAtRouter p input => Sys2Proof.Machine.execPacketAtRouter p input s
  | .packetOutputGrant idx l stall chk => Sys2Proof.Machine.execPacketOutputGrant idx l stall chk s
  | .escapeTimeout idx => Sys2Proof.Machine.execEscapeTimeout idx s
  | .e2eRetransmitTimer dst pseq => Sys2Proof.Machine.execE2eRetransmitTimer dst pseq s
  | .reasmEntryRelease src => Sys2Proof.Machine.execReasmEntryRelease src s
  | .gustTick port offNs samples => Sys2Proof.Machine.execGustTick port offNs samples s
  | .ack p => Sys2Proof.Machine.execAck p s
  | .rimRereq p => Sys2Proof.Machine.execRimRereq p s
  | .rimAbort p => Sys2Proof.Machine.execRimAbort p s
  | .rimCtrl part m => Sys2Proof.Machine.execRimCtrl part m s
  | .hbmWrite p => Sys2Proof.Machine.execHbmWrite p s
  | .fabEpochFlipAtT => Sys2Proof.Machine.execFabEpochFlipAtT s
  | .bankRetire b => Sys2Proof.Machine.execBankRetire b s
  | .fabRouteLoad h buf => Sys2Proof.Machine.execFabRouteLoad h buf s
  | .fabEpochFlip h bank t => Sys2Proof.Machine.execFabEpochFlip h bank t s
  | .discover h => Sys2Proof.Machine.execDiscover h s
  | .rimForm h buf => Sys2Proof.Machine.execRimForm h buf s
  | .rimHelloTimer p => Sys2Proof.Machine.execRimHelloTimer p s
  | .rimHelloFrame l frame => Sys2Proof.Machine.execRimHelloFrame l frame s
  | .rimFormTimeout p => Sys2Proof.Machine.execRimFormTimeout p s
  | .rimGoodbyeFrame l frame => Sys2Proof.Machine.execRimGoodbyeFrame l frame s
  | .rimDissolve h part => Sys2Proof.Machine.execRimDissolve h part s
  | .plaitFrame l frame busy chk => Sys2Proof.Machine.execPlaitFrame l frame busy chk s
  | .forwardResume p idx l off r => Sys2Proof.Machine.execForwardResume p idx l off r s
  | .plaitInject p errs chk => Sys2Proof.Machine.execPlaitInject p errs chk s
  | .repairIngestDone p pkg => Sys2Proof.Machine.execRepairIngestDone p pkg s
  | .gapTimerExpiry p owner layer => Sys2Proof.Machine.execGapTimerExpiry p owner layer s
  | .shardDeadlineExpiry p owner layer => Sys2Proof.Machine.execShardDeadlineExpiry p owner layer s
  | .combinedTableTimeout h => Sys2Proof.Machine.execCombinedTableTimeout h s
  | .shardIngest h a => Sys2Proof.Machine.execShardIngest h a s
  | .ingestPass1End ct readOk chk => Sys2Proof.Machine.execIngestPass1End ct readOk chk s
  | .ingestPass2End errs => Sys2Proof.Machine.execIngestPass2End errs s
  | .epochStage h a => Sys2Proof.Machine.execEpochStage h a s
  | .epochFlip h a => Sys2Proof.Machine.execEpochFlip h a s
  | .shardEvict h model epoch mode => Sys2Proof.Machine.execShardEvict h model epoch mode s
  | .tierMoveDone ok => Sys2Proof.Machine.execTierMoveDone ok s
  | .slowerTierReadDone p ok chk => Sys2Proof.Machine.execSlowerTierReadDone p ok chk s
  | .sqDoorbell r v => Sys2Proof.Machine.execSqDoorbell r v s
  | .cqDoorbell r v => Sys2Proof.Machine.execCqDoorbell r v s
  | .ringEnable r cfg => Sys2Proof.Machine.execRingEnable r cfg s
  | .ringDrain r cfg => Sys2Proof.Machine.execRingDrain r cfg s
  | .entryTake r readOk entry buf => Sys2Proof.Machine.execEntryTake r readOk entry buf s
  | .coalesceTimer r => Sys2Proof.Machine.execCoalesceTimer r s
  | .cmdNop h => Sys2Proof.Machine.execCmdNop h s
  | .query h => Sys2Proof.Machine.execQuery h s
  | .regionSet h buf => Sys2Proof.Machine.execRegionSet h buf s
  | .partConfig h a => Sys2Proof.Machine.execPartConfig h a s
  | .keyEnroll h a => Sys2Proof.Machine.execKeyEnroll h a s
  | .modelEnroll h a => Sys2Proof.Machine.execModelEnroll h a s
  | .ctxCreate h a => Sys2Proof.Machine.execCtxCreate h a s
  | .ctxDestroy h ctx => Sys2Proof.Machine.execCtxDestroy h ctx s
  | .ctxDestroyResume ctx => Sys2Proof.Machine.execCtxDestroyResume ctx s
  | .ctxReside h ctx imgOk => Sys2Proof.Machine.execCtxReside h ctx imgOk s
  | .ctxEvict h ctx dest => Sys2Proof.Machine.execCtxEvict h ctx dest s
  | .ctxEvictResume ctx writeOk => Sys2Proof.Machine.execCtxEvictResume ctx writeOk s
  | .programLoad h ctx image => Sys2Proof.Machine.execProgramLoad h ctx image s
  | .stepSubmit h a => Sys2Proof.Machine.execStepSubmit h a s
  | .taskSubmit h a => Sys2Proof.Machine.execTaskSubmit h a s
  | .schedTableLoad h part buf => Sys2Proof.Machine.execSchedTableLoad h part buf s
  | .schedMode h part mode start => Sys2Proof.Machine.execSchedMode h part mode start s
  | .schedModeEffect p => Sys2Proof.Machine.execSchedModeEffect p s
  | .stepArm p => Sys2Proof.Machine.execStepArm p s
  | .stepComplete p => Sys2Proof.Machine.execStepComplete p s
  | .switchTimeReached p => Sys2Proof.Machine.execSwitchTimeReached p s
  | .enginesStart p => Sys2Proof.Machine.execEnginesStart p s
  | .schedSlotStart p => Sys2Proof.Machine.execSchedSlotStart p s
  | .cyclicEngineStart p => Sys2Proof.Machine.execCyclicEngineStart p s
  | .blockedGraceExpiry p => Sys2Proof.Machine.execBlockedGraceExpiry p s
  | .autoSwapInstant p imgOk => Sys2Proof.Machine.execAutoSwapInstant p imgOk s
  | .taskStart p => Sys2Proof.Machine.execTaskStart p s
  | .twinPair h serial => Sys2Proof.Machine.execTwinPair h serial s
  | .pairingRequestRx r => Sys2Proof.Machine.execPairingRequestRx r s
  | .twinPairTimeout => Sys2Proof.Machine.execTwinPairTimeout s
  | .twinDetach h mode => Sys2Proof.Machine.execTwinDetach h mode s
  | .checkpointCfg h ctx interval => Sys2Proof.Machine.execCheckpointCfg h ctx interval s
  | .pairRecordRx r => Sys2Proof.Machine.execPairRecordRx r s
  | .shadowRx key stored => Sys2Proof.Machine.execShadowRx key stored s
  | .ckptCommit ctx step bad sync queues pages => Sys2Proof.Machine.execCkptCommit ctx step bad sync queues pages s
  | .heartbeatTimer => Sys2Proof.Machine.execHeartbeatTimer s
  | .heartbeatRx l => Sys2Proof.Machine.execHeartbeatRx l s
  | .heartbeatTimeout => Sys2Proof.Machine.execHeartbeatTimeout s
  | .departureRx => Sys2Proof.Machine.execDepartureRx s
  | .seatHoldNoticeRx p m => Sys2Proof.Machine.execSeatHoldNoticeRx p m s
  | .seatHoldExpiry p => Sys2Proof.Machine.execSeatHoldExpiry p s
  | .fwLoadHost src len => Sys2Proof.Machine.execFwLoadHost src len s
  | .fwVerifyDone u => Sys2Proof.Machine.execFwVerifyDone u s
  | .spdmGo reqLen => Sys2Proof.Machine.execSpdmGo reqLen s
  | .spdmMessage req => Sys2Proof.Machine.execSpdmMessage req s
  | .entropyHealthFail => Sys2Proof.Machine.execEntropyHealthFail s
  | .vclLossOfSignal => Sys2Proof.Machine.execVclLossOfSignal s
  | .vclRetryTimer => Sys2Proof.Machine.execVclRetryTimer s
  | .vclTrainDone x8 half => Sys2Proof.Machine.execVclTrainDone x8 half s
  | .vclConfigDone got => Sys2Proof.Machine.execVclConfigDone got s
  | .vclStateTimeout => Sys2Proof.Machine.execVclStateTimeout s
  | .vclFlitRx f => Sys2Proof.Machine.execVclFlitRx f s
  | .vclRetry seq => Sys2Proof.Machine.execVclRetry seq s
  | .mmioRd win offset log2 tag => Sys2Proof.Machine.execMmioRd win offset log2 tag s
  | .mmioWr win offset log2 data => Sys2Proof.Machine.execMmioWr win offset log2 data s
  | .snpInv addr tag => Sys2Proof.Machine.execSnpInv addr tag s
  | .snpData addr tag => Sys2Proof.Machine.execSnpData addr tag s
  | .data tag status first lines parityBad => Sys2Proof.Machine.execData tag status first lines parityBad s
  | .wrDone tag status => Sys2Proof.Machine.execWrDone tag status s
  | .vclReqTimeout tag => Sys2Proof.Machine.execVclReqTimeout tag s
  | .msiUnmask v ctl => Sys2Proof.Machine.execMsiUnmask v ctl s
  | .pwrCfgWrite v => Sys2Proof.Machine.execPwrCfgWrite v s
  | .powerSet capW mhz => Sys2Proof.Machine.execPowerSet capW mhz s
  | .registerWrite block offset v => Sys2Proof.Machine.execRegisterWrite block offset v s
  | .sensorSample x => Sys2Proof.Machine.execSensorSample x s
  | .throttleFall => Sys2Proof.Machine.execThrottleFall s
  | .barometerLatch powerMw temps => Sys2Proof.Machine.execBarometerLatch powerMw temps s
  | .telemetryCfg h period => Sys2Proof.Machine.execTelemetryCfg h period s
  | .ageingTick temps volts => Sys2Proof.Machine.execAgeingTick temps volts s
  | .almanacHourly => Sys2Proof.Machine.execAlmanacHourly s
  | .almanacHoldExpiry => Sys2Proof.Machine.execAlmanacHoldExpiry s
  | .almanacWriteDone ok => Sys2Proof.Machine.execAlmanacWriteDone ok s
  | .almanacRead h => Sys2Proof.Machine.execAlmanacRead h s
  | .scrubBlock errs => Sys2Proof.Machine.execScrubBlock errs s
  | .timeSet h utc at_ => Sys2Proof.Machine.execTimeSet h utc at_ s
  | .timeSetM utc => Sys2Proof.Machine.execTimeSetM utc s
  | .getStatus => Sys2Proof.Machine.execGetStatus s
  | .fwBegin len => Sys2Proof.Machine.execFwBegin len s
  | .fwData offset bytes => Sys2Proof.Machine.execFwData offset bytes s
  | .fwEnd => Sys2Proof.Machine.execFwEnd s
  | .svnRaise svn serial sig => Sys2Proof.Machine.execSvnRaise svn serial sig s
  | .almanacGet idx => Sys2Proof.Machine.execAlmanacGet idx s
  | .baroGet idx => Sys2Proof.Machine.execBaroGet idx s
  | .regRead block offset => Sys2Proof.Machine.execRegRead block offset s
  | .pldmRequest typ req => Sys2Proof.Machine.execPldmRequest typ req s
  | .mctpControl req eid => Sys2Proof.Machine.execMctpControl req eid s
  | .entdaa addr => Sys2Proof.Machine.execEntdaa addr s
  | .smbusFallbackTimer => Sys2Proof.Machine.execSmbusFallbackTimer s
  | .smbusArp addr => Sys2Proof.Machine.execSmbusArp addr s
  | .standbyPowerOn => Sys2Proof.Machine.execStandbyPowerOn s
  | .pwrOkRise => Sys2Proof.Machine.execPwrOkRise s
  | .pwrOkFall => Sys2Proof.Machine.execPwrOkFall s
  | .rstNFall => Sys2Proof.Machine.execRstNFall s
  | .rstNRise twinPresentN => Sys2Proof.Machine.execRstNRise twinPresentN s
  | .trstN => Sys2Proof.Machine.execTrstN s
  | .refclkLoss => Sys2Proof.Machine.execRefclkLoss s
  | .pwrReset v => Sys2Proof.Machine.execPwrReset v s
  | .mainResetEffect => Sys2Proof.Machine.execMainResetEffect s
  | .bringupStageEnd r => Sys2Proof.Machine.execBringupStageEnd r s
  | .timeSyncTimeout => Sys2Proof.Machine.execTimeSyncTimeout s
  | .standbyResetRelease => Sys2Proof.Machine.execStandbyResetRelease s
  | .refclkPresent => Sys2Proof.Machine.execRefclkPresent s
  | .mctpUnknownType typ => Sys2Proof.Machine.execMctpUnknownType typ s
  | .standbyPowerOff => Sys2Proof.Machine.execStandbyPowerOff s

end Sys2Proof.Machine
end

