-- ==== Sys2Proof/Safety.lean ====
section
/-! DEFINITION. The terms in which the statements speak: a safe run, the state in which an instruction of an engine acts, and the row of an instruction word. -/

namespace Sys2Proof

/-- A step from a state answers a next state: the block neither faults nor refuses. -/
def Safe (s : Machine.State) : Prop := ∃ t, Machine.step s = .next t

namespace Machine

/-- The state in which a legal instruction word with opcode `op` acts, met by its engine free to issue it, once its
checks have passed: the state itself, or for an
execute instruction that pops a queue the state after the pop (R218, R220). `none` while it waits, or where it faults instead. -/
def State.actsAt (s : State) (c : Fin 16) (e : Eng) (w : Insn) (op : Nat) (chk : Check) : Option State :=
  if s.ready c e w && decide (opcodeOf w = op) && legalInsn e w then
    (s.passes c chk).bind (fun s => match e with
    | .fetch => some s
    | .exec =>
      let k := s.cores[c]
      if (bit w 11 && (k.q (fld w 8 3)).exeToFet) || (bit w 15 && !(k.q (fld w 12 3)).exeToFet) then none
      else if bit w 11 && k.exe.popped.isNone then
        match (k.q (fld w 8 3)).slots with
        | .entry h f _ :: r =>
          if f ≠ 0 then none
          else some ((s.modCore c (fun k => k.setQ (fld w 8 3) { k.q (fld w 8 3) with slots := r })).modCore c
            (fun k => { k with exe := { (k.exe.wr 14 h).wr 15 (BitVec.ofNat 64 (fld h 0 14)) with popped := some h, st := .running } }))
        | _ => none
      else some s)
  else none

/-- The taken entry and the state in which a command of the command interface acts (R308, R310): Obinha takes commands, the entry of that
ring, CMD_ID, opcode and arguments has been taken and may start. `none` where there is no such entry, or it must still wait. -/
def State.started (s : State) (h : CmdHdr) (op : Nat) (args : List (Nat × Nat)) : Option (Taken × State) :=
  match s.taken.find? (fun t => t.ring = h.ring && t.cmdId = h.cmdId && t.opcode.toNat = op && !t.begun && t.args = packArgs args) with
  | some t => if s.obinhaOn && s.mayStart t && h.chk = .ok then some (t, { s with taken := startFirst t s.taken }) else none
  | none => none

/-- Whether VCL is up with nothing of the device's waiting to be sent, and with a tag, credits and replay room for one more message of
at most 8 slots (R279, R280, R283). -/
def State.linkIdle (s : State) : Bool :=
  s.vcl.st = .up && s.heldOut.isEmpty && s.vcl.outQ.isEmpty && s.vcl.rspQ.isEmpty && s.vcl.obReqs.isEmpty && s.vcl.reqs.all (·.sent)
    && decide (s.vcl.reqs.length < 4096) && decide (2 ≤ s.vcl.credits[0]) && decide (s.vcl.replay.length < 512)

/-- The state in which a PUT is in progress, its source read as far as core `k` tells: its job, with the fault it has found, and the place it reserved in
the queue it is bound to (R174). -/
def State.putBegun (s : State) (c : Fin 16) (w : Insn) (slot : Nat) (k : Core) (fault : Nat) : State :=
  let job : PutJob := ⟨s.cores[c].nextId, (endpointOf s.cores[c].fet w 16 40 92).1, fld w 36 4, if bit w 111 then some (Fin.ofNat 8 (fld w 112 3)) else none,
    if bit w 110 then some (fld w 96 14) else none, slot, fld w 78 6 + 1, 0, s.cores[c].fet.pc, fault⟩
  let s' := s.modCore c (fun _ => { k with nextId := s.cores[c].nextId + 1, puts := s.cores[c].puts ++ [job] })
  if bit w 111 then s'.modCore c (fun k => k.setQ (fld w 112 3) { k.q (fld w 112 3) with slots := (k.q (fld w 112 3)).slots ++ [.reserved s.cores[c].nextId] })
  else s'

/-- Memory reads the same outside the retransmit region, in which the packets that the device sends are kept (R264). -/
def State.sameMemory (s t : State) : Prop := ∀ a : Nat, (a < retxBase ∨ retxBase + 2 ^ 24 ≤ a) → t.peek a = s.peek a

end Machine

/-- The command that an engine's instruction word is, by the opcode (Table 8.2): `none` for an opcode outside the engine's column. -/
def rowOf (c : Fin 16) (e : Eng) (w : Insn) (chk : Check) : Option Instr :=
  match e, Machine.opcodeOf w with
  | e, 0x01 => some (.nop c e w chk)
  | e, 0x02 => some (.halt c e w chk)
  | e, 0x03 => some (.loop c e w chk)
  | e, 0x04 => some (.branch c e w chk)
  | e, 0x05 => some (.set c e w chk)
  | e, 0x06 => some (.sadd c e w chk)
  | e, 0x07 => some (.sload c e w chk)
  | .fetch, 0x10 => some (.stream c w chk)
  | .fetch, 0x11 => some (.gather c w chk)
  | .fetch, 0x12 => some (.put c w chk)
  | .fetch, 0x13 => some (.winOpen c w chk)
  | .fetch, 0x14 => some (.winClose c w chk)
  | .fetch, 0x15 => some (.weftBind c w chk)
  | .fetch, 0x18 => some (.hpush c w chk)
  | .fetch, 0x19 => some (.hpop c w chk)
  | e, 0x20 => some (.fset c e w chk)
  | e, 0x21 => some (.fclr c e w chk)
  | e, 0x22 => some (.fwait c e w chk)
  | .fetch, 0x23 => some (.cwait c w chk)
  | .fetch, 0x24 => some (.consume c w chk)
  | .fetch, 0x25 => some (.rsignal c w chk)
  | .fetch, 0x26 => some (.barrier c w chk)
  | .exec, 0x30 => some (.mma c w chk)
  | .exec, 0x31 => some (.mmaDiag c w chk)
  | .exec, 0x32 => some (.accRead c w chk)
  | .exec, 0x33 => some (.tload c w chk)
  | .exec, 0x40 => some (.vop c w chk)
  | .exec, 0x41 => some (.vred c w chk)
  | .exec, 0x42 => some (.vfun c w chk)
  | _, _ => none

end Sys2Proof
end

