-- ==== Sys2Proof/Certificates/Slice0/Obligations.lean ====
section
/-! DEFINITION. The statements for the provers: what a step is, the completion and result of every command, frames, and invariants of every step. -/

open Sys2Proof Sys2Proof.Machine

/-! # The step -/

/-- A step with a command in front carries that command out on the state with the queue's rest. -/
def Obligations.StepRunsTheFrontCommand : Prop :=
  ∀ (i : Instr) (rest : List Instr) (s : State),
    step { s with pending := i :: rest } = exec i { s with pending := rest }

/-- No command faults or refuses, in whatever state it comes, and every step answers a next state. On an empty queue a nanosecond of pod time
passes, made longer or shorter by what the time tree's rate has gathered; where no packet waits in the router and no link is in UP, nothing else
changes: the model's choice, log entry 1. -/
def Obligations.NoCommandStops : Prop :=
  (∀ (i : Instr) (s : State), ∃ t, exec i s = .next t) ∧ (∀ s : State, ∃ t, step s = .next t) ∧
  (∀ s : State, s.pending = [] → ∃ t, step s = .next t ∧
    (-1000000000 < s.time.frac + s.time.rate → s.time.frac + s.time.rate < 1000000000 →
      t.podTime = s.podTime + 1 ∧ t.time.frac = s.time.frac + s.time.rate) ∧
    (1000000000 ≤ s.time.frac + s.time.rate → t.podTime = s.podTime + 2) ∧ (s.time.frac + s.time.rate ≤ -1000000000 → t.podTime = s.podTime) ∧
    (s.fab.queue = [] → (∀ l : Fin 20, s.links[l].st ≠ .up) → { t with podTime := s.podTime, time := s.time } = s))

/-! # Instructions of the engines (08_instruction_set) -/

/-- NOP, SET, SADD and SLOAD of either engine: the destination register gets its value and the instruction is done; a TEST or TAKE SLOAD of a
slot that is not full keeps its place and enters lull (R225). -/
def Obligations.ScalarInstructionsComplete : Prop :=
  ∀ (c : Fin 16) (e : Eng) (w : Insn) (chk : Check) (s u : State),
    (s.actsAt c e w 0x01 chk = some u → exec (.nop c e w chk) s = .next (u.doneNow c e w)) ∧
    (s.actsAt c e w 0x05 chk = some u →
      exec (.set c e w chk) s = .next ((u.modEng c e (fun g => g.wr (fld w 16 4) (BitVec.ofNat 64 (fld w 64 64)))).doneNow c e w)) ∧
    (s.actsAt c e w 0x06 chk = some u →
      exec (.sadd c e w chk) s = .next ((u.modEng c e (fun g => g.wr (fld w 16 4)
        (g.rd (fld w 20 4) + BitVec.ofNat 64 (saddPart (fld w 28 2) (g.rd (fld w 24 4)) <<< fld w 30 6)
          + BitVec.ofInt 64 (signed (fld w 64 32) 32)))).doneNow c e w)) ∧
    (∀ (n : Nat) (k : Core) (bs : Bytes), s.actsAt c e w 0x07 chk = some u → (u.eng c e).sum w 20 14 34 = (n : Int) → n < 12288 →
      u.cores[c].tagged (fld w 41 2) (64 * n + 8 * fld w 38 3) 8 = some (k, bs) →
      exec (.sload c e w chk) s =
        .next (((u.modCore c (fun _ => k)).modEng c e (fun g => g.wr (fld w 16 4) (BitVec.ofNat 64 (leNat bs)))).doneNow c e w)) ∧
    (∀ n : Nat, s.actsAt c e w 0x07 chk = some u → (u.eng c e).sum w 20 14 34 = (n : Int) → n < 12288 → fld w 41 2 ≠ 0 → u.cores[c].isFull n = false →
      exec (.sload c e w chk) s = .next u ∧ ∀ r : CoreRun, u.cores[c].run = some r → (u.eng c e).st ≠ .lull →
        exec (.lullEntry c e) u = .next ((u.modEng c e (fun g => { g with st := .lull })).modCtx r.ctx (fun x => { x with since := u.podTime })))

/-- What NOP, SET, SADD and SLOAD leave unchanged: memory, the sync objects, contexts, rims, every other core, the scratchpad, accumulators and
windows of their own core, every register but the count of issued instructions, and, at an instruction that pops no queue and ends no loop,
every scalar register but the destination (R215, R216, R225). -/
def Obligations.ScalarInstructionsFrame : Prop :=
  ∀ (c : Fin 16) (e : Eng) (w : Insn) (s u t : State) (i : Instr) (op : Nat),
    ((i, op) = (.nop c e w .ok, 0x01) ∨ (i, op) = (.set c e w .ok, 0x05) ∨ (i, op) = (.sadd c e w .ok, 0x06) ∨ (i, op) = (.sload c e w .ok, 0x07)) →
    s.actsAt c e w op .ok = some u → (op = 0x07 → ∃ n : Nat, (u.eng c e).sum w 20 14 34 = (n : Int) ∧ n < 12288) → exec i s = .next t →
    t.mem = s.mem ∧ t.syn = s.syn ∧ t.ctxs = s.ctxs ∧ t.rims = s.rims ∧ t.fab = s.fab ∧ t.out = s.out ∧ (∀ c', c' ≠ c → t.cores[c'] = s.cores[c']) ∧
    t.cores[c].spad = s.cores[c].spad ∧ t.cores[c].banks = s.cores[c].banks ∧ t.cores[c].wins = s.cores[c].wins ∧
    t.cores[c].streams = s.cores[c].streams ∧ (op ≠ 0x07 → t.cores[c].full = s.cores[c].full) ∧
    (∀ k, k ≠ rkey (blkCore c) (match e with
      | .fetch => 0x0B20
      | .exec => 0x0B28) 0 → mget regReset t.regs k = mget regReset s.regs k) ∧
    (∀ r, r < 16 → bit w 11 = false → (s.eng c e).loops = [] → (op = 0x01 ∨ r ≠ fld w 16 4) → (t.eng c e).rd r = (s.eng c e).rd r)

/-- No instruction of an engine writes a byte of memory outside the retransmit region, where the packets it sends are kept (R264), and the
places of the contexts' images (of 16 cores at most), where a step or side task that ends may save them (R333), whether it acts, waits or faults, while no command is taken, no packet
is held back, no checkpoint is being sent (whose marked pages a write would first copy, R387) and none of the device's messages waits for the link: other memory is written by streams' moves and by what arrives (R157, R215). -/
def Obligations.EngineInstructionsLeaveMemory : Prop :=
  ∀ (c : Fin 16) (e : Eng) (w : Insn) (chk : Check) (s t : State) (i : Instr), s.taken = [] → s.heldOut = [] → s.fab.waiting = [] → s.twin.outgoing = [] →
    i ∈ [.nop c e w chk, .halt c e w chk, .loop c e w chk, .branch c e w chk, .set c e w chk, .sadd c e w chk, .sload c e w chk, .stream c w chk, .gather c w chk, .put c w chk, .winOpen c w chk,
      .winClose c w chk, .weftBind c w chk, .hpush c w chk, .hpop c w chk, .fset c e w chk, .fclr c e w chk, .fwait c e w chk, .cwait c w chk, .consume c w chk, .rsignal c w chk, .barrier c w chk,
      .mma c w chk, .mmaDiag c w chk, .accRead c w chk, .tload c w chk, .vop c w chk, .vred c w chk, .vfun c w chk] →
    exec i s = .next t → ∀ a : Nat, (a < retxBase ∨ retxBase + 2 ^ 24 ≤ a) →
      (∀ x ∈ s.ctxs, a < x.2.imgBase ∨ x.2.imgBase + imageSize 16 ≤ a) → t.peek a = s.peek a

/-- LOOP with a count, LOOP with none, BRANCH taken and not taken, and HALT with no work outstanding (R222, R223, R224). -/
def Obligations.FlowInstructionsComplete : Prop :=
  ∀ (c : Fin 16) (e : Eng) (w : Insn) (chk : Check) (s u : State),
    (∀ n : Nat, s.actsAt c e w 0x03 chk = some u → (u.eng c e).loops.length < 4 → (u.eng c e).sum w 36 32 32 = (n : Int) → n < 2 ^ 32 →
      (u.eng c e).pc.toNat < fld w 16 12 → (∀ l ∈ (u.eng c e).loops, fld w 16 12 ≤ l.last) →
      exec (.loop c e w chk) s = .next (
        if n = 0 then (if e = .fetch then u.cancelAhead c else u).advanceFrom c e (fld w 16 12)
        else (u.modEng c e (fun g => { g.wr (fld w 28 4) 0 with
          loops := ⟨g.pc.toNat + 1, fld w 16 12, n, 0, fld w 28 4⟩ :: g.loops })).advance c e)) ∧
    (s.actsAt c e w 0x04 chk = some u → e = .exec → branchTaken (fld w 32 3) ((u.eng c e).rd (fld w 28 4)) = true →
      exec (.branch c e w chk) s = .next ((u.count (blkCore c) 0x0B28).modEng c e (fun g => g.jump (fld w 16 12)))) ∧
    (s.actsAt c e w 0x04 chk = some u → e = .exec → branchTaken (fld w 32 3) ((u.eng c e).rd (fld w 28 4)) = false →
      exec (.branch c e w chk) s = .next (u.advance c e)) ∧
    (s.actsAt c e w 0x04 chk = some u → e = .fetch → branchTaken (fld w 32 3) ((u.eng c e).rd (fld w 28 4)) = true →
      exec (.branch c e w chk) s = .next (((if fld w 16 12 ≤ (u.eng c e).pc.toNat then u else u.cancelAhead c).count (blkCore c) 0x0B20).modEng c e
        (fun g => g.jump (fld w 16 12)))) ∧
    (s.actsAt c e w 0x04 chk = some u → e = .fetch → branchTaken (fld w 32 3) ((u.eng c e).rd (fld w 28 4)) = false →
      exec (.branch c e w chk) s = .next ((if fld w 16 12 ≤ (u.eng c e).pc.toNat then u.cancelAhead c else u).advance c e)) ∧
    (s.actsAt c e w 0x02 chk = some u →
      (match e with
        | .fetch => u.cores[c].streams = [] ∧ u.cores[c].puts = []
        | .exec => u.cores[c].arrayQ = [] ∧ u.cores[c].readouts = [] ∧ u.cores[c].vecQ = [] ∧
            u.cores[c].queues.toList.all (fun q => q.pushes.isEmpty) = true) →
      exec (.halt c e w chk) s = .next ((((u.doneNow c e w).modEng c e
        (fun g => { g with st := .halted, pc := (u.eng c e).pc, loops := [] })).endTask c).settleRim (u.partOf c)))

/-- Register S0 reads 0 whatever is written to it; a write to another register is read back and leaves the rest (R216).
An engine past an instruction at which no loop ends stands at the next one with its loops unchanged and its counter of issued
instructions one higher; at the last instruction of a loop's body with iterations left it stands at the body's first, the index register
counting on (R223). -/
def Obligations.RegistersAndLoops : Prop :=
  (∀ (g : Engine) (r q : Nat) (v : Word), r < 16 → q < 16 →
    (g.wr 0 v = g) ∧ g.rd 0 = 0 ∧ (r ≠ 0 → (g.wr r v).rd r = v) ∧ (q ≠ r → (g.wr r v).rd q = g.rd q) ∧ (g.wr r v).pc = g.pc) ∧
  (∀ (c : Fin 16) (e : Eng) (s : State) (r : CoreRun), s.cores[c].run = some r → (s.eng c e).pc.toNat < 4095 →
    ((∀ l ∈ (s.eng c e).loops.head?, l.last ≠ (s.eng c e).pc.toNat) →
      ((s.advance c e).eng c e).pc = (s.eng c e).pc + 1 ∧ ((s.advance c e).eng c e).loops = (s.eng c e).loops ∧
      ((s.advance c e).eng c e).sregs = (s.eng c e).sregs) ∧
    (∀ (l : Loop) (rest : List Loop), (s.eng c e).loops = l :: rest → l.last = (s.eng c e).pc.toNat → l.iter + 1 < l.count →
      ((s.advance c e).eng c e).pc = BitVec.ofNat 12 l.start ∧
      ((s.advance c e).eng c e).loops = { l with iter := l.iter + 1 } :: rest ∧
      ((s.advance c e).eng c e).sregs = ((s.eng c e).wr l.idxReg (BitVec.ofNat 64 (l.iter + 1))).sregs) ∧
    (s.advance c e).reg (blkCore c) (match e with
      | .fetch => 0x0B20
      | .exec => 0x0B28) = satAdd (s.reg (blkCore c) (match e with
      | .fetch => 0x0B20
      | .exec => 0x0B28)) 1)

/-- A word that is no legal instruction of its engine raises ILLEGAL_OP, whatever its row; a word outside the engine's column is met by
the row NOP (R218, R242). An entry of instruction memory that fails parity and is reloaded leaves a record of class C and is met like any other; an entry
that is lost, a slot that SLOAD reads, or a sync object's word that fails its check ends the instruction as Table 14.1 says: the
context faults, or for the object's ALLOC, PART or CSLOT field the device stops (R375, R376). A slot that PUT reads and that fails its check is code
3 of the transfer: one bound to a queue sends the lines it could read, and its fault waits in the queue for the pop; the other faults at once (R145, R165). A command during which
control SRAM fails its check stops the device. -/
def Obligations.IllegalWordsAndFailedChecks : Prop :=
  (∀ (c : Fin 16) (e : Eng) (w : Insn) (chk : Check) (s u : State), s.ready c e w = true → s.passes c chk = some u → legalInsn e w = false →
    exec ((rowOf c e w chk).getD (.nop c e w chk)) s = .next (u.illegalOp c e w)) ∧
  (∀ (c : Fin 16) (e : Eng) (w : Insn) (s : State) (id : Nat), s.ready c e w = true → s.ctxOn c = some id →
    s.passes c .reloaded = some (s.record (blkCore c) .c 0x1010 (s.errCtx (some id))) ∧
    exec ((rowOf c e w .imageLost).getD (.nop c e w .imageLost)) s = .next (s.faultCtx id (blkCore c) 0x1010) ∧
    (opcodeOf w = 0x07 → exec (.sload c e w .spad) s = .next (s.faultCtx id (blkCore c) 0x100E)) ∧
    (∀ slot off : Nat, e = .fetch → s.actsAt c .fetch w 0x12 .ok = some s → (bit w 111 && bit w 110) = false → s.cores[c].fet.sum w 64 14 88 = (slot : Int) →
      s.cores[c].fet.sum w 48 14 84 = (off : Int) → slot + (fld w 78 6 + 1) ≤ 12288 → off < 12288 →
      ∀ (next : Nat) (k k' : Core) (bs : Bytes), next = slot + s.cores[c].fet.got.length / 64 → s.cores[c].slotRead (fld w 62 2) next = some k →
      k.readOn (fld w 62 2) (64 * slot) (64 * (fld w 78 6 + 1)) (s.cores[c].fet.got ++ k.spadRd (64 * next) 64) = (k', bs) →
      (bit w 111 = false → exec (.put c w .spad) s = .next (s.xferFault c s.cores[c].fet.pc 0x12 3)) ∧
      (bit w 111 = true → (s.cores[c].q (fld w 112 3)).exeToFet = false → (s.cores[c].q (fld w 112 3)).owed < (s.cores[c].q (fld w 112 3)).limit →
        (s.cores[c].q (fld w 112 3)).slots.length < (s.cores[c].q (fld w 112 3)).depth → 64 * (fld w 78 6 + 1) ≤ bs.length →
        exec (.put c w .spad) s = .next (((s.putBegun c w slot k' 3).sendGood c s.cores[c].nextId (endpointOf s.cores[c].fet w 16 40 92).1 (fld w 32 4)
          (fld w 36 4) (endpointOf s.cores[c].fet w 16 40 92).2 off bs (s.cores[c].fet.lost ++ [s.cores[c].fet.got.length / 64])).advance c .fetch))) ∧
    (∀ (v : State) (j : PutJob) (rest : List PutJob) (q : Fin 8), pull (fun (g : PutJob) => g.id = j.id) v.cores[c].puts = some (j, rest) → j.queue = some q →
      v.fab.outst.any (fun o => decide (o.agent = .put c j.id)) = false → v.fab.waiting.any (fun p => decide (p.2.1 = .put c j.id)) = false →
      (v.endPut c j.id).cores[c].q q = (v.cores[c].q q).fill j.id (mkHandle j.slot j.lines (if j.fault = 0 then j.code else j.fault) c.val) j.fault j.pc) ∧
    (opcodeOf w = 0x20 → exec (.fset c e w .object) s = .next (s.faultCtx id blkSYN 0x0207) ∧ exec (.fset c e w .owner) s = .next (s.stopDevice blkSYN 0x0207)) ∧
    (opcodeOf w = 0x22 → exec (.fwait c e w .object) s = .next (s.faultCtx id blkSYN 0x0207) ∧ exec (.fwait c e w .owner) s = .next (s.stopDevice blkSYN 0x0207))) ∧
  (∀ (h : CmdHdr) (s u : State) (t : Taken), s.started h 0x01 [] = some (t, u) →
    exec (.cmdNop { h with chk := .control }) s = .next (s.stopDevice blkCTL 0x000A))

/-- An instruction fault of a core that runs a context leaves the context Faulted with the fault's cause, its sticky bit set and the
engine, the instruction's index and its opcode in CORE_INSN_FAULT (R242, R243, R350). -/
def Obligations.InstructionFaultTearsTheContextDown : Prop :=
  ∀ (c : Fin 16) (e : Eng) (w : Insn) (s : State) (off b cause id : Nat) (x : Ctx),
    s.ctxOn c = some id → s.ctx? id = some x → x.st ≠ .faulted →
    ∃ y, (s.insnFault c e w off b cause).ctx? id = some y ∧ y.st = .faulted ∧ y.cause = cause ∧ y.queue = [] ∧ y.img = none

/-- STREAM and GATHER with a well-formed descriptor and room enter the stream in flight (R157, R164, R226). -/
def Obligations.StreamInstructionsComplete : Prop :=
  ∀ (c : Fin 16) (w : Insn) (chk : Check) (s u : State) (r : Replaced) (d : Desc), u.cores[c].streams.length < 64 →
    r = replacedBy u.cores[c].fet w (u.cores[c].descAt (fld w 16 8)) →
    d = { parseDesc (u.cores[c].descAt (fld w 16 8)) with src := r.src.toNat, dst := r.dst.toNat, len := r.len.toNat } →
    descOk (u.cores[c].descAt (fld w 16 8)) r (u.cores[c].q d.queue).exeToFet = true →
    (d.qen = true → (u.cores[c].q d.queue).owed < (u.cores[c].q d.queue).limit ∧ (u.cores[c].q d.queue).slots.length < (u.cores[c].q d.queue).depth) →
    (s.actsAt c .fetch w 0x10 (if chk.isObj then .ok else chk) = some u → d.idxEn = false →
      exec (.stream c w chk) s = .next (u.issueStream c (fld w 16 8) d none chk)) ∧
    (∀ isrc : Int, s.actsAt c .fetch w 0x11 (if chk.isObj then .ok else chk) = some u → d.idxEn = true →
      isrc = (if bit w 39 then (u.cores[c].fet.rd (fld w 40 4)).toInt else (fld (u.cores[c].descAt d.idx) 0 64 : Int)) →
      idxDescOk (u.cores[c].descAt d.idx) isrc = true →
      exec (.gather c w chk) s = .next (u.issueStream c (fld w 16 8) d (some { parseDesc (u.cores[c].descAt d.idx) with src := isrc.toNat }) chk))

/-- A stream issued takes the next number, reserves its place in the queue it names, and the engine goes on; one that moves a byte is in
flight (R140, R157).
A stream that names a queue, all of whose runs are moved and whose writes are answered, leaves the streams in flight and fills its
reserved place; memory stays, unless a completion entry that waited for the link leaves now (R140, R158). -/
def Obligations.StreamsComeAndGo : Prop :=
  (∀ (c : Fin 16) (num : Nat) (s : State) (d : Desc) (idx : Option Desc) (r : CoreRun) (chk : Check), s.cores[c].run = some r →
    s.cores[c].streams.length < 64 → d.runs ≠ 0 →
    (d.qen = true → (s.cores[c].q d.queue).owed < (s.cores[c].q d.queue).limit ∧ (s.cores[c].q d.queue).slots.length < (s.cores[c].q d.queue).depth) →
    (∃ t ∈ (s.issueStream c num d idx chk).cores[c].streams, t.id = s.cores[c].nextId ∧ t.d = d ∧ t.idx = idx ∧ t.moved = 0 ∧ t.due = s.deadlineAt d.deadline) ∧
    (s.issueStream c num d idx chk).cores[c].nextId = s.cores[c].nextId + 1 ∧
    (s.issueStream c num d idx chk).cores[c].fet = (s.advance c .fetch).cores[c].fet ∧
    (d.qen = true → ((s.issueStream c num d idx chk).cores[c].q d.queue).slots = (s.cores[c].q d.queue).slots ++ [.reserved s.cores[c].nextId]) ∧
    (s.issueStream c num d idx chk).cores[c].spad = s.cores[c].spad) ∧
  (∀ (c : Fin 16) (s : State) (t : Stream) (errs : List LineErr), (∀ x, t.idx = some x → t.d.idxRuns x ≤ t.irun) →
    s.cores[c].streams.find? (fun u => decide (u.id = t.id)) = some t → t.d.runs ≤ t.moved → t.todo = [] →
    s.vcl.reqs.any (fun q => decide (q.who = .stream c t.id)) = false → (∀ c' : Fin 16, ∀ u ∈ s.cores[c'].streams, u.todo = []) →
    t.d.qen = true → s.heldOut = [] → ∃ h,
      (s.runStream c t errs).cores[c].streams = s.cores[c].streams.filter (fun u => u.id ≠ t.id) ∧
      (s.runStream c t errs).cores[c].q t.d.queue = (s.cores[c].q t.d.queue).fill t.id h t.code t.pc ∧
      (s.runStream c t errs).mem = s.mem)

/-- PUT, WIN_OPEN, WIN_CLOSE and WEFT_BIND on operands in range (R172, R173, R174, R227, R229). -/
def Obligations.WindowInstructionsComplete : Prop :=
  ∀ (c : Fin 16) (w : Insn) (chk : Check) (s u : State),
    (∀ (slot off : Nat) (k : Core) (bs : Bytes), s.actsAt c .fetch w 0x12 chk = some u → chk ≠ .spad → (bit w 111 && bit w 110) = false →
      u.cores[c].fet.sum w 64 14 88 = (slot : Int) → u.cores[c].fet.sum w 48 14 84 = (off : Int) → slot + (fld w 78 6 + 1) ≤ 12288 → off < 12288 →
      (bit w 111 = true → (u.cores[c].q (fld w 112 3)).exeToFet = false ∧
        (u.cores[c].q (fld w 112 3)).owed < (u.cores[c].q (fld w 112 3)).limit ∧
        (u.cores[c].q (fld w 112 3)).slots.length < (u.cores[c].q (fld w 112 3)).depth) →
      u.cores[c].readOn (fld w 62 2) (64 * slot) (64 * (fld w 78 6 + 1)) u.cores[c].fet.got = (k, bs) → 64 * (fld w 78 6 + 1) ≤ bs.length →
      exec (.put c w chk) s = .next (((u.putBegun c w slot k (if u.cores[c].fet.lost.isEmpty then 0 else 3)).sendGood c u.cores[c].nextId
        (endpointOf u.cores[c].fet w 16 40 92).1 (fld w 32 4) (fld w 36 4) (endpointOf u.cores[c].fet w 16 40 92).2 off bs
          u.cores[c].fet.lost).advance c .fetch)) ∧
    (∀ base len : Nat, s.actsAt c .fetch w 0x13 chk = some u → u.cores[c].fet.sum w 20 14 34 = (base : Int) → u.cores[c].fet.sum w 38 14 52 = (len : Int) →
      0 < len → base + len ≤ 12288 → (u.cores[c].win (fld w 16 4)).opened = false →
      (∀ v ∈ u.cores[c].wins.toList, v.opened = true → overlap v.base.toNat v.len.toNat base len = false) →
      exec (.winOpen c w chk) s = .next (((u.modCore c (fun k => k.setWin (fld w 16 4)
        { k.win (fld w 16 4) with opened := true, base := BitVec.ofNat 14 base, len := BitVec.ofNat 14 len, count := 0 })).serveWaits).advance c .fetch)) ∧
    (s.actsAt c .fetch w 0x14 chk = some u → (u.cores[c].win (fld w 16 4)).opened = true →
      exec (.winClose c w chk) s = .next (((u.modCore c (fun k => k.setWin (fld w 16 4)
        { u.cores[c].win (fld w 16 4) with opened := false, gen := (u.cores[c].win (fld w 16 4)).gen + 1 })).refuseHeld
          (fun h => h.core = c && h.win.val = fld w 16 4 && some h.ctx = u.ctxOn c) 1).advance c .fetch)) ∧
    (∀ layer strand : Nat, s.actsAt c .fetch w 0x15 chk = some u → u.cores[c].fet.sum w 16 12 28 = (layer : Int) → u.cores[c].fet.sum w 32 12 44 = (strand : Int) →
      layer ≤ 4094 → strand ≤ 4095 → strand % (u.seatOf c).2 = (u.seatOf c).1 → (bit w 48 = true → u.dualOn c = true) →
      ((u.cores[c].run.map (·.task)).join) = none → u.cores[c].bindQ.length < 4 →
      exec (.weftBind c w chk) s = .next ((u.modCore c (fun k => { k with bindQ := k.bindQ ++ [⟨layer, strand, bit w 48, fld w 64 32⟩] })).advance c .fetch))

/-- HPUSH and HPOP of a global and of a local queue with room, or an entry (R141, R170, R228). -/
def Obligations.HandleQueueInstructionsComplete : Prop :=
  ∀ (c : Fin 16) (w : Insn) (chk : Check) (s u : State),
    (∀ g : Nat, s.actsAt c .fetch w 0x18 chk = some u → bit w 20 = true → u.ghqOf c (fld w 21 6) = some g → (u.ghq g).entries.length < 32 →
      exec (.hpush c w chk) s = .next (((u.setGhq g { u.ghq g with entries := (u.ghq g).entries ++ [u.cores[c].fet.rd (fld w 16 4)] }).noteMet).advance c .fetch)) ∧
    (s.actsAt c .fetch w 0x18 chk = some u → bit w 20 = false → fld w 21 6 < 8 → (u.cores[c].q (fld w 21 6)).exeToFet = false →
      (u.cores[c].q (fld w 21 6)).slots.length < (u.cores[c].q (fld w 21 6)).depth →
      exec (.hpush c w chk) s = .next ((u.modCore c (fun k => k.setQ (fld w 21 6) { u.cores[c].q (fld w 21 6) with
        slots := (u.cores[c].q (fld w 21 6)).slots ++ [.entry (u.cores[c].fet.rd (fld w 16 4)) 0 k.fet.pc] })).advance c .fetch)) ∧
    (∀ (g : Nat) (v : Word) (rest : List Word), s.actsAt c .fetch w 0x19 chk = some u → bit w 20 = true → u.ghqOf c (fld w 21 6) = some g →
      (u.ghq g).entries = v :: rest →
      exec (.hpop c w chk) s = .next (((u.setGhq g { u.ghq g with entries := rest }).noteMet.modEng c .fetch (fun e => e.wr (fld w 16 4) v)).advance c .fetch)) ∧
    (∀ (v : Word) (f : Nat) (pc : BitVec 12) (rest : List QSlot), s.actsAt c .fetch w 0x19 chk = some u → bit w 20 = false → fld w 21 6 < 8 →
      (u.cores[c].q (fld w 21 6)).exeToFet = true → (u.cores[c].q (fld w 21 6)).slots = .entry v f pc :: rest →
      exec (.hpop c w chk) s = .next (((u.modCore c (fun k => k.setQ (fld w 21 6) { u.cores[c].q (fld w 21 6) with slots := rest }.settle)).modEng c .fetch
        (fun e => e.wr (fld w 16 4) v)).advance c .fetch))

/-- The sync instructions on an object of their kind that the core's context holds, CWAIT on a window, and RSIGNAL, which sends its packet
and goes on without waiting for the answer.
A program index names the physical object of R188's table, for a rim step by its partition and for a side task by its own core; an index
that fails its condition makes the access fault the context with SYNC_RANGE, a descriptor's completion when it takes effect (R188). -/
def Obligations.SyncInstructionsComplete : Prop :=
  (∀ (x : Ctx) (g : Program) (f p i : Nat), x.prog = some g →
    (i < 768 → translate x f p i = if i / 48 < p then some (48 * (f + i / 48) + i % 48) else none) ∧
    (∀ n, n < 8192 → translate x f p (768 + n) = if n < g.cflags then some (768 + x.cflagBase + n) else none) ∧
    (∀ n, n < 7168 → translate x f p (8960 + n) = if n < g.ctrs then some (8960 + x.ctrBase + n) else none) ∧
    (∀ n, n < 256 → translate x f p (16128 + n) = if n < g.bars.length then some (16128 + x.barBase + n) else none)) ∧
  (∀ (s : State) (c : Fin 16) (r : CoreRun) (x : Ctx) (i : Nat), s.cores[c].run = some r → s.ctx? r.ctx = some x →
    s.translateOn c i = (if r.task.isSome then translate x c.val 1 i else translate x s.parts[x.part].first s.parts[x.part].cores i) ∧
    (s.translateOn c i = none → s.setFlagOn c i = s.syncFault (s.ctxOn c) 1 0x0203) ∧ s.ctxOn c = some r.ctx) ∧
  (∀ (s : State) (id : Nat), s.syncFault (some id) 1 0x0203 = (s.stick blkSYN 0x0208 2).faultCtx id blkSYN 0x0203) ∧
  (∀ (c : Fin 16) (e : Eng) (w : Insn) (chk : Check) (s u : State) (n : Nat), (u.eng c e).sum w 16 14 30 = (n : Int) → n < 16384 → u.translateOn c n = none →
    (s.actsAt c e w 0x20 chk = some u → exec (.fset c e w chk) s = .next (u.syncFault (u.ctxOn c) 1 0x0203)) ∧
    (s.actsAt c e w 0x21 chk = some u → exec (.fclr c e w chk) s = .next (u.syncFault (u.ctxOn c) 1 0x0203)) ∧
    (s.actsAt c e w 0x22 chk = some u → exec (.fwait c e w chk) s = .next (u.syncFault (u.ctxOn c) 1 0x0203)) ∧
    (e = .fetch → bit w 34 = false → s.actsAt c e w 0x23 chk = some u → exec (.cwait c w chk) s = .next (u.syncFault (u.ctxOn c) 1 0x0203)) ∧
    (e = .fetch → s.actsAt c e w 0x24 chk = some u → exec (.consume c w chk) s = .next (u.syncFault (u.ctxOn c) 1 0x0203)) ∧
    (e = .fetch → s.actsAt c e w 0x26 chk = some u → exec (.barrier c w chk) s = .next (u.syncFault (u.ctxOn c) 1 0x0203))) ∧
  (∀ (c : Fin 16) (e : Eng) (w : Insn) (chk : Check) (s u : State),
    (∀ n i : Nat, (u.eng c e).sum w 16 14 30 = (n : Int) → n < 16384 → u.translateOn c n = some i →
      (s.actsAt c e w 0x20 chk = some u → objKind i ≠ .barrier → exec (.fset c e w chk) s = .next ((u.doneNow c e w).post c e .set i)) ∧
      (s.actsAt c e w 0x21 chk = some u → objKind i ≠ .barrier → exec (.fclr c e w chk) s = .next ((u.doneNow c e w).post c e .clear i)) ∧
      (s.actsAt c e w 0x22 chk = some u → (objKind i = .pipe ∨ objKind i = .flag) → (e = .exec → u.cores[c].posted = []) →
        exec (.fwait c e w chk) s = .next (u.register c e (if bit w 34 then .flagTest i else .flagTake i)))) ∧
    (∀ n i : Nat, (u.eng c .fetch).sum w 16 14 30 = (n : Int) → n < 16384 → u.translateOn c n = some i →
      (s.actsAt c .fetch w 0x23 chk = some u → bit w 34 = false → objKind i = .counter →
        exec (.cwait c w chk) s = .next (u.register c .fetch (.counter i (BitVec.ofInt 32 ((u.eng c .fetch).sum w 64 32 35))))) ∧
      (s.actsAt c .fetch w 0x24 chk = some u → objKind i = .counter → fld w 64 16 ≤ fld (u.obj i) 0 32 →
        exec (.consume c w chk) s = .next (((u.setObj i (withFld (u.obj i) 0 32 (fld (u.obj i) 0 32 - fld w 64 16))).serveWaits).advance c .fetch)) ∧
      (s.actsAt c .fetch w 0x26 chk = some u → objKind i = .barrier → bit w 34 = false →
        exec (.barrier c w chk) s = .next ((u.advance c .fetch).post c .fetch .arrive i)) ∧
      (s.actsAt c .fetch w 0x26 chk = some u → objKind i = .barrier → bit w 34 = true → ((u.barArrive i (u.ctxOn c)).cores[c].run).isSome = true →
        exec (.barrier c w chk) s = .next ((u.barArrive i (u.ctxOn c)).register c .fetch (.barrier i (bit (u.obj i) 35))))) ∧
    (∀ n : Nat, s.actsAt c .fetch w 0x23 chk = some u → bit w 34 = true → (u.eng c .fetch).sum w 16 14 30 = (n : Int) → n < 16 →
      exec (.cwait c w chk) s = .next (u.register c .fetch (.window (Fin.ofNat 16 n) (BitVec.ofInt 32 ((u.eng c .fetch).sum w 64 32 35)))))) ∧
  (∀ (c : Fin 16) (w : Insn) (chk : Check) (s u : State), s.actsAt c .fetch w 0x25 chk = some u →
    exec (.rsignal c w chk) s = .next ((u.sendPkt (endpointOf (u.eng c .fetch) w 16 40 100).1 0x03
      (BitVec.ofNat 32 (put (fld w 32 4) 0 4 + put (fld w 36 4) 4 4 + put (endpointOf (u.eng c .fetch) w 16 40 100).2 8 8
        + put (fld w 50 14) 16 14 + put (fld w 48 1) 30 1))
      (toLe 4 (BitVec.ofInt 32 ((u.eng c .fetch).sum w 64 32 96)).toNat ++ List.replicate 60 0)
      (.rsignal c (fld w 36 4) (if bit w 49 then some (fld w 104 14) else none)) (u.ctxOn c)).advance c .fetch))

/-- A set of a clear flag sets it, and a set of a set flag is an overrun that leaves it set and sets its overrun bit; an arrival at a
counter adds 1 modulo 2^32; no other object changes, while no wait is registered (R192, R193, R195). -/
def Obligations.SetAndArrive : Prop :=
  ∀ (s : State) (i : Nat) (x : Option Nat), s.syn.waits = [] →
    ((objKind i = .pipe ∨ objKind i = .flag) → bit (s.obj i) 0 = false →
      (s.syncSet i x).obj i = withFld (s.obj i) 0 1 1 ∧ ∀ j, j ≠ i → (s.syncSet i x).obj j = s.obj j) ∧
    (objKind i = .counter →
      (s.syncSet i x).obj i = withFld (s.obj i) 0 32 ((fld (s.obj i) 0 32 + 1) % 2 ^ 32) ∧ ∀ j, j ≠ i → (s.syncSet i x).obj j = s.obj j) ∧
    ((objKind i = .pipe ∨ objKind i = .flag) → bit (s.obj i) 0 = true → s.strictSync (s.ownerOf (s.obj i)) = false →
      (s.syncSet i x).obj i = withFld (s.obj i) 1 1 1 ∧ (∀ j, j ≠ i → (s.syncSet i x).obj j = s.obj j) ∧
      bit ((s.syncSet i x).reg blkSYN 0x0200) (fld (s.obj i) 61 2) = true)

/-- The matrix instructions on operands in range with room in the array queue, outside forerunner mode: MMA with the next binding, the
present one or a staging; MMA_DIAG; TLOAD of blocks or of none; ACC_READ of a bank that holds or awaits something (R232 to R236). -/
def Obligations.MatrixInstructionsComplete : Prop :=
  ∀ (c : Fin 16) (w : Insn) (chk : Check) (s u : State), bit (u.reg (blkCore c) 0x0A00) 0 = false → (u.cores[c].arrayQ.filter (!·.started)).length < 4 →
    (∀ (k0 m act : Nat) (bias : Int), s.actsAt c .exec w 0x30 chk = some u → 64 * fld w 45 9 ≤ 16384 →
      u.cores[c].exe.sum w 54 15 69 = (k0 : Int) → 64 * k0 + 64 * fld w 45 9 ≤ 1048576 → u.cores[c].exe.repl w 36 9 109 = (m : Int) → m ≤ 256 →
      fld w 23 3 ≠ 7 → u.cores[c].exe.sum w 73 14 87 = (act : Int) → slotsIn act (64 * fld w 45 9 / 32 * actSlots (fld w 21 2)) = true →
      u.cores[c].exe.sum w 91 14 105 = bias → (bit w 18 = true → slotsIn bias 16 = true) →
      (bit w 20 = true → k0 = 0 ∧ ∃ t, u.cores[c].staging = some t ∧ t.taken = false ∧ 64 * fld w 45 9 = 64 * t.blocks ∧ t.wfmt = fld w 23 3) →
      (bit w 19 = true → u.cores[c].bindQ ≠ []) → (bit w 19 = false → u.cores[c].bind.isSome = true) →
      ∃ t, exec (.mma c w chk) s = .next t ∧ t.cores[c].arrayQ = u.cores[c].arrayQ ++
          [{ id := u.cores[c].nextId, diag := false, bank := Fin.ofNat 2 (fld w 16 1), clear := bit w 17, biasEn := bit w 18, biasSlot := bias.toNat
             actSlot := act, ySlot := 0, k0 := 64 * k0, k := 64 * fld w 45 9, m := m, anchor := BitVec.ofNat 10 (fld w 26 10), wfmt := fld w 23 3
             afmt := fld w 21 2, staged := bit w 20, bind := if bit w 19 then u.cores[c].bindQ.head? else u.cores[c].bind
             popped := u.cores[c].exe.popped, push := pushQ w, pc := u.cores[c].exe.pc, started := false, fed := [], halves := [], done := []
             finished := [] }] ∧
        t.cores[c].bindQ = (if bit w 19 then u.cores[c].bindQ.drop 1 else u.cores[c].bindQ) ∧ t.cores[c].banks = u.cores[c].banks ∧
        t.cores[c].spad = u.cores[c].spad ∧ t.mem = u.mem) ∧
    (∀ (m x y : Nat) (bias : Int), s.actsAt c .exec w 0x31 chk = some u → 32 * fld w 45 9 ≤ 8192 → u.cores[c].exe.repl w 36 9 109 = (m : Int) → m ≤ 256 →
      4 ≤ fld w 23 3 → fld w 23 3 ≤ 6 → u.cores[c].exe.sum w 73 14 87 = (x : Int) → slotsIn x (32 * fld w 45 9 / 32 * actSlots (fld w 21 2)) = true →
      u.cores[c].exe.sum w 54 14 69 = (y : Int) → slotsIn y (32 * fld w 45 9 / 32 * 132) = true →
      u.cores[c].exe.sum w 91 14 105 = bias → (bit w 18 = true → slotsIn bias 16 = true) →
      ∃ t, exec (.mmaDiag c w chk) s = .next t ∧ t.cores[c].arrayQ = u.cores[c].arrayQ ++
          [{ id := u.cores[c].nextId, diag := true, bank := Fin.ofNat 2 (fld w 16 1), clear := bit w 17, biasEn := bit w 18, biasSlot := bias.toNat
             actSlot := x, ySlot := y, k0 := 0, k := 32 * fld w 45 9, m := m, anchor := BitVec.ofNat 10 (fld w 26 10), wfmt := fld w 23 3
             afmt := fld w 21 2, staged := false, bind := none, popped := u.cores[c].exe.popped, push := pushQ w, pc := u.cores[c].exe.pc
             started := false, fed := [], halves := [], done := [], finished := [] }] ∧
        t.cores[c].bindQ = u.cores[c].bindQ ∧ t.cores[c].banks = u.cores[c].banks ∧ t.cores[c].spad = u.cores[c].spad ∧ t.mem = u.mem) ∧
    (∀ slot : Nat, s.actsAt c .exec w 0x33 chk = some u → u.cores[c].exe.sum w 16 14 30 = (slot : Int) → fld w 34 9 ≤ 256 → fld w 43 3 ≠ 7 →
      slotsIn slot (fld w 34 9 * (blockBytes (fld w 43 3) / 64)) = true → u.cores[c].staging = none →
      exec (.tload c w chk) s = .next ((u.modCore c (fun k => if fld w 34 9 = 0 then k else
        { k with staging := some ⟨fld w 43 3, fld w 34 9, slot, fld w 46 2, false⟩ })).doneNow c .exec w)) ∧
    (∀ (m dst rk : Nat) (r : Readout), s.actsAt c .exec w 0x32 chk = some u → u.cores[c].exe.repl w 25 9 34 = (m : Int) → m + fld w 110 8 ≤ 256 →
      u.cores[c].exe.sum w 38 14 52 = (dst : Int) → u.cores[c].exe.sum w 56 14 70 = (rk : Int) → fld w 17 3 ≤ 4 →
      (bit w 22 = true → fld w 17 3 = 1 ∧ bit w 23 = false) →
      r = { id := u.cores[c].nextId, bank := Fin.ofNat 2 (fld w 16 1), row0 := fld w 110 8, m := m, site := fld w 78 32
            base := fld (u.cores[c].exe.rd (fld w 74 4)) 0 32, rkey := rk, dst := dst, fill := !bit w 24, diag := bit w 23, alayout := bit w 22
            keep := bit w 21, sr := bit w 20 && fld w 17 3 ≠ 4, ofmt := fld w 17 3, push := pushQ w, pc := u.cores[c].exe.pc, started := false
            left := none } →
      r.span.1 + r.span.2 ≤ 12288 → (r.sr = true → slotsIn rk 16 = true) →
      (u.cores[c].banks[r.bank].st ≠ .idle ∨ u.cores[c].arrayQ.any (fun j => j.bank = r.bank) = true) →
      exec (.accRead c w chk) s = .next (((u.modCore c (fun k => { k with nextId := k.nextId + 1, readouts := k.readouts ++ [r] })).oweHandle c
        r.push r.id).advance c .exec))

/-- VOP, VRED and VFUN on operands in range enter the vector unit with room, outside forerunner mode (R237, R238). -/
def Obligations.VectorInstructionsComplete : Prop :=
  ∀ (c : Fin 16) (w : Insn) (chk : Check) (s u : State) (j : VecJob), bit (u.reg (blkCore c) 0x0A00) 0 = false → u.cores[c].vecQ.length < 4 →
    (s.actsAt c .exec w 0x40 chk = some u → vecOperands u.cores[c] w .vop = some j →
      ∃ t, exec (.vop c w chk) s = .next t ∧ t.cores[c].vecQ = u.cores[c].vecQ ++ [j] ∧ t.cores[c].spad = u.cores[c].spad ∧ t.mem = u.mem) ∧
    (s.actsAt c .exec w 0x41 chk = some u → vecOperands u.cores[c] w .vred = some j →
      ∃ t, exec (.vred c w chk) s = .next t ∧ t.cores[c].vecQ = u.cores[c].vecQ ++ [j] ∧ t.cores[c].spad = u.cores[c].spad ∧ t.mem = u.mem) ∧
    (s.actsAt c .exec w 0x42 chk = some u → vecOperands u.cores[c] w .vfun = some j →
      ∃ t, exec (.vfun c w chk) s = .next t ∧ t.cores[c].vecQ = u.cores[c].vecQ ++ [j] ∧ t.cores[c].spad = u.cores[c].spad ∧ t.mem = u.mem)

/-! # Events inside a core (05_matrix_core, 06_scratchpad_streams) -/

/-- VECTOR_DONE, LULL_ENTRY, RUNAHEAD_PREFETCH and STREAM_COMPLETE where the event can happen (R142, R153, R158, R199, R219, R238). -/
def Obligations.CoreWaitsAndCompletions : Prop :=
  ∀ (c : Fin 16) (s : State), s.stopped = false →
    (∀ (j j' : VecJob) (rest : List VecJob) (k : Core) (fl : VFlags) (stall : Nat), s.cores[c].vecQ = j :: rest → s.cores[c].vecOn j = (k, j', fl) →
      (j'.left = some [] → ∃ u, exec (.vectorDone c ⟨stall, .ok⟩) s = .next ((State.payHandle u c j'.push j'.id (j'.handle c)).servePosted c) ∧
        u.cores[c].vecQ = rest ∧ u.cores[c].spad = k.spad ∧ u.cores[c].full = k.full ∧ u.mem = s.mem ∧
        u.reg (blkCore c) 0x0A18 = satAdd (s.reg (blkCore c) 0x0A18) stall) ∧
      (j'.left ≠ some [] → ∃ u, exec (.vectorDone c ⟨stall, .ok⟩) s = .next u ∧ u.cores[c].vecQ = j' :: rest ∧ u.cores[c].spad = k.spad ∧
        u.cores[c].full = k.full ∧ u.mem = s.mem)) ∧
    (∀ (e : Eng) (r : CoreRun), s.cores[c].run = some r → (s.eng c e).st ≠ .lull →
      ((∃ x ∈ s.syn.waits, x.core = c ∧ x.eng = e) ∨ s.cores[c].tagHolds e = true ∨
        (s.bindWait c e = false ∧ ((s.eng c e).st = .waitQueue ∨ ((s.eng c e).st = .runAhead ∧ s.queueServes c e = false)))) →
      exec (.lullEntry c e) s = .next ((s.modEng c e (fun g => { g with st := .lull })).modCtx r.ctx (fun x => { x with since := s.podTime }))) ∧
    (∀ e : Eng, s.bindWait c e = true → (s.eng c e).st = .waitQueue → s.syn.waits = [] → s.cores[c].tagHolds e = false → exec (.lullEntry c e) s = .next s) ∧
    (s.mayRunAhead c = true → ∃ t, exec (.runaheadPrefetch c) s = .next t ∧ t.cores[c].fet = { s.cores[c].fet with st := .runAhead } ∧
      t.cores[c].spad = s.cores[c].spad ∧ t.cores[c].streams = s.cores[c].streams ∧ t.mem = s.mem) ∧
    (∀ (id : Nat) (errs : List LineErr) (x : Stream) (stall : Nat), s.cores[c].streams.find? (fun t => decide (t.id = id)) = some x →
      exec (.streamComplete c id errs ⟨stall, .ok⟩) s = .next ((s.count (blkCore c) 0x0A18 stall).runStream c x errs))

/-- MMA_START with and without initialisation, the start of the array's ramp, its steps and the expiry of its hold: a full ramp-up is eight steps of
four cycles, a reversed ramp-down one step for each group that is missing (R35, R36, R135, R138). -/
def Obligations.ArrayStartsAndRamps : Prop :=
  ∀ (c : Fin 16) (s : State), s.stopped = false →
    (∀ (j : Job) (wait : Nat) (r : CoreRun), s.cores[c].run = some r → s.saving c = false → s.cores[c].arrayQ.find? (!·.started) = some j →
      (s.cores[c].arrayQ.filter (·.started)).all Job.allFed = true → s.cores[c].mayStart j = true →
      (j.clear = true ∨ s.cores[c].banks[j.bank].st = .idle → s.cores[c].biasReady j = true) →
      (j.clear = false → s.cores[c].banks[j.bank].st ≠ .idle → s.cores[c].banks[j.bank].anchor = j.anchor) →
      exec (.mmaStart c wait .ok) s = .next (
        let u := s.count (blkCore c) 0x0968 wait
        let begin_ := fun (k : Core) => Core.ramp { k with arrayQ := k.arrayQ.map (fun e => if e.id = j.id then { e with started := true } else e) }
        if j.clear || s.cores[c].banks[j.bank].st = .idle then
          ((u.modCore c (fun k => begin_ { k with banks := k.banks.set j.bank (initBank s.cores[c] j).1 })).accFlags c
            (initBank s.cores[c] j).2.1 (initBank s.cores[c] j).2.2.1 (initBank s.cores[c] j).2.2.2).faultMissing c
        else (u.modCore c (fun k => begin_ (if j.k = 0 ∨ j.m = 0 then k
          else { k with banks := k.banks.set j.bank { s.cores[c].banks[j.bank] with st := .accumulating } }))).faultMissing c)) ∧
    (∀ k : Core, k.wantsArray = true →
      (k.gate = .gated → k.ramp = { k with gate := .rampUp, groups := 0 }) ∧ (k.gate = .rampUp ∨ k.gate = .enabled → k.ramp = k) ∧
      (k.gate = .rampDown → k.groups < 8 → k.ramp = { k with gate := .rampUp })) ∧
    (s.cores[c].gate = .rampUp → s.cores[c].groups < 7 →
      exec (.arrayRampStep c) s = .next (s.modCore c (fun k => { k with groups := k.groups + 1 }))) ∧
    (s.cores[c].gate = .rampUp → 7 ≤ s.cores[c].groups →
      exec (.arrayRampStep c) s = .next (s.modCore c (fun k => { k with gate := .enabled, groups := 8 }))) ∧
    (s.cores[c].gate = .rampDown → 1 < s.cores[c].groups →
      exec (.arrayRampStep c) s = .next (s.modCore c (fun k => { k with groups := k.groups - 1 }))) ∧
    (s.cores[c].gate = .rampDown → s.cores[c].groups ≤ 1 →
      exec (.arrayRampStep c) s = .next (s.modCore c (fun k => { k with gate := .gated, groups := 0 }))) ∧
    (s.cores[c].gate = .enabled → s.cores[c].wantsArray = false →
      exec (.arrayHoldExpiry c) s = .next (s.modCore c (fun k => { k with gate := .rampDown, groups := 8 })))

/-- BLOCK_CONTRIBUTION of a diagonal and of a weight block, which counts the 32 K-rows that a staging or a diagonal feeds and waits while a staged
block is not there, and MMA_BANK_COMPLETE (R31, R33, R34, R51, R129, R148, R221).
READOUT_START of rows and of none, and READOUT_END, which goes on slot by slot and ends with the last one (R42, R136, R153). -/
def Obligations.ContributionsAndReadoutsComplete : Prop :=
  (∀ (c : Fin 16) (bank : Fin 2) (s : State) (j : Job), s.stopped = false →
    (∀ (block : Nat) (pass : Fin 2), (s.saving c = true → s.cores[c].blockBegun j block = true) → s.cores[c].arrayQ.find? (fun j => j.started && j.bank = bank && j.feeds) = some j → s.cores[c].gate = .enabled →
      pass.val < j.passes → block < j.k / 32 → j.done.contains (block, pass.val) = false →
      (actSlotsOf j.afmt j.actSlot block j.m).all s.cores[c].isFull = true → s.cores[c].banks[bank].count < 131072 →
      ∀ (k' : Core) (j' : Job) (u : State), s.cores[c].feedHalf j block = (k', j') →
        u = (if j.diag || j.staged then (s.modCore c (fun _ => k')).count (blkCore c) 0x0950 32 else s.modCore c (fun _ => k')) →
        (j.diag = true → (actSlotsOf 0 j.ySlot block j.m).all s.cores[c].isFull = true →
          exec (.blockContribution c bank block pass .ok) s = .next (
            let acc := s.cores[c].banks[bank].addDiag j' pass.val (k'.spadRd (64 * (j.ySlot + 132 * block)) 8448)
              (k'.spadRd (64 * (j.actSlot + actSlots j.afmt * block)) (64 * actSlots j.afmt))
            (u.modCore c (fun k => { k with
              banks := k.banks.set bank { s.cores[c].banks[bank] with words := acc.1, count := s.cores[c].banks[bank].count + 1 }
              arrayQ := k.arrayQ.map (fun e => if e.id = j.id then { j' with done := j.done ++ [(block, pass.val)] } else e) })).accFlags c
                acc.2.1 acc.2.2.1 acc.2.2.2)) ∧
        (∀ col : Nat → Blk, j.diag = false → j'.weights block = some col →
          exec (.blockContribution c bank block pass .ok) s = .next (
            let acc := s.cores[c].banks[bank].addTile j' pass.val ((List.range 256).map col)
              (k'.spadRd (64 * (j.actSlot + actSlots j.afmt * block)) (64 * actSlots j.afmt))
            (u.modCore c (fun k => { k with
              banks := k.banks.set bank { s.cores[c].banks[bank] with words := acc.1, count := s.cores[c].banks[bank].count + 1 }
              arrayQ := k.arrayQ.map (fun e => if e.id = j.id then { j' with done := j.done ++ [(block, pass.val)] } else e) })).accFlags c
                acc.2.1 acc.2.2.1 acc.2.2.2)) ∧
        (j.diag = false → j'.weights block = none → exec (.blockContribution c bank block pass .ok) s = .next (s.modCore c (fun _ => k')))) ∧
    (∀ weft act lost : Nat, s.cores[c].arrayQ.find? (fun j => j.started && j.bank = bank) = some j → j.complete = true →
      ∃ u, exec (.mmaBankComplete c bank weft act ⟨lost, .ok⟩) s = .next ((State.payHandle u c j.push j.id (poppedHandle c j.popped)).servePosted c) ∧
        u.cores[c].arrayQ = s.cores[c].arrayQ.filter (fun e => e.id ≠ j.id) ∧ u.cores[c].banks = s.cores[c].banks ∧
        u.reg (blkCore c) 0x0950 = s.reg (blkCore c) 0x0950 ∧
        u.reg (blkCore c) 0x0958 = satAdd (s.reg (blkCore c) 0x0958) weft ∧ u.reg (blkCore c) 0x0960 = satAdd (s.reg (blkCore c) 0x0960) act ∧
        u.reg (blkCore c) 0x0A18 = satAdd (s.reg (blkCore c) 0x0A18) lost)) ∧
  (∀ (c : Fin 16) (bank : Fin 2) (s : State) (r : Readout), s.stopped = false →
    (s.cores[c].readouts.find? (fun r => r.bank = bank) = some r → r.started = false → s.saving c = false →
      s.cores[c].arrayQ.any (fun j => j.bank = bank && j.id < r.id) = false → s.cores[c].banks[bank].st ≠ .idle →
      (r.m = 0 → exec (.readoutStart c bank) s = .next (s.endReadout c r)) ∧
      (r.m ≠ 0 → ∃ t, exec (.readoutStart c bank) s = .next t ∧ t.cores[c].banks[bank].st = .readout ∧
        t.cores[c].banks[bank].words = s.cores[c].banks[bank].words ∧ t.cores[c].spad = s.cores[c].spad ∧ t.mem = s.mem)) ∧
    (∀ (stall : Nat) (v : State) (out left : List (Nat × Bytes)), s.cores[c].readouts.find? (fun r => r.bank = bank && r.started) = some r →
      (r.sr = true → r.left = none → (slotsOf (64 * r.rkey + 4 * r.row0) (4 * r.m)).all s.cores[c].isFull = true) →
      (s.count (blkCore c) 0x0A18 stall).readOut c r = (v, left) →
      out = r.left.getD ((s.readBytes c r).1.flatMap (fun q => slotPieces (64 * r.dst + q.1) q.2)) →
      (left = [] → exec (.readoutEnd c bank ⟨stall, .ok⟩) s = .next (v.endReadout c r)) ∧
      (left ≠ [] → exec (.readoutEnd c bank ⟨stall, .ok⟩) s = .next v) ∧
      v.cores[c].spad = (s.cores[c].writePieces r.fill out).1.spad ∧ v.cores[c].full = (s.cores[c].writePieces r.fill out).1.full ∧
      left = (s.cores[c].writePieces r.fill out).2 ∧ v.cores[c].banks = s.cores[c].banks ∧ v.mem = s.mem ∧
      v.reg (blkCore c) 0x0A18 = satAdd (s.reg (blkCore c) 0x0A18) stall))

/-- Contributions into an accumulator, as many as a bank accepts, leave the same word in whatever order they are added (R34). A bias counts
as one contribution, each block's pass as one more, and one beyond 131,072 is not added: KLIMIT is set and the context faults (R34).
Each mark reads out as the largest finite value of its sign or the canonical NaN, and no normal value is a mark. -/
def Obligations.AccumulationIsOrderFree : Prop :=
  (∀ (a : Int) (l m : List (Int × Int × Bool)), l.length ≤ 131072 → l.Perm m →
    l.foldl (fun w k => contribute w k.1 k.2.1 a k.2.2) 0 = m.foldl (fun w k => contribute w k.1 k.2.1 a k.2.2) 0) ∧
  (∀ (a : Int) (l : List (Int × Int × Bool)), l.length ≤ 131072 → (∀ k ∈ l, k.2.2 = false ∧ excursion (anchored k.1 k.2.1 a) = 0) →
    (l.foldl (fun w k => contribute w k.1 k.2.1 a k.2.2) 0).toInt = (l.map (fun k => anchored k.1 k.2.1 a)).sum ∧
    markOf (l.foldl (fun w k => contribute w k.1 k.2.1 a k.2.2) 0) = 0) ∧
  (∀ (k : Core) (j : Job), (initBank k j).1.count = if j.biasEn then 1 else 0) ∧
  (∀ (c : Fin 16) (bank : Fin 2) (s : State) (j : Job) (block : Nat) (pass : Fin 2), s.stopped = false → s.saving c = false →
    s.cores[c].arrayQ.find? (fun j => j.started && j.bank = bank && j.feeds) = some j → s.cores[c].gate = .enabled → pass.val < j.passes →
    block < j.k / 32 → j.done.contains (block, pass.val) = false → (actSlotsOf j.afmt j.actSlot block j.m).all s.cores[c].isFull = true →
    (if j.diag then (actSlotsOf 0 j.ySlot block j.m).all s.cores[c].isFull = true else ((s.cores[c].feedHalf j block).2.weights block).isSome = true) →
    (s.cores[c].banks[bank].count < 131072 → ∃ u n exc bad, exec (.blockContribution c bank block pass .ok) s = .next (State.accFlags u c n exc bad) ∧
      u.cores[c].banks[bank].count = s.cores[c].banks[bank].count + 1) ∧
    (131072 ≤ s.cores[c].banks[bank].count → ∃ u, exec (.blockContribution c bank block pass .ok) s =
      .next ((State.stick u (blkCore c) 0x0810 16).faultOn c (blkCore c) 0x1015) ∧ u.cores[c].banks = s.cores[c].banks)) ∧
  (∀ (ofmt : Nat) (a : Int) (u : Option Nat), ofmt < 4 → ∀ big nan sign : Nat,
    (big, nan, sign) = (if ofmt = 0 then (0x7F7FFFFF, 0x7FC00000, 0x80000000) else if ofmt = 1 then (0x7F7F, 0x7FC0, 0x8000)
      else if ofmt = 2 then (0x7E, 0x7F, 0x80) else (0x7B, 0x7F, 0x80)) →
    readAcc ofmt (markWord 1) a u = (big, false) ∧ readAcc ofmt (markWord 2) a u = (big + sign, false) ∧ readAcc ofmt (markWord 3) a u = (nan, false)) ∧
  (∀ n : Int, -2 ^ 126 < n → n < 2 ^ 126 → markOf (BitVec.ofInt 128 n) = 0)

/-- PLAIT_IN_EXPANDER of a verified landed plait that the feeding instruction needs and of an own plait as its tier gives it, and PLAIT_DECODE_DONE of
an own plait, or of a landed one, that decodes, which counts the weight K-rows it feeds (R12, R62, R76, R131, R148, R232). -/
def Obligations.ExpanderTakesAndDelivers : Prop :=
  ∀ (c : Fin 16) (s : State) (j : Job) (b : Binding), s.stopped = false → s.cores[c].feeding = some (j, b) →
    (∀ (plait : Bytes) (id : Nat) (x : Ctx) (t : Word) (errs : List LineErr) (d : Landed) (v : State), s.plaitsFor c = some (id, x, t) →
      (s.cores[c].xbuf.map (fun u => u.bytes.length)).sum + plait.length ≤ 40960 → plait.length ≤ 16992 → checkPasses plait = true →
      (hdrOf plait).kind = 0 → (hdrOf plait).model = x.model → (hdrOf plait).layer = b.layer → (hdrOf plait).strand = b.strand →
      (hdrOf plait).epoch = (if b.sel then x.oldEpoch.getD x.epoch else ((s.epochsAt id x t).headD x.epoch)) →
      j.needs.contains (hdrOf plait).p = true → j.finished.contains (hdrOf plait).p = false →
      s.cores[c].xbuf.any (fun u => (hdrOf u.bytes).p = (hdrOf plait).p && (hdrOf u.bytes).strand = b.strand) = false →
      (hdrOf plait).format ≠ 7 → (hdrOf plait).owner ≠ s.rims[s.partOf c].own →
      s.rims[s.partOf c].landed.find? (fun d => s.landedFor c d && samePlait d.bytes plait) = some d → (hdrOf plait).step16 = fld t 0 16 →
      (s.decodable (s.partOf c) (hdrOf plait) && (decodePlait (s.lensOf (s.partOf c) (hdrOf plait)) plait).isNone) = false →
      s.readLanded (s.partOf c) errs d = (true, v) →
      exec (.plaitInExpander c plait ⟨.ok, errs⟩) s = .next (v.modCore c (fun k => { k with xbuf := k.xbuf ++ [⟨plait, false, none⟩] })) ∧
        (d.inRing = false → v = s)) ∧
    (∀ (plait : Bytes) (id key : Nat) (x : Ctx) (t : Word) (errs : List LineErr) (v : State), s.plaitsFor c = some (id, x, t) →
      (s.cores[c].xbuf.map (fun u => u.bytes.length)).sum + plait.length ≤ 40960 → plait.length ≤ 16992 → checkPasses plait = true →
      (hdrOf plait).kind = 0 → (hdrOf plait).model = x.model → (hdrOf plait).layer = b.layer → (hdrOf plait).strand = b.strand →
      (hdrOf plait).epoch = (if b.sel then x.oldEpoch.getD x.epoch else ((s.epochsAt id x t).headD x.epoch)) →
      j.needs.contains (hdrOf plait).p = true → j.finished.contains (hdrOf plait).p = false →
      s.cores[c].xbuf.any (fun u => (hdrOf u.bytes).p = (hdrOf plait).p && (hdrOf u.bytes).strand = b.strand) = false →
      (hdrOf plait).format ≠ 7 → (hdrOf plait).owner = s.rims[s.partOf c].own →
      key = dirKey x.model b.layer b.strand (hdrOf plait).segment (hdrOf plait).epoch →
      s.enc.dir.any (fun d => d.key = key && (hdrOf plait).part ≤ d.countM1) = true →
      s.rims[s.partOf c].failed.contains key = false → s.rims[s.partOf c].fixing.contains key = false →
      (s.decodable (s.partOf c) (hdrOf plait) && (decodePlait (s.lensOf (s.partOf c) (hdrOf plait)) plait).isNone) = false →
      s.ownPlait errs (hdrOf plait) = (some plait, v) →
      ∃ t, exec (.plaitInExpander c plait ⟨.ok, errs⟩) s = .next t ∧ t.cores[c].xbuf = v.cores[c].xbuf ++ [⟨plait, true,
        if !(hdrOf plait).free && v.decodable (s.partOf c) (hdrOf plait) then (v.tableOf (s.partOf c) (hdrOf plait)).map (·.1) else none⟩] ∧
        t.rims = v.rims ∧ t.mem = v.mem) ∧
    (∀ (u : Buffered) (d : Decoded), s.saving c = false → s.cores[c].xbuf.find? (fun u => s.decodable (s.partOf c) (hdrOf u.bytes)) = some u → j.started = true →
      (j.feeds = true → s.cores[c].gate = .enabled) → (hdrOf u.bytes).format = j.wfmt →
      decodePlait (s.lensOf (s.partOf c) (hdrOf u.bytes)) u.bytes = some d →
      ∃ t, exec (.plaitDecodeDone c .ok) s = .next (State.progress t (s.partOf c)) ∧ t.cores[c].xbuf = s.cores[c].xbuf.erase u ∧
        t.cores[c].arrayQ = s.cores[c].arrayQ.map (fun e => if e.id = j.id then { e with
          finished := e.finished ++ [(hdrOf u.bytes).p], fed := if e.feeds then e.fed ++ [d] else e.fed } else e) ∧ t.cores[c].spad = s.cores[c].spad ∧ t.mem = s.mem ∧
        t.reg (blkCore c) 0x0950 = (if j.feeds then satAdd (s.reg (blkCore c) 0x0950) (64 * j.passes) else s.reg (blkCore c) 0x0950) ∧
        (u.own = true → t.rims[s.partOf c].decoded =
          s.rims[s.partOf c].decoded ++ [identOf (hdrOf u.bytes) (((s.plaitsFor c).map (·.2.2)).getD (s.stepOn c))]))

/-! # The fabric (09_fabric) and what arrives over it (06, 07, 14) -/

/-- The packet types that this device is sent, each met on a device that runs (R175, R202 to R207, R114, R115, R257, R387).
PUT_RETRY_TIMER of a packet answered RETRY_LATER, E2E_RETRANSMIT_TIMER of one sent fewer than 8 times, of one sent 8 times and of one that still waits to
be injected, and REASM_ENTRY_RELEASE (R183, R264, R265). -/
def Obligations.PacketsAndTheirTimersComplete : Prop :=
  (∀ (p : Packet) (s : State), s.stopped = false →
    (p.typ = 0x01 → exec (.putPacketRx p) s = .next (s.receive p (fun s => s.putArrives p))) ∧
    (p.typ = 0x08 → exec (.rimRereq p) s = .next (s.receive p (fun s => s.rereqRx p))) ∧
    (p.typ = 0x09 → exec (.rimAbort p) s = .next (s.receive p (fun s => s.abortRx p))) ∧
    (p.typ = 0x0B → exec (.hbmWrite p) s = .next (s.receive p (fun s => s.hbmWriteRx p)))) ∧
  (∀ (p : Packet) (f : ObjFail) (s u : State), u = s.objFails f → u.stopped = false →
    (p.typ = 0x02 → exec (.ack ⟨p, f⟩) s = .next (u.ackRx p)) ∧
    (p.typ = 0x03 → exec (.rsignalRx ⟨p, f⟩) s = .next (u.receive p (fun s => s.signalArrives p))) ∧
    (p.typ = 0x04 → exec (.rsigDoneRx ⟨p, f⟩) s = .next (u.receive p (fun s => s.signalDone p))) ∧
    (p.typ = 0x05 → exec (.barArriveRx ⟨p, f⟩) s = .next (u.receive p (fun s => s.arriveRx p))) ∧
    (p.typ = 0x06 → exec (.barBreakRx ⟨p, f⟩) s = .next (u.receive p (fun s => s.breakRx p))) ∧
    (p.typ = 0x07 → exec (.barReleaseRx ⟨p, f⟩) s = .next (u.releaseRx p none))) ∧
  (∀ (s : State) (dst pseq : BitVec 16) (o : OutPkt), s.stopped = false →
    (s.outPkt? dst pseq = some o → o.retry = true → exec (.putRetryTimer dst pseq) s = .next (s.resend o false)) ∧
    (s.outPkt? dst pseq = some o → o.retry = false → s.toInject o = false → o.sends < 8 →
      exec (.e2eRetransmitTimer dst pseq) s = .next ((s.resend o true).count blkFAB 0x02D0)) ∧
    (s.outPkt? dst pseq = some o → o.retry = false → s.toInject o = true → exec (.e2eRetransmitTimer dst pseq) s = .next s) ∧
    (s.outPkt? dst pseq = some o → o.retry = false → s.toInject o = false → 8 ≤ o.sends → exec (.e2eRetransmitTimer dst pseq) s = .next (s.e2eFail o)) ∧
    (∃ t, exec (.reasmEntryRelease dst) s = .next t ∧ t.fab.reasm = s.fab.reasm.filter (fun e => e.src ≠ dst) ∧
      { t with fab := { t.fab with reasm := s.fab.reasm } } = s))

/-- A sequenced packet whose answer is recorded, or whose PSEQ lies below LOW, is answered again and not processed: nothing outside the
fabric's own record changes (R265).
A packet sent within the limits takes its destination's next sequence number and this device's endpoint id, its copy is kept, and the
sequence number rises by 1 modulo 2^16; the copy of its payload stands in the retransmit region, and no other byte of memory changes (R264).
A packet is sent as it leaves injection: it takes the injection bank's epoch bit and INJ_TIME then, and its timer starts (R256, R259, R264). -/
def Obligations.PacketsAreKeptAndAnsweredOnce : Prop :=
  (∀ (p : Packet) (s : State) (act : State → Nat × State) (e : Reasm), s.fab.reasm.find? (fun e => e.src = p.src) = some e →
    ((p.pseq - e.low).toNat < 512 → (∃ a ∈ e.done, a.1 = p.pseq) → { s.receive p act with fab := s.fab } = s) ∧
    (32768 ≤ (p.pseq - e.low).toNat → { s.receive p act with fab := s.fab } = s)) ∧
  (∀ (s : State) (dst : BitVec 16) (typ : Nat) (word : BitVec 32) (payload : Bytes) (ag : Agent) (x : Option Nat),
    s.mayInject ⟨dst, 0, 0, 0, BitVec.ofNat 8 typ, 0, 0, word, payload⟩ = true → s.fab.waiting = [] →
    ∃ p : Packet, p.dst = dst ∧ p.src = s.ownEp ∧ p.typ = BitVec.ofNat 8 typ ∧ p.word = word ∧ p.payload = payload ∧ p.hops = 0 ∧
      p.pseq = mget (fun _ => 0) s.fab.pseq dst.toNat ∧
      (s.sendPkt dst typ word payload ag x).fab.outst = s.fab.outst ++ [⟨p, 0, s.podTime, ag, x, false, s.freeSlot⟩] ∧
      (s.sendPkt dst typ word payload ag x).fab.inject = s.fab.inject ++ [p] ∧
      mget (fun _ => 0) (s.sendPkt dst typ word payload ag x).fab.pseq dst.toNat = p.pseq + 1 ∧
      (∀ d, d ≠ dst.toNat → mget (fun _ => 0) (s.sendPkt dst typ word payload ag x).fab.pseq d = mget (fun _ => 0) s.fab.pseq d) ∧
      (∀ o ∈ s.fab.outst, o.slot ≠ s.freeSlot) ∧ (s.sendPkt dst typ word payload ag x).peekN (retxPlace s.freeSlot) payload.length = payload ∧
      (∀ a, (a < retxPlace s.freeSlot ∨ retxPlace s.freeSlot + payload.length ≤ a) → (s.sendPkt dst typ word payload ag x).peek a = s.peek a)) ∧
  (∀ (s : State) (p : Packet) (o : OutPkt), s.fab.outst.find? (fun o => o.pkt.dst = p.dst && o.pkt.pseq = p.pseq && o.pkt.typ = p.typ) = some o →
    ∃ v ∈ (s.injected p).fab.outst, v.sends = max 1 o.sends ∧ v.lastAt = s.podTime ∧ v.pkt = s.stamp p ∧ v.pkt.injTime = s.injTime ∧
      fld v.pkt.flags 6 1 = s.fab.inj.val ∧ v.slot = o.slot)

/-- A PUT packet for a live window of its generation stores its lines at the window's base plus their offset, marks the slots full, and
counts them in the window's counter and in CORE_WIN_LINES. One for a closed window or a stale generation answers WINDOW_CLOSED, sets
LATE_ARRIVAL and counts in CORE_WIN_LATE; one past the window's end answers WINDOW_RANGE and sets WIN_RANGE; neither writes anything, moves
a counter of a window, or faults a context (R175). -/
def Obligations.PutStoresInItsWindow : Prop :=
  ∀ (s : State) (p : Packet) (c : Fin 16) (n off : Nat) (gen : BitVec 8), c = Fin.ofNat 16 (fld p.word 0 4) → n = fld p.word 4 4 →
    gen = BitVec.ofNat 8 (fld p.word 8 8) → off = fld p.word 16 14 →
    (∀ x, s.ctxOn c = some x → (s.cores[c].win n).opened = true → (s.cores[c].win n).gen = gen → s.winAt c n gen = .live x) ∧
    ((s.ctxOn c = none ∨ (s.cores[c].win n).opened = false ∨ (s.cores[c].win n).gen ≠ gen) → s.syn.parked = [] →
      (∀ x ∈ s.ctxs, s.ctxOn c ≠ some x.1 → s.savedWin x.2 c n gen = false) → s.winAt c n gen = .closed) ∧
    (∀ x, s.winAt c n gen = .live x → s.syn.waits = [] → s.syn.held = [] → off + p.payload.length / 64 ≤ (s.cores[c].win n).len.toNat →
      (s.putArrives p).1 = 0 ∧
      (s.putArrives p).2.cores[c].spad = setBytes s.cores[c].spad (64 * ((s.cores[c].win n).base.toNat + off)) p.payload ∧
      (∀ l ∈ slotsOf (64 * ((s.cores[c].win n).base.toNat + off)) p.payload.length, (s.putArrives p).2.cores[c].isFull l = true) ∧
      ((s.putArrives p).2.cores[c].win n).count = (s.cores[c].win n).count + BitVec.ofNat 32 (p.payload.length / 64) ∧
      (s.putArrives p).2.reg (blkCore c) 0x0A38 = satAdd (s.reg (blkCore c) 0x0A38) (p.payload.length / 64) ∧
      (s.putArrives p).2.mem = s.mem ∧ (s.putArrives p).2.ctxs = s.ctxs ∧ (∀ c', c' ≠ c → (s.putArrives p).2.cores[c'] = s.cores[c'])) ∧
    (∀ x, s.winAt c n gen = .live x → (s.cores[c].win n).len.toNat < off + p.payload.length / 64 →
      (s.putArrives p).1 = 2 ∧ bit ((s.putArrives p).2.reg (blkCore c) 0x0A08) 5 = true ∧ { (s.putArrives p).2 with regs := s.regs } = s) ∧
    (s.winAt c n gen = .closed →
      (s.putArrives p).1 = 1 ∧ bit ((s.putArrives p).2.reg (blkCore c) 0x0A08) 4 = true ∧
      (s.putArrives p).2.reg (blkCore c) 0x0A40 = satAdd (s.reg (blkCore c) 0x0A40) 1 ∧ { (s.putArrives p).2 with regs := s.regs } = s)

/-- The events of a link in each state that gives them an effect: training, its retry, the handshake and its failures; a device whose EEPROM chain is bad,
or that a class D fault has stopped, sends no OFFER (R356, R379). A link enters UP with SEQ, ACK and
the flit counts at 0 and, for each direction, the key and salt that the link secret gives for rekey index 0 (R247, R252, R268). -/
def Obligations.LinkHandshakeCompletes : Prop :=
  ∀ (s : State) (l : Fin 20),
    (s.links[l].st = .down → 6 ≤ s.pwr.stage → exec (.linkRetryTimer l) s = .next (s.setLink l .train)) ∧
    (s.links[l].st = .train → exec (.linkTrainDone l) s = .next ((s.setLink l .hello).sendHello l)) ∧
    (∀ m : HelloMsg, s.links[l].st = .hello → s.stopped = false → s.sec.chainBad = false → exec (.hello l m) s = .next
      (((s.modLink l (fun k => { k with partner := some m, helloAt := s.podTime })).setLink l .keyx).sendOffer l)) ∧
    (∀ m : HelloMsg, s.links[l].st = .hello → s.stopped = true ∨ s.sec.chainBad = true → exec (.hello l m) s = .next
      ((s.modLink l (fun k => { k with partner := some m, helloAt := s.podTime })).setLink l .keyx)) ∧
    (∀ m : HelloMsg, (s.links[l].st = .keyx ∨ (s.links[l].st = .up ∧ (s.links[l].partner.map (·.serial)) = some m.serial)) →
      exec (.hello l m) s = .next (s.modLink l (fun k => { k with partner := some m, helloAt := s.podTime }))) ∧
    (∀ m : HelloMsg, s.links[l].st = .up → (s.links[l].partner.map (·.serial)) ≠ some m.serial →
      exec (.hello l m) s = .next ((s.modLink l (fun k => { k with partner := some m, helloAt := s.podTime })).linkFails l)) ∧
    ((s.links[l].st = .hello ∨ s.links[l].st = .up) → exec (.helloSendTimer l) s = .next (s.sendHello l)) ∧
    (∀ pub random chain : Bytes, s.links[l].st = .keyx → s.stopped = false → s.sec.chainBad = false →
      exec (.offer l ⟨pub, random, chain, true⟩) s = .next ((s.modLink l (fun k => { k with peer := some ⟨pub, random, chain⟩ })).sendProof l) ∧
      exec (.offer l ⟨pub, random, chain, false⟩) s = .next (s.handshakeFail l)) ∧
    (∀ (sig secret : Bytes) (lower ok : Bool) (o : Offer), s.links[l].st = .keyx → s.stopped = false → s.sec.chainBad = false → s.links[l].peer = some o →
      lower = s.isLower l → secret = s.links[l].newSecret lower →
      ok = ecdsaOk (Config.chainSubject o.chain) (s.links[l].both lower (fun o => o.pub ++ o.random ++ o.chain)) sig →
      (ok = true → ∃ t, exec (.proof l ⟨sig⟩) s = .next t ∧ t.links[l].st = .up ∧
        t.links[l].txSeq = 0 ∧ t.links[l].rxSeq = 0 ∧ t.links[l].txFlits = 0 ∧ t.links[l].rxFlits = 0 ∧ t.links[l].replay = [] ∧
        (t.links[l].tx.key, t.links[l].tx.salt) = linkKeys secret lower 0 ∧ (t.links[l].rx.key, t.links[l].rx.salt) = linkKeys secret (!lower) 0 ∧
        t.links[l].tx.index = 0 ∧ t.links[l].rx.index = 0 ∧ (∀ m, m ≠ l → t.links[m] = s.links[m]) ∧ t.fab = s.fab ∧ t.cores = s.cores) ∧
      (ok = false → exec (.proof l ⟨sig⟩) s = .next (s.handshakeFail l))) ∧
    (s.links[l].st ≠ .up → exec (.linkStateTimeout l) s = .next (s.linkFails l)) ∧
    exec (.linkLossOfSignal l) s = .next (s.linkFails l)

/-- FLIT_RX: a flit that fails its CRC is counted and asked for again; an intact numbered flit in order whose tag holds is counted, SEQ rises, and its
payload joins what the link has received of its KIND, from START on where nothing is open; one out of order changes neither, nor does one whose tag
fails. RETRY resends the stored flits from the named one; REKEY_START has a REKEY wait for its slot, which names a switch count 512 above the flits sent before it,
and REKEY sets the other direction's; both set the keys of the next rekey index (R249 to R251, R253, R254). -/
def Obligations.FlitsAndRekeysComplete : Prop :=
  ∀ (s : State) (l : Fin 20), s.links[l].st = .up →
    (∀ f : Flit, flitCrcOk f = false → exec (.flitRx l f) s = .next ((s.flitError l 0x0240).askRetry l)) ∧
    (∀ (f : Flit) (old : Bytes), flitCrcOk f = true → flitKind f < 6 → flitSeq f = s.links[l].rxSeq → s.links[l].tagOk f = true →
      old = mget (fun _ => []) s.links[l].rxStream (flitKind f) →
      ∃ (t : State) (new : List (Flit × Nat)), exec (.flitRx l f) s = .next t ∧ t.links[l].rxSeq = s.links[l].rxSeq + 1 ∧
        t.links[l].rxFlits = s.links[l].rxFlits + 1 ∧
        t.links[l].replay = unacked (flitAck f) s.links[l].replay ++ new ∧ t.links[l].fcIn = flitFc f ∧
        mget (fun _ => []) t.links[l].rxStream (flitKind f) = (if old = [] then (match flitStart f with
          | some u => (s.links[l].plain f).drop (16 * u)
          | none => []) else old ++ s.links[l].plain f) ∧
        t.reg blkFAB 0x0230 l.val = satAdd (s.reg blkFAB 0x0230 l.val) 1 ∧ t.mem = s.mem ∧ t.cores = s.cores) ∧
    (∀ f : Flit, flitCrcOk f = true → flitSeq f ≠ s.links[l].rxSeq →
      ∃ t, exec (.flitRx l f) s = .next t ∧ t.links[l].rxSeq = s.links[l].rxSeq ∧ t.links[l].rxFlits = s.links[l].rxFlits ∧
        t.links[l].rxStream = s.links[l].rxStream ∧ (∀ off ∈ [0x0230, 0x0240, 0x0248], t.reg blkFAB off l.val = s.reg blkFAB off l.val) ∧
        t.mem = s.mem ∧ t.cores = s.cores) ∧
    (∀ f : Flit, flitCrcOk f = true → flitKind f ≠ 7 → flitSeq f = s.links[l].rxSeq → s.links[l].tagOk f = false → s.links[l].tagFails.length < 3 →
      ∃ t, exec (.flitRx l f) s = .next t ∧ t.links[l].rxSeq = s.links[l].rxSeq ∧ t.links[l].rxFlits = s.links[l].rxFlits ∧
        t.links[l].rxStream = s.links[l].rxStream ∧ t.reg blkFAB 0x0248 l.val = satAdd (s.reg blkFAB 0x0248 l.val) 1 ∧ t.links[l].st = .up ∧
        t.mem = s.mem) ∧
    (∀ q : BitVec 9, s.links[l].replay.any (fun f => flitSeq f.1 = q) = true → s.links[l].resends + 1 < 16 → ∃ t, exec (.retry l q) s = .next t ∧
      t.links[l].replay = s.links[l].replay.dropWhile (fun f => flitSeq f.1 ≠ q) ∧
      t.out = s.out ++ (s.links[l].replay.dropWhile (fun f => flitSeq f.1 ≠ q)).map (fun f => .flit l.val (s.links[l].again f.1)) ∧
      t.links[l].st = .up ∧ t.mem = s.mem) ∧
    (s.links[l].tx.next = none → s.links[l].ctlQ.any (fun c => c.2.isNone) = false →
      exec (.rekeyStart l) s = .next ((s.modLink l (fun k => { k with ctlQ := k.ctlQ ++ [(false, none)] })).pumpLink l false)) ∧
    (∀ key salt : Bytes, (key, salt) = linkKeys s.links[l].secret s.links[l].lower (s.links[l].tx.index + 1) →
      (s.sendControl l false none).links[l].tx = { s.links[l].tx with next := some (s.links[l].txFlits + 512, key, salt) } ∧
      (s.sendControl l false none).links[l].txFlits = s.links[l].txFlits + 1 ∧
      (s.sendControl l false none).reg blkFAB 0x0250 l.val = satAdd (s.reg blkFAB 0x0250 l.val) 1 ∧
      (s.links[l].tx.next = none → s.links[l].ctlQ = [] → s.links[l].nextKind false = none → s.links[l].replay.length < 256 →
        ∃ t, exec (.rekeyStart l) s = .next t ∧ t.links[l].tx = { s.links[l].tx with next := some (s.links[l].txFlits + 512, key, salt) } ∧
          t.links[l].txFlits = s.links[l].txFlits + 1 ∧ t.mem = s.mem)) ∧
    (∀ (n : BitVec 64) (key salt : Bytes), (key, salt) = linkKeys s.links[l].secret (!s.links[l].lower) (s.links[l].rx.index + 1) →
      exec (.rekey l n) s = .next ((s.modLink l (fun k => { k with rx := { k.rx with next := some (n.toNat, key, salt) } })).count blkFAB 0x0250 1 l.val))

/-- The time tree's exchange: TIME_REQ is noted and answered, the timer sends one on each link in UP, and TIME_RESP from the parent steers
pod time: one step before lock if the offset exceeds 1 µs, a rate toward zero offset of at most 200 ppm, lock after 16 exchanges below 8 ns, its loss
after 16 above 1 µs (R269, R270).
LINK_ADAPT_TICK keeps the setting before the change, ADAPT moves the taps one step, and ADAPT_EVALUATE gives a change up after which the
corrected rate rose (R403). -/
def Obligations.LinkTimeAndAdaptationComplete : Prop :=
  (∀ (s : State) (l : Fin 20), s.links[l].st = .up →
    (∀ (t1 t2 t3 : Word) (a : Advert), exec (.timeReq l t1 t2 t3 a) s = .next
      ((State.chooseParent { s with time := { s.time with adverts := insertAt s.time.adverts l.val (a, s.podTime) } }).sendCtl l "TIME_RESP"
        [t1.toNat, t2.toNat, t3.toNat])) ∧
    (s.stopped = false → 8 ≤ s.pwr.stage → exec .timeReqTimer s = .next (forAll (List.finRange 20) (fun l s =>
      if s.links[l].st = .up then s.sendCtl l "TIME_REQ" (s.podTime.toNat :: s.advert) else s) s.chooseParent)) ∧
    (∀ t1 t2 t3 t4 : Word, s.time.parent = some l → ∃ (t : State) (th : Int), exec (.timeResp l t1 t2 t3 t4) s = .next t ∧
      (th = thetaOf t1 t2 t3 t4 true ∨ th = thetaOf t1 t2 t3 t4 false) ∧
      t.podTime = (if s.time.locked = false ∧ s.time.stepped = false ∧ 1000 < th.natAbs then s.podTime + BitVec.ofInt 64 th else s.podTime) ∧
      t.time.rate.natAbs ≤ 200000 ∧ (0 < th → 0 ≤ t.time.rate) ∧ (th < 0 → t.time.rate ≤ 0) ∧ t.time.delay = delayOf t1 t2 t3 t4 ∧ t.mem = s.mem ∧
      (s.time.locked = false → (t.time.locked = true ↔ th.natAbs < 8 ∧ 15 ≤ s.time.good)) ∧
      (s.time.locked = true → (t.time.locked = false ↔ 1000 < th.natAbs ∧ 15 ≤ s.time.bad)))) ∧
  (∀ (s : State) (l : Fin 21),
    (s.mayAdapt l = true → ∃ t, exec (.linkAdaptTick l) s = .next t ∧
      look t.tune.trial l.val = some (mget (fun _ => 0) s.tune.setting l.val) ∧ t.mem = s.mem ∧ t.cores = s.cores) ∧
    (∀ up, s.mayAdapt l = true → ∃ t, exec (.adapt l up) s = .next t ∧
      mget (fun _ => 0) t.tune.setting (32 + l.val) = mget (fun _ => 0) s.tune.setting (32 + l.val) + (if up then 1 else -1) ∧
      { t with tune := s.tune } = s) ∧
    (∀ (before after : Nat) (old : Int), look s.tune.trial l.val = some old → ∃ t, exec (.adaptEvaluate l before after) s = .next t ∧
      t.tune.trial = erase s.tune.trial l.val ∧
      t.tune.setting = (if before < after then mset (fun _ => 0) s.tune.setting l.val old else s.tune.setting) ∧ { t with tune := s.tune } = s))

/-- The router takes a packet this device sent, which of request KIND the gust limiter admits at one opportunity in 2^level, or one from a general link
in UP; a waiting packet leaves whole on a free link that shows its KIND ON, of the port with the fewest bytes queued among those it may take, and is
dropped where it has become stale; one that has waited 4,096 cycles at the head of its input buffer goes to the escape path; GUST_TICK raises and lowers the limiter (R260, R261, R263,
R267).
Routing flips: the bank injects at T and the command completes; a bank that has been drained for 20 µs retires (R259). -/
def Obligations.RouterCompletes : Prop :=
  (∀ s : State, s.stopped = false →
    (∀ (p q : Packet) (rest : List Packet) (u : State), pull (fun (q : Packet) => q = p) s.fab.inject = some (q, rest) →
      u = (if kindOf p = 0 then { s with tune := { s.tune with turns := s.tune.turns + 1 } } else s) →
      ((kindOf p ≠ 0 ∨ s.tune.turns % 2 ^ s.tune.gust = 0) →
        ∀ v : State, v = State.injected { u with fab := { u.fab with inject := rest } } p →
          exec (.packetAtRouter p none) s = .next (if twinBound p then v.toTwin (v.stamp p) else v.route (v.stamp p) none)) ∧
      (kindOf p = 0 → s.tune.turns % 2 ^ s.tune.gust ≠ 0 → exec (.packetAtRouter p none) s = .next u)) ∧
    (∀ (p : Packet) (l : Fin 20), s.links[l].st = .up → s.isGeneral l.val = true → ∃ u, exec (.packetAtRouter p (some l)) s =
        .next ((State.route u p (some l)).reflow l) ∧ u.fab = s.fab ∧ u.cores = s.cores ∧ u.mem = s.mem) ∧
    (∀ (idx stall i : Nat) (l : Fin 20) (r : Routed), s.fab.queue[idx]? = some r → s.isStale r.pkt = false → s.pickOutput r = some (i, l) →
      ∃ (t : State) (before sent : List OutMsg), exec (.packetOutputGrant idx l stall .ok) s = .next t ∧ t.fab.queue = s.fab.queue.eraseIdx idx ∧
        t.out = s.out ++ before ++ .packet r.pkt :: sent ∧ (r.input = none → before = []) ∧ t.links = ((s.unqueue idx r).sendOn r i l).links ∧ t.mem = s.mem) ∧
    (∀ (r : Routed) (i : Nat) (l : Fin 20), s.pickOutput r = some (i, l) →
      i ∈ s.portsFor r ∧ l ∈ (s.bankOf r.pkt).linksAt i ∧ s.linkOn l (kindOf r.pkt) = true ∧
      ∀ j ∈ s.portsFor r, (∃ m ∈ (s.bankOf r.pkt).linksAt j, s.linkOn m (kindOf r.pkt) = true) →
        s.portBytes (s.bankOf r.pkt) i ≤ s.portBytes (s.bankOf r.pkt) j) ∧
    (∀ (idx stall : Nat) (l : Fin 20) (r : Routed), s.fab.queue[idx]? = some r → s.isStale r.pkt = true →
      exec (.packetOutputGrant idx l stall .ok) s = .next ((s.unqueue idx r).dropStale r.pkt) ∧
      (bit r.pkt.flags 8 = false → bit r.pkt.flags 11 = false → s.atHead idx r = true →
        exec (.escapeTimeout idx) s = .next ((s.unqueue idx r).dropStale r.pkt))) ∧
    (∀ (idx : Nat) (r : Routed) (u : State), s.fab.queue[idx]? = some r → bit r.pkt.flags 8 = false → bit r.pkt.flags 11 = false →
      s.atHead idx r = true → s.isStale r.pkt = false →
      u = ((State.packetGone { s with fab := { s.fab with queue := s.fab.queue.eraseIdx idx } } r.pkt).count blkFAB 0x02F8).escape r.pkt r.input r.kind →
      exec (.escapeTimeout idx) s = .next (match r.input with
        | some l => u.reflow l
        | none => u)) ∧
    (∀ (port : Fin 8) (ns n : Nat) (off : Bool) (smp : List (Fin 8 × Fin 8)), n = s.injectBytes →
      off = (!(s.fab.banks[s.fab.inj].linksAt port.val).isEmpty && decide (2500 ≤ ns)) → ∃ t, exec (.gustTick port ns smp) s = .next t ∧ t.mem = s.mem ∧
      t.cores = s.cores ∧
      (off = true ∨ 65536 < n → t.tune.gust = min (max 7 s.tune.gust) (s.tune.gust + 1) ∧ t.tune.quiet = 0) ∧
      (off = false → n ≤ 65536 → 4 ≤ s.tune.quiet → t.tune.gust = s.tune.gust - 1 ∧ t.tune.quiet = 0) ∧
      (off = false → n ≤ 65536 → s.tune.quiet < 4 → t.tune.gust = s.tune.gust ∧ t.tune.quiet = s.tune.quiet + 1))) ∧
  (∀ s : State,
    (∀ f : FabFlip, s.stopped = false → s.fab.flip = some f → s.isTime f.at_ = true → exec .fabEpochFlipAtT s = .next ((State.complete { s with fab := {
      s.fab with flip := none, inj := f.bank, flippedAt := s.podTime, banks := s.fab.banks.set f.bank { s.fab.banks[f.bank] with used := true } } }
        f.cmd stOk).drainInject)) ∧
    (∀ f : FabFlip, s.fab.flip = some f → s.isTime f.at_ = false → exec .fabEpochFlipAtT s = .next s) ∧
    (∀ b : Fin 2, s.fab.banks[b].live = true → s.fab.banks[b].used = true → b ≠ s.fab.inj → s.drain b = 0 →
      20000 ≤ (s.podTime - s.fab.flippedAt).toNat → 20000 ≤ (s.podTime - s.fab.busyAt[b]).toNat →
      ∃ t, exec (.bankRetire b) s = .next t ∧ t.fab.banks[b].live = false ∧ t.fab.inj = s.fab.inj ∧
        (∀ l : Fin 20, t.isGeneral l.val = s.isGeneral l.val → t.links[l] = s.links[l]) ∧
        { t with fab := s.fab, links := s.links, out := s.out, regs := s.regs } = s))

/-! # The command interface (11_command_interface) -/

/-- Doorbells within the ring's size set the index, larger ones put the pair in the error state; enabling, draining, and the coalescing
timer (R299, R300, R303, R304, R313).
ENTRY_TAKE at the ring to be served completes for every entry read: the entry is taken, SQ_HEAD goes on by one and the ring is the one served
last, but for a step or task of a context whose queue is full (R302, R305, R309, R311). -/
def Obligations.RingOperationsComplete : Prop :=
  ∀ (s : State) (r : Fin 64) (v : Word), s.stopped = false →
    (v.toNat < s.sqSize r →
      exec (.sqDoorbell r v) s = .next (s.modRing r (fun g => { g with sqTail := v.toNat }))) ∧
    (v.toNat < s.cqSize r →
      exec (.cqDoorbell r v) s = .next (s.modRing r (fun g => { g with cqHead := v.toNat }))) ∧
    (s.sqSize r ≤ v.toNat →
      ∃ t, exec (.sqDoorbell r v) s = .next t ∧ t.rings[r].st = .error ∧ t.rings[r].sqTail = s.rings[r].sqTail ∧ t.rings[r].err = 1) ∧
    (s.cqSize r ≤ v.toNat →
      ∃ t, exec (.cqDoorbell r v) s = .next t ∧ t.rings[r].st = .error ∧ t.rings[r].cqHead = s.rings[r].cqHead ∧ t.rings[r].err = 1) ∧
    (s.rings[r].st = .disabled → bit v 63 = true → ringSize (fld v 0 13) = true → ringSize (fld v 13 13) = true →
      ∃ t, exec (.ringEnable r v) s = .next t ∧ t.rings[r] = { st := .active } ∧ t.sqSize r = fld v 0 13 ∧ t.cqSize r = fld v 13 13 ∧ t.mem = s.mem) ∧
    (s.rings[r].st = .active → bit v 63 = false → s.taken.any (fun t => t.ring = r) = false →
      ∃ t, exec (.ringDrain r v) s = .next t ∧ t.rings[r].st = .disabled ∧ t.mem = s.mem) ∧
    (∀ (e : BitVec 512) (b : BufRead), s.obinhaOn = true → s.vcl.st = .up → s.nextRing = some r →
      ¬ ((fld e 0 8 = 0x40 ∨ fld e 0 8 = 0x41) ∧ s.queueFull (fld e 128 16) = true) →
      ∃ t, exec (.entryTake r true e b) s = .next t ∧ t.served = r ∧ t.accepted = s.accepted + 1 ∧
        t.rings[r].sqHead = (if s.rings[r].sqHead + 1 = s.sqSize r then 0 else s.rings[r].sqHead + 1) ∧
        t.reg blkCTL 0x0438 = satAdd (s.reg blkCTL 0x0438) 1) ∧
    (s.coalesce r ≠ 0 → s.rings[r].unsent ≠ 0 → exec (.coalesceTimer r) s = .next
      (if s.ringVec r < 64 then (s.modRing r (fun g => { g with unsent := 0 })).raiseVec (s.ringVec r) else s.modRing r (fun g => { g with unsent := 0 })))

/-- ENTRY_TAKE at the ring to be served: an entry that passes the checks of R308 joins the taken commands, one that fails them completes
with the status, one that cannot be read puts the pair in the error state; SQ_HEAD goes on by one in the first two (R302, R304, R308).
The part of a RIM_FORM's buffer stands with it, and CMD_ID is not interpreted: the device numbers the entries it takes (R305).
Taken entries are refused in the order of R308: an opcode outside the table, then flags, reserved argument bits and buffer fields,
then an unreadable buffer. -/
def Obligations.EntryTakeCompletes : Prop :=
  (∀ (s : State) (r : Fin 64) (e : BitVec 512) (b : BufRead), s.obinhaOn = true → s.vcl.st = .up → s.nextRing = some r →
    (¬ ((fld e 0 8 = 0x40 ∨ fld e 0 8 = 0x41) ∧ s.queueFull (fld e 128 16) = true) →
      entryStatus (fld e 0 8) (fld e 8 8) (BitVec.ofNat 64 (fld e 64 64)) (BitVec.ofNat 32 (fld e 32 32)) (BitVec.ofNat 384 (fld e 128 384)) b.ok = stOk →
      ∃ t, exec (.entryTake r true e b) s = .next t ∧ t.served = r ∧
        t.taken = s.taken ++ [⟨r, BitVec.ofNat 16 (fld e 16 16), BitVec.ofNat 8 (fld e 0 8), bit e 8, bit e 9, false,
          BitVec.ofNat 64 (fld e 64 64), BitVec.ofNat 32 (fld e 32 32), BitVec.ofNat 384 (fld e 128 384), b.part.toNat, s.accepted⟩] ∧
        t.accepted = s.accepted + 1 ∧
        t.rings[r].sqHead = (if s.rings[r].sqHead + 1 = s.sqSize r then 0 else s.rings[r].sqHead + 1) ∧ (s.heldOut = [] → t.mem = s.mem)) ∧
    (∀ st : Nat, st ≠ stOk → s.taken = [] → s.heldOut = [] → ¬ ((fld e 0 8 = 0x40 ∨ fld e 0 8 = 0x41) ∧ s.queueFull (fld e 128 16) = true) →
      entryStatus (fld e 0 8) (fld e 8 8) (BitVec.ofNat 64 (fld e 64 64)) (BitVec.ofNat 32 (fld e 32 32)) (BitVec.ofNat 384 (fld e 128 384)) b.ok = st →
      ∃ t, exec (.entryTake r true e b) s = .next t ∧ t.taken = [] ∧ t.reg blkCTL 0x0438 = satAdd (s.reg blkCTL 0x0438) 1 ∧
        t.reg blkCTL 0x0440 = satAdd (s.reg blkCTL 0x0440) 1 ∧ t.reg blkCTL 0x0448 = satAdd (s.reg blkCTL 0x0448) 1 ∧
        t.rings[r].sqHead = (if s.rings[r].sqHead + 1 = s.sqSize r then 0 else s.rings[r].sqHead + 1)) ∧
    (∃ t, exec (.entryTake r false e b) s = .next t ∧ t.rings[r].st = .error ∧ t.rings[r].err = 2 ∧ t.rings[r].sqHead = s.rings[r].sqHead ∧
      t.taken = s.taken) ∧
    ((fld e 0 8 = 0x40 ∨ fld e 0 8 = 0x41) → s.queueFull (fld e 128 16) = true →
      ∃ t, exec (.entryTake r true e b) s = .next t ∧ t.rings[r].sqHead = s.rings[r].sqHead ∧ t.rings[r].stalled = some (fld e 128 16) ∧
        t.taken = s.taken ∧ (s.heldOut = [] → t.mem = s.mem))) ∧
  (∀ (op flags : Nat) (buf : Word) (len : BitVec 32) (args : BitVec 384) (ok : Bool),
    (op ∉ opcodes → entryStatus op flags buf len args ok = stBadOpcode) ∧
    (op ∈ opcodes → (4 ≤ flags ∨ args &&& argRsvd op ≠ 0 ∨ fld buf 0 6 ≠ 0 ∨ (buf ≠ 0 ∧ len = 0) ∨ bufRange op len.toNat = false) →
      entryStatus op flags buf len args ok = stInvalid) ∧
    (op ∈ opcodes → flags < 4 → args &&& argRsvd op = 0 → fld buf 0 6 = 0 → (buf ≠ 0 → len ≠ 0) → bufRange op len.toNat = true →
      entryStatus op flags buf len args ok = if readsBuf op && !ok then stHostIo else stOk))

/-- A command completed leaves the taken commands, is counted, and writes its completion entry at the ring's CQ index with the ring's PHASE,
unless it is quiet and OK; the index goes on and the PHASE turns at the ring's end (R302, R306, R312). The entry is one WR_MASKED of 32 bytes,
at the ring's base and its index, that leaves at once where the link is idle. -/
def Obligations.CompletionIsWritten : Prop :=
  ∀ (s : State) (t : Taken) (rest : List Taken) (status r0 r1 cause : Nat),
    pull (fun e : Taken => e.id = t.id && e.begun) s.taken = some (t, rest) →
    s.rings[t.ring].st = .active → s.linkIdle = true → status ≠ stBadOpcode → status ≠ stInvalid →
    (s.complete t.id status r0 r1 cause).taken = rest ∧
    (s.complete t.id status r0 r1 cause).reg blkCTL 0x0440 = satAdd (s.reg blkCTL 0x0440) 1 ∧
    (t.quiet = true → status = stOk → (s.complete t.id status r0 r1 cause).out = s.out ∧
      (s.complete t.id status r0 r1 cause).rings = s.rings) ∧
    (¬ (t.quiet = true ∧ status = stOk) →
      .cq t.ring s.rings[t.ring].cqTail (cqEntry t status s.rings[t.ring].phase s.rings[t.ring].sqHead r0 r1
        (if cause = 0 ∧ status = stHostIo then 0x0803 else cause)) ∈
        (s.complete t.id status r0 r1 cause).out ∧
      (∃ tag : BitVec 12, .vcl "WR_MASKED" [tag.toNat, 4096 * fld (s.reg blkCTL 0x0410 t.ring.val) 12 52 + 32 * s.rings[t.ring].cqTail]
        (cqEntry t status s.rings[t.ring].phase s.rings[t.ring].sqHead r0 r1 (if cause = 0 ∧ status = stHostIo then 0x0803 else cause)) ∈
          (s.complete t.id status r0 r1 cause).out) ∧
      (s.complete t.id status r0 r1 cause).rings[t.ring].cqTail =
        (if s.rings[t.ring].cqTail + 1 = s.cqSize t.ring then 0 else s.rings[t.ring].cqTail + 1) ∧
      (s.complete t.id status r0 r1 cause).rings[t.ring].phase =
        (if s.rings[t.ring].cqTail + 1 = s.cqSize t.ring then !s.rings[t.ring].phase else s.rings[t.ring].phase))

/-- NOP, QUERY, DISCOVER, ALMANAC_READ and TELEMETRY_CFG: the output goes to the command's buffer, or there is none (R308, R315, R323, R411, R417). -/
def Obligations.ReportCommandsComplete : Prop :=
  ∀ (h : CmdHdr) (s u : State) (t : Taken),
    (s.started h 0x01 [] = some (t, u) → exec (.cmdNop h) s = .next (u.done t stOk)) ∧
    (s.started h 0x02 [] = some (t, u) → exec (.query h) s = .next (u.reply t u.queryReport)) ∧
    (s.started h 0x52 [] = some (t, u) → exec (.discover h) s = .next (u.reply t ((List.finRange 20).flatMap u.linkRecord))) ∧
    (s.started h 0x71 [] = some (t, u) → exec (.almanacRead h) s = .next
      (if u.almLatest = [] then u.done t stOk else u.reply t u.almLatest.flatten (256 * u.almLatest.length))) ∧
    (∀ period : BitVec 16, s.started h 0x70 [(16, period.toNat)] = some (t, u) → period.toNat ≤ 1000 → (period = 0 ↔ t.bufLen = 0) →
      (∀ g, u.hkp.ring = some g → g.busy = false) → (∀ o ∈ u.replies, o.1 ≠ t.id) → u.vcl.st = .up →
      (u.taken.find? (fun x => x.id = t.id)).map (·.buf) = some t.buf →
      exec (.telemetryCfg h period) s = .next (if period = 0 then State.setRing { u with hkp := { u.hkp with newRing := some (t.id, none) } } none t.id
        else State.reply { u with hkp := { u.hkp with newRing := some (t.id, some { base := hostBase + t.buf.toNat, entries := (t.bufLen.toNat - 64) / 512, period := period.toNat, since := 0, written := 0 }) } } t zeros64))

/-- The commands that configure the device, on arguments its rules accept: REGION_SET, PART_CONFIG, FAB_ROUTE_LOAD, FAB_EPOCH_FLIP and
TIME_SET, and DEBUG_SYNC_FORCE accepted or refused (R211, R258, R259, R316, R317, R322, R418). -/
def Obligations.DeviceCommandsComplete : Prop :=
  ∀ (h : CmdHdr) (s u : State) (t : Taken),
    (∀ (b : Bytes) (a : RegionArgs), a = regionArgs b → s.started h 0x03 [] = some (t, u) → a.rsvd = false → a.ranges.length = 16 → a.slowerBase.toNat % 4096 = 0 →
      a.slowerSize.toNat % 4096 = 0 → (∀ r ∈ a.ranges, r.access ≠ 0 → aptInUse r = true ∧ r.access ≠ 3) →
      disjoint overlaps ((a.ranges.filter (fun r => r.access ≠ 0)).map (fun r => (r.base.toNat, r.size.toNat))) = true →
      (u.enc.dir.any (·.slower) = true → a.slowerBase = u.slowerBase ∧ a.slowerSize = u.slowerSize) →
      ∃ v, exec (.regionSet h b) s = .next (State.done v t stOk) ∧ v.slowerBase = a.slowerBase ∧ v.slowerSize = a.slowerSize ∧
        v.vcl.apt = Vector.ofFn (fun (i : Fin 16) => ((a.ranges[i.val]?).map aptWord).getD 0) ∧ v.mem = u.mem) ∧
    (∀ a : PartArgs, s.started h 0x10 [(16, a.shape.toNat), (24, a.ring0.toNat), (26, a.ring1.toNat), (28, a.ring2.toNat), (30, a.ring3.toNat)] = some (t, u) →
      a.shape.toNat < 4 →
      (∀ m ∈ [a.ring0.toNat, a.ring1.toNat, a.ring2.toNat, a.ring3.toNat], m % 64 = 0 ∧ m ≤ 8192) →
      (∀ m ∈ [a.ring0.toNat, a.ring1.toNat, a.ring2.toNat, a.ring3.toNat].drop (shapeCores a.shape.toNat).length, m = 0) →
      (ringsOf a.shape.toNat [a.ring0.toNat, a.ring1.toNat, a.ring2.toNat, a.ring3.toNat]).sum ≤ 8192 → u.ctxs = [] →
      (∀ p : Fin 4, u.rims[p].phase = .none) → u.twin.st = .unpaired →
      ∃ v, exec (.partConfig h a) s = .next (State.done v t stOk) ∧ v.shape = a.shape.setWidth 2 ∧
        v.parts = partsOf a.shape.toNat (ringsOf a.shape.toNat [a.ring0.toNat, a.ring1.toNat, a.ring2.toNat, a.ring3.toNat]) ∧
        (∀ p : Fin 4, v.reg blkCTL 0x0510 p.val = 500 ∧ v.reg blkCTL 0x0520 p.val = 0) ∧ v.mem = u.mem) ∧
    (∀ (m : List (Nat × Byte)) (a : RouteArgs) (b : Fin 2), a = routeArgs m → s.started h 0x50 [] = some (t, u) → a.bank.toNat = b.val → u.fab.banks[b].live = false → routeOk a = true →
      u.portsOk a.ports = true →
      ∃ v, exec (.fabRouteLoad h m) s = .next (State.done v t stOk) ∧ v.fab.banks[b] = routeBank a ∧ v.fab.inj = u.fab.inj ∧ v.mem = u.mem) ∧
    (∀ (bank : BitVec 8) (b : Fin 2) (at_ : Word), s.started h 0x51 [(16, bank.toNat), (24, at_.toNat)] = some (t, u) → bank.toNat = b.val →
      b ≠ u.fab.inj → u.fab.banks[b].live = true → u.fab.banks[b].used = false → u.fab.flip = none → 10000 ≤ (at_ - u.podTime).toInt →
      exec (.fabEpochFlip h bank at_) s = .next { u with fab := { u.fab with flip := some ⟨b, at_, t.id⟩ } }) ∧
    (∀ utc at_ : Word, s.started h 0x72 [(24, utc.toNat), (32, at_.toNat)] = some (t, u) → utc ≠ 0 → (at_ - u.podTime).toInt.natAbs ≤ 1000000000 →
      exec (.timeSet h utc at_) s = .next ((u.setCal utc at_).done t stOk)) ∧
    (∀ a : ForceArgs, s.started h 0x7F [(16, a.index.toNat), (18, a.op.toNat), (20, a.value.toNat)] = some (t, u) →
      exec (.debugSyncForce h a) s = .next (((u.objFails a.fail).force a false).2.done t (if (u.objFails a.fail).forceOk a then stOk else stInvalid)))

/-- KEY_ENROLL of a publisher key and its removal, and MODEL_ENROLL, on records that verify (R357 to R360). -/
def Obligations.EnrolmentCommandsComplete : Prop :=
  ∀ (h : CmdHdr) (s u : State) (t : Taken),
    (∀ (c : KeyCmd) (a : KeyArgs), a = keyArgs c.slot c.buf →
      s.started h 0x20 [(16, c.slot.toNat)] = some (t, u) → a.format = 1 → a.slot.toNat ≤ 63 → a.recSlot = a.slot → a.rsvd = 0 →
      (a.serial = 0 ∨ a.serial = u.fuses.serial) → u.expired a.expiry = false → u.fuses.rootSet = true → a.rootOk = true → a.sigOk = true →
      (a.action = 0 → look u.sec.publishers a.slot.toNat = none → a.onCurve = true → (∀ k ∈ u.sec.publishers, k.2 ≠ a.publisher) →
        ∃ v, exec (.keyEnroll h c) s = .next (State.done v t stOk) ∧ v.sec.publishers = insertAt u.sec.publishers a.slot.toNat a.publisher ∧
          v.enc = u.enc ∧ v.mem = u.mem) ∧
      (∀ key : Bytes, a.action = 1 → look u.sec.publishers a.slot.toNat = some key → (∀ b ∈ a.publisher, b = 0) →
        (∀ m ∈ u.modelsOf a.slot.toNat, u.enc.dir.any (fun e => e.model = m.id) = false ∧ u.ctxs.any (fun x => x.2.model = m.id) = false) →
        ∃ v, exec (.keyEnroll h c) s = .next (State.done v t stOk) ∧ v.sec.publishers = erase u.sec.publishers a.slot.toNat ∧
          v.enc.models = u.enc.models.filter (fun m => m.slot ≠ a.slot.toNat) ∧
          v.sec.contentKeys = u.sec.contentKeys.filter (fun k => !(u.modelsOf a.slot.toNat).any (fun m => m.id = k.1)) ∧ v.mem = u.mem)) ∧
    (∀ (c : ModelCmd) (a : ModelArgs) (ck : Bytes), a = u.modelArgs c.model c.slot c.buf → contentKey u.fuses.secret a.model.toNat u.fuses.serial a.ephPub a.wrapped = some ck →
      s.started h 0x21 [(16, c.model.toNat), (18, c.slot.toNat)] = some (t, u) → a.rsvd = false → a.format = 1 → a.recModel = a.model →
      a.layers ≠ 0 → a.layers.toNat ≤ 4095 → a.formats ≠ 0 → bit a.formats 7 = false → u.model? a.model.toNat = none → a.slot.toNat ≤ 63 →
      (look u.sec.publishers a.slot.toNat).isSome = true → u.enc.models.length < 4096 → a.sigOk = true → a.unwrapOk = true → keyCommit ck = a.commit →
      ∃ v, exec (.modelEnroll h c) s = .next (State.done v t stOk a.layers.toNat) ∧
        v.enc.models = addModel ⟨a.model.toNat, a.slot.toNat, a.layers.toNat, a.formats, a.commit⟩ u.enc.models ∧
        v.sec.contentKeys = insertAt u.sec.contentKeys a.model.toNat ck ∧ v.mem = u.mem)

/-! # Weights (03_weft_format, 13_security_loading) -/

/-- SHARD_INGEST and EPOCH_STAGE accepted, the two passes, and eviction: dropped, to the slower tier and back (R82, R85, R89 to R91, R319, R363).
INGEST_PASS2_END with checks that agree: every item stands in the weft store and the directory, and the shard is held (R89, R90, R91, R363). -/
def Obligations.WeightCommandsComplete : Prop :=
  (∀ (h : CmdHdr) (s u : State) (t : Taken),
    (∀ (c : IngestCmd) (a : IngestArgs) (stage : Bool), a = ingestArgs (u.publisherOf c.model.toNat) c.model c.epoch c.sflags c.n c.k c.man → u.heldOut = [] →
      s.started h (if stage then 0x24 else 0x22) (ingestFields c) = some (t, u) →
      2 ≤ a.n.toNat → a.n.toNat ≤ 64 → a.k.toNat < a.n.toNat → (u.model? a.model.toNat).isSome = true →
      (u.enc.dir.any (fun e => e.model = a.model.toNat && (!stage || e.epoch = a.epoch.toNat))) = false → manifestBad a t.bufLen.toNat = false →
      a.sigOk = true → a.ctLen.toNat ≤ stagingSize + 16 →
      ∃ v, exec (if stage then .epochStage h c else .shardIngest h c) s = .next v ∧
        v.mem = u.mem ∧ v.taken = u.taken ∧
        v.enc.ops = u.enc.ops ++ [{ phase := .pass1, cmd := t.id, opcode := t.opcode, model := a.model.toNat, epoch := a.epoch.toNat
                                    n := a.n.toNat, k := a.k.toNat, retain := if bit a.sflags 0 then some (t.buf.toNat, t.bufLen.toNat) else none
                                    ctLen := a.ctLen.toNat, checks := a.checks, nonce := a.nonce, digest := a.digest, records := [] }] ∧
        v.enc.dir = u.enc.dir) ∧
    (∀ (o : EncOp) (rest : List EncOp) (m : Model) (l : List StrandRec) (ct bs : Bytes), s.stopped = false → s.enc.ops = o :: rest → o.phase = .pass1 →
      ct.length = o.ctLen → s.openShard o.model o.epoch o.n o.k o.nonce o.digest ct = (bs, true) → s.model? o.model = some m →
      parseShard o.n o.k bs = some l → recordsFit m l = true → s.vcl.st = .up →
      ∃ v, exec (.ingestPass1End ct true .ok) s = .next v ∧ v.enc.ops = { o with phase := .pass2, records := l } :: rest ∧ v.enc.dir = s.enc.dir ∧
        v.mem = ((s.hostMoved false (hostBase + s.bufOf o.cmd) o.ctLen ingestRank).writeHbm stagingBase bs).2.mem) ∧
    (∀ (o : EncOp) (rest : List EncOp) (ct : Bytes), s.stopped = false → s.enc.ops = o :: rest → o.phase = .pass1 →
      exec (.ingestPass1End ct false .ok) s = .next (s.hostFailed.encDone o stHostIo 0 0 0x0803)) ∧
    (∀ (model : BitVec 16) (epoch : BitVec 8), s.started h 0x23 [(16, model.toNat), (18, epoch.toNat), (19, 0)] = some (t, u) →
      (u.shardOf model.toNat epoch.toNat).isSome = true →
      (u.ctxs.filter (fun x => x.2.isRes && x.2.model = model.toNat)).any (fun x => (u.epochsHeld x.1 x.2).contains epoch.toNat) = false →
      ∃ v, exec (.shardEvict h model epoch 0) s = .next (State.done v t stOk) ∧
        v.enc.dir = u.enc.dir.filter (fun d => !(d.model = model.toNat && d.epoch = epoch.toNat)) ∧
        v.enc.shards = u.enc.shards.filter (fun k => !(k.model = model.toNat && k.epoch = epoch.toNat)) ∧
        v.mem = (u.setDir (u.enc.dir.filter (fun d => !(d.model = model.toNat && d.epoch = epoch.toNat)))).mem) ∧
    (∀ (model : BitVec 16) (epoch mode : BitVec 8), s.started h 0x23 [(16, model.toNat), (18, epoch.toNat), (19, mode.toNat)] = some (t, u) →
      (mode = 1 ∨ mode = 2) → (u.shardOf model.toNat epoch.toNat).isSome = true → (∀ x ∈ u.ctxs, x.2.isRes = true → x.2.model ≠ model.toNat) →
      (mode = 1 → u.slowerSize ≠ 0) → ∃ v o, exec (.shardEvict h model epoch mode) s = .next v ∧ v.enc.ops = u.enc.ops ++ [o] ∧
        o.phase = (if mode = 1 then .copyOut else .copyIn) ∧ o.model = model.toNat ∧ o.epoch = epoch.toNat ∧ v.enc.dir = u.enc.dir ∧ v.mem = u.mem) ∧
    (∀ (o : EncOp) (rest : List EncOp) (l : List DirEntry) (plan : Option (List (Nat × DirEntry))), s.stopped = false → s.enc.ops = o :: rest →
      (o.phase = .copyOut ∨ o.phase = .copyIn) → l = (s.entriesOf o.model o.epoch).filter (fun d => d.slower ≠ decide (o.phase = .copyOut)) →
      plan = (if o.phase = .copyOut then movePlan s.fitSlower 16 s.slowerUsed l else movePlan fitStore 0 (storeUsed s.enc.dir) l) →
      (∀ x ∈ s.ctxs, x.2.isRes = true → x.2.model ≠ o.model) → s.vcl.st = .up → (o.phase = .copyOut → s.enc.salt.toNat + l.length ≤ 0xFFFFFFFF) →
      (plan = none → exec (.tierMoveDone true) s = .next (s.encFail o 2 0x0603 stNoResource)) ∧
      (∀ (places : List (Nat × DirEntry)) (w : State), plan = some places →
        moveAll (if o.phase = .copyOut then State.copyOut else State.copyIn) places s = (true, w) →
        ∃ v, exec (.tierMoveDone true) s = .next (State.encDone v o stOk) ∧ v.mem = w.mem ∧ v.enc.dir = w.enc.dir ∧ v.enc.salt = w.enc.salt))) ∧
  (∀ (s u : State) (o : EncOp) (rest : List EncOp) (errs : List LineErr) (ok : Bool), s.stopped = false → s.enc.ops = o :: rest → o.phase = .pass2 →
    s.readHbm errs stagingBase (o.ctLen - 16) = (ok, u) → u.stopped = false →
    (ok = false → exec (.ingestPass2End errs) s = .next ((u.clearStaging o).encFail o 0 0x0601 stIntegrity)) ∧
    (∀ (placed : List (Nat × StoreItem)) (dir : List DirEntry), ok = true → (tableItems o ++ segmentItems o).map (·.check) = o.checks →
      placeItems (storeUsed s.enc.dir) (tableItems o ++ segmentItems o) = some placed →
      placed.foldl (fun d x => d.bind (fun d => (u.clearStaging o).dirInsert d (itemEntry x))) (some s.enc.dir) = some dir →
      ∃ v, exec (.ingestPass2End errs) s = .next v ∧ v.enc.dir = dir ∧
        (∃ k ∈ v.enc.shards, k = ⟨o.model, o.epoch, o.n, o.k, o.retain, false⟩) ∧ v.enc.ops = rest))

/-! # The rim (04_rim) -/

/-- RIM_FORM accepted puts the partition in the forming state with the parameters of its buffer or their defaults; hellos of the wrong
member end it with INVALID, the hello of the last link forms the rim, the timeout ends it with TIMEOUT (R95, R96); goodbye and RIM_DISSOLVE (R98). -/
def Obligations.RimFormationCompletes : Prop :=
  ∀ s : State,
    (∀ (h : CmdHdr) (buf : Bytes) (a : RimFormArgs) (u : State) (t : Taken) (p : Fin 4), s.started h 0x11 [] = some (t, u) → a = rimFormArgs buf →
      p = Fin.ofNat 4 a.part.toNat → u.rimBad p a t (u.rimOf p t a) = false → u.rims[p].phase = .none →
      (∀ x ∈ u.ctxs, x.2.part = p → ∀ m, u.model? x.2.model = some m → a.n.toNat * m.nfmt ≤ 128) →
      exec (.rimForm h buf) s = .next (State.rimRecord { u with rims := u.rims.set p (u.rimOf p t a) } p)) ∧
    (∀ p : Fin 4, s.stopped = false → s.rims[p].phase = .forming → (∀ h ∈ s.twin.hold, h.1 ≠ p) → exec (.rimFormTimeout p) s = .next (s.formFails p stTimeout 0)) ∧
    (∀ (p : Fin 4) (ccw : Bool) (l : Fin 20), s.stopped = false → (s.rims[p].phase = .forming ∨ s.rims[p].phase = .formed) →
      ∃ t, exec (.rimHelloTimer p) s = .next t ∧ t.rims = s.rims ∧ t.mem = s.mem ∧
        (l ∈ s.rims[p].outLinks false → s.links[l].st = .up →
          .rim l.val (rimFrame 2 (helloBody (s.portIndex p false).1 p.val s.rims[p].digest)) ∈ t.out) ∧
        (l ∈ s.rims[p].outLinks ccw → s.links[l].st = .up →
          .rim l.val (rimFrame 2 (helloBody (s.portIndex p ccw).1 p.val s.rims[p].digest)) ∈ t.out)) ∧
    (∀ (l : Fin 20) (frame : Bytes) (p : Fin 4) (ccwPort : Bool) (u : State), s.rimPort l.val = some (p, ccwPort) → s.stopped = false →
      s.links[l].st = .up → u = s.rxDrain l 5 frame.length →
      (frameOk frame = false → exec (.rimHelloFrame l frame) s = .next (u.frameBad p)) ∧
      (frameOk frame = true → frameType frame = 2 →
        (leAt (frameBody frame) 0 1 = (s.portIndex p ccwPort).2 → leAt (frameBody frame) 4 4 = s.rims[p].digest.toNat → s.rims[p].phase = .forming →
          exec (.rimHelloFrame l frame) s = .next (
            let v := u.modRim p (fun r => { r with heard := s.rims[p].heard ||| (1#18 <<< l.val) })
            if v.heardAll (s.rims[p].heard ||| (1#18 <<< l.val)) [s.rims[p].cw, s.rims[p].ccw] then v.rimFormed p else v)) ∧
        ((leAt (frameBody frame) 0 1 ≠ (s.portIndex p ccwPort).2 ∨ leAt (frameBody frame) 4 4 ≠ s.rims[p].digest.toNat) →
          (s.rims[p].phase = .forming → (∀ h ∈ s.twin.hold, h.1 ≠ p) → exec (.rimHelloFrame l frame) s = .next ((u.neighbour p).formFails p stInvalid 0x0408)) ∧
          (s.rims[p].phase = .formed → exec (.rimHelloFrame l frame) s = .next (u.neighbour p)))) ∧
      (frameOk frame = true → frameType frame = 3 →
        (s.rims[p].phase = .forming → exec (.rimGoodbyeFrame l frame) s = .next ((u.neighbour p).formFails p stInvalid 0x0408)) ∧
        (s.rims[p].phase = .formed → exec (.rimGoodbyeFrame l frame) s = .next (u.goodbye p)))) ∧
    (∀ (h : CmdHdr) (part : BitVec 8) (u : State) (t : Taken) (p : Fin 4), s.started h 0x12 [(16, part.toNat)] = some (t, u) → p = Fin.ofNat 4 part.toNat →
      u.partIs part.toNat = true → u.rims[p].phase ≠ .none → (∀ x ∈ u.ctxs, x.2.part = p → x.2.isRes = false) →
      ∃ v, exec (.rimDissolve h part) s = .next (State.done ((State.noRim v p).pairRecord "rim dissolved" [p.val]) t stOk) ∧
        v.rims = u.rims ∧ v.mem = u.mem)

/-- A plait frame is forwarded and landed, one held goes on when its link is free, the next plait in order is injected with its mark, a
segment read from the slower tier is kept for injection, and a repair ingest is used or given up (R86, R101 to R103, R115, R116, R255). -/
def Obligations.PlaitsAreLandedAndSent : Prop :=
  ∀ (s : State) (p : Fin 4), s.stopped = false →
    (∀ (l : Fin 20) (frame : Bytes) (busy : Nat) (ccwPort : Bool) (u : State), s.rimPort l.val = some (p, ccwPort) → s.links[l].st = .up →
      u = (s.rxDrain l 5 frame.length).count blkRIM (if ccwPort then 0x0268 else 0x0270) busy p.val →
      (frameOk frame = false → exec (.plaitFrame l frame busy .ok) s = .next (u.frameBad p)) ∧
      (frameOk frame = true → frameType frame = 1 → exec (.plaitFrame l frame busy .ok) s = .next
        ((u.count blkRIM (if ccwPort then 0x0248 else 0x0250) (frameBody frame).length p.val).plaitArrives p (!ccwPort) (frameBody frame)))) ∧
    (∀ (b : Bytes) (held ccw ring mine seat ref : Bool) (cover : Bool × Bool) (v w : State), s.landRoom p b.length = some ring → checkPasses b = true →
      s.judge p b ccw cover = ((mine, seat), ref, v) → (mine || seat) = true →
      w = (if ring then (v.writeHbm (v.ringBase p + v.ringPlace p b.length) b).2 else v) →
      (ring = true → (v.writeHbm (v.ringBase p + v.ringPlace p b.length) b).1 = true) →
      (s.land p b held ccw cover).rims[p].landed = s.rims[p].landed ++ [⟨b, held, ccw, true, ref, ring, mine, seat, v.ringPlace p b.length⟩] ∧
        (s.land p b held ccw cover).mem = w.mem ∧ v.mem = s.mem) ∧
    (∀ (idx : Nat) (l : Fin 20) (off : Nat) (d : Landed) (errs : List LineErr) (u : State), s.rims[p].landed[idx]? = some d → d.forward = true →
      l ∈ s.rims[p].outLinks d.ccw → s.rimLinkOn l = true → s.readLanded p errs d = (true, u) →
      ∃ (t : State) (sent : List OutMsg), exec (.forwardResume p idx l off ⟨.ok, errs⟩) s = .next t ∧ t.out = u.out ++ .rim l.val (rimFrame 1 d.bytes) :: sent ∧
        t.mem = u.mem ∧
        t.rims[p].landed = (if d.kept then u.rims[p].landed.set idx { d with forward := false } else u.rims[p].landed.eraseIdx idx)) ∧
    (∀ (errs : List LineErr) (id part : Nat) (st : Word) (run : Run) (key : Nat) (b : Bytes) (u v : State), s.rims[p].phase = .formed →
      s.rims[p].repairs = [] → s.nextSeg p = some (id, st, run, s.rims[p].own, key) →
      (List.range 16).find? (fun i => !s.rims[p].injected.contains (itemIdent st s.rims[p].own key i)) = some part →
      s.fetch p errs s.rims[p].own key part = (.got b, u) → (hdrOf b).kind ≠ 1 →
      u.injectOut p b (fld st 0 16) (u.runSlot run (hdrOf b).model s.rims[p].own (hdrOf b).format).1
        (u.runSlot run (hdrOf b).model s.rims[p].own (hdrOf b).format).2 (s.rims[p].mended.contains key) (u.hopsOut p s.rims[p].own (hdrOf b).p) = some v →
      ∃ t, exec (.plaitInject p errs .ok) s = .next t ∧ itemIdent st s.rims[p].own key part ∈ t.rims[p].injected ∧ t.out = v.out ∧ t.mem = v.mem) ∧
    (∀ owner key a n salt : Nat, s.slowWanted p = some (owner, key) → s.slowPlace p owner key = some (a, n, salt) → s.vcl.st = .up → s.heldOut = [] →
      (∀ bs : Bytes, s.tierOpen key salt a n = some bs →
        (owner = s.rims[p].own → ∀ d ∈ s.enc.dir, d.key = key → d.slower = true → segCheck (splitSeg (d.countM1 + 1) bs) = d.check) → ∃ t, exec (.slowerTierReadDone p true .ok) s = .next t ∧
        t.rims[p].slowSeg = some (key, bs) ∧ t.mem = s.mem ∧ t.enc = s.enc) ∧
      (s.tierOpen key salt a n = none → exec (.slowerTierReadDone p true .ok) s = .next ((s.hostMoved false (s.tierAddr a) (n + 16) 1).segFails p owner key)) ∧
      exec (.slowerTierReadDone p false .ok) s = .next (s.hostFailed.segFails p owner key)) ∧
    (∀ (key : Nat) (rest : List Nat) (buf : Bytes), s.rims[p].fixing = key :: rest →
      (∀ (d : DirEntry) (sh : Shard) (i : StoreItem) (a : Nat), s.enc.dir.find? (fun d => d.key = key) = some d →
        s.shardOf (key % 2 ^ 16) (key / 2 ^ 50 % 2 ^ 8) = some sh → s.remake sh key buf = some i →
        freePlace storeBase storeSize 512 (storeUsed s.enc.dir) d.length = some a → i.check = d.check → i.bytes.length = d.length →
        ∃ t, exec (.repairIngestDone p (some ⟨buf⟩)) s = .next t ∧ t.rims[p].mended = s.rims[p].mended ++ [key] ∧ t.rims[p].fixing = rest ∧
          t.enc.dir = s.enc.dir.map (fun e => if e.key = d.key then { d with slower := false, location := a, salt := 0 } else e)) ∧
      (∃ t, exec (.repairIngestDone p none) s = .next t ∧ t.rims[p].failed = s.rims[p].failed ++ [key] ∧ t.rims[p].fixing = rest ∧
        t.enc = s.enc ∧ t.mem = s.mem))

/-- The gap timer of an incomplete pair sets its sticky bit and asks again, the shard deadline faults the context, and a table that does not
come ends its command with TIMEOUT (R113, R114, R458).
The messages between the members' Obinha instances, each on the member that takes it (R97, R73, R107, R117 to R120, R336, R346, R458). -/
def Obligations.RimTimersAndMessagesComplete : Prop :=
  (∀ (s : State) (p : Fin 4),
    (∀ (owner layer id m : Nat) (x : Ctx) (st : Word), s.rimStep p = some (id, x, m, st) → s.timersRun p = true →
      s.rims[p].timers.contains (owner, layer) = true → s.pairDone id x st owner layer = false →
      (∃ t, exec (.gapTimerExpiry p owner layer) s = .next t ∧ bit (t.reg blkRIM 0x0240 p.val) 1 = true ∧ s.sameMemory t ∧ t.cores = s.cores ∧
        ((s.rims[p].gapSent.any (fun a => a.owner = owner && a.layer = layer) = false) → ∃ a ∈ t.rims[p].gapSent, a.owner = owner ∧ a.layer = layer ∧
          a.at_ = s.podTime)) ∧
      exec (.shardDeadlineExpiry p owner layer) s = .next ((s.stick blkRIM 0x0240 16 p.val).faultCtx id blkRIM 0x0404)) ∧
    (∀ (h : CmdHdr) (t : Taken), s.taken.find? (fun t => t.ring = h.ring && t.cmdId = h.cmdId &&
        s.rims.toList.any (fun r => r.waiting.any (fun w => w.1 = t.id))) = some t →
      exec (.combinedTableTimeout h) s = .next ((forAll (List.finRange 4) (fun p s => s.endAwait p t.id) s).done t stTimeout))) ∧
  (∀ (s : State) (p : Fin 4) (r : Rim), s.stopped = false → r = s.rims[p] → r.phase = .formed →
    (∀ k : Nat, r.toLead k = true →
      (∀ (ctx : BitVec 16) (epoch : BitVec 8) (first : Word) (x : Ctx) table, s.ctx? ctx.toNat = some x →
        exec (.rimCtrl p (.runReport ctx epoch first k table)) s = .next (State.settleRim ((s.modRim p (fun r =>
          { r.noteTab ⟨x.model, epoch.toNat, k, table⟩ with runReps := r.runReps.filter (fun e => e ≠ ((ctx.toNat, epoch.toNat, first), k))
              ++ [((ctx.toNat, epoch.toNat, first), k)] })).leadRun p) p)) ∧
      (∀ (ctx : BitVec 16) (epoch : BitVec 8) (step : Word), r.flipOf ctx.toNat = none →
        (∀ x, s.ctx? ctx.toNat = some x → stepLe (step - 1) x.highest = true →
          exec (.rimCtrl p (.flipReport ctx epoch step k)) s = .next (s.tell p k (.flipVerdict (BitVec.ofNat 16 ctx.toNat) step false))) ∧
        ((∀ x, s.ctx? ctx.toNat = some x → stepLe (step - 1) x.highest = false) →
          exec (.rimCtrl p (.flipReport ctx epoch step k)) s = .next (s.modRim p (fun r => { r with
            early := r.early.filter (fun e => !(e.1 = ctx.toNat && e.2.2.2 = k)) ++ [(ctx.toNat, epoch.toNat, step, k)] })))) ∧
      (∀ (ctx : BitVec 16) (epoch : BitVec 8) (f : Flip), r.flipOf ctx.toNat = some f → f.epoch = epoch.toNat → f.verdict = none →
        exec (.rimCtrl p (.flipReport ctx epoch f.step k)) s = .next (s.modRim p (fun r => { r with flips := r.flips.map (fun (g : Flip) =>
          if g.ctx = ctx.toNat then { g with reports := g.reports.filter (· ≠ k) ++ [k] } else g) }))) ∧
      (∀ (ctx : BitVec 16) (step : Word) (n : Nat), exec (.rimCtrl p (.pinReport ctx step k n)) s = .next ((s.modRim p (fun r => { r with
        pins := r.pins.filter (fun e => !(e.1 = ctx.toNat && e.2.1 = step && e.2.2.1 = k)) ++ [(ctx.toNat, step, k, n)] })).leadPins p)) ∧
      (∀ (ctx : BitVec 16) (step : Word) (inc : Option Nat) (reps : List (Nat × Word)), s.parts[p].switch = .awaiting inc reps →
        s.parts[p].running = some ctx.toNat → exec (.rimCtrl p (.switchReport ctx k step)) s = .next (State.passH ((s.modPart p (fun q => { q with
          switch := .awaiting inc (reps.filter (fun e => e.1 ≠ k) ++ [(k, step)]) })).leadSwitch p) p)) ∧
      (∀ (model : BitVec 16) (epoch : BitVec 8) layers, exec (.rimCtrl p (.tableReport model epoch k layers)) s = .next
        ((s.noteTable p ⟨model.toNat, epoch.toNat, k, layers⟩).retryTables p)) ∧
      (∀ (model : BitVec 16) (epoch : BitVec 8), exec (.rimCtrl p (.tableRequest model epoch k)) s = .next
        ((s.modRim p (fun r => { r with tabAsked := r.tabAsked ++ [(model.toNat, epoch.toNat, k)] })).answerTables p)) ∧
      (∀ blocked flying run, exec (.rimCtrl p (.swapReport k blocked flying run)) s = .next ((s.modPart p (fun q => { q with
        swapReps := q.swapReps.filter (fun e => e.1 ≠ k) ++ [(k, flying, run)] })).leadSwap p))) ∧
    (r.leads = false →
      (∀ (ctx : BitVec 16) (epoch : BitVec 8) (first : Word) (half : Bool) gens table (u : Run), r.run = some u → u.sent = true → u.ready = false →
        exec (.rimCtrl p (.runMap ctx epoch first half gens table)) s = .next
          ((s.applyRunMap p (ctx.toNat, epoch.toNat, first) half gens table).settleRim p)) ∧
      (∀ (ctx : BitVec 16) (step : Word) (commit : Bool), exec (.rimCtrl p (.flipVerdict ctx step commit)) s = .next
        (s.applyFlip p ctx.toNat step commit)) ∧
      (∀ (ctx : BitVec 16) (step : Word) (dual : Bool), r.duals.any (fun d => d.1 = ctx.toNat && d.2.1 = step) = false →
        exec (.rimCtrl p (.pinVerdict ctx step dual)) s = .next (s.modRim p (fun r => { r with duals := r.duals ++ [(ctx.toNat, step, dual)] }))) ∧
      (∀ (ctx : BitVec 16) (step : Word) (inc : Option Nat) (reps : List (Nat × Word)), s.parts[p].switch = .awaiting inc reps →
        s.parts[p].running = some ctx.toNat →
        exec (.rimCtrl p (.switchVerdict ctx step)) s = .next ((s.modPart p (fun q => { q with switch := .through inc step })).passH p)) ∧
      (∀ (model : BitVec 16) (epoch : BitVec 8) layers, exec (.rimCtrl p (.combinedTable model epoch layers)) s = .next ((s.modRim p (fun r => { r with
        tables := r.tables.filter (fun t => t.1 ≠ (model.toNat, epoch.toNat)) ++ [((model.toNat, epoch.toNat), layers)] })).retryTables p)) ∧
      (∀ (inc : BitVec 16) (victim : Option (BitVec 16)) (at_ : Word), (s.swapPlan inc.toNat (victim.map (·.toNat))).isSome = true →
        exec (.rimCtrl p (.swapChoice inc victim at_)) s = .next (s.modPart p (fun q => { q with
          swapAt := some (inc.toNat, victim.map (·.toNat), at_) })))) ∧
    exec (.rimCtrl p .swapFail) s = .next (s.swapFails p)) ∧
  (∀ (s : State) (p : Fin 4) (model : BitVec 16) (epoch : BitVec 8) (k : Nat) layers, s.stopped = false → s.rims[p].phase = .none →
    exec (.rimCtrl p (.tableReport model epoch k layers)) s = .next (s.modRim p (fun r => r.noteTab ⟨model.toNat, epoch.toNat, k, layers⟩)) ∧
    exec (.rimCtrl p (.tableRequest model epoch k)) s = .next (s.modRim p (fun r => { r with tabAsked := r.tabAsked ++ [(model.toNat, epoch.toNat, k)] })))

/-! # Contexts and scheduling (12_contexts_scheduling) -/

/-- The context commands accepted: creation with its fields, destruction at once or after the work in progress, residency, eviction, a
program image, and the checkpoint interval (R320, R330, R332, R239, R385).
A context destroyed is listed no more, its number is free, and no core runs it (R320). -/
def Obligations.ContextCommandsComplete : Prop :=
  (∀ (h : CmdHdr) (s u : State) (t : Taken),
    (∀ a : CtxArgs, s.started h 0x30 [(16, a.ctx.toNat), (18, a.part.toNat), (19, a.cls.toNat), (20, a.model.toNat), (22, a.epoch.toNat),
        (24, a.attr.toNat), (32, a.seed.toNat), (40, a.startStep.toNat)] = some (t, u) →
      a.ctx.toNat ≤ 1023 → u.ctx? a.ctx.toNat = none → a.cls.toNat ≤ 1 → a.part.toNat ≤ 3 → u.parts[Fin.ofNat 4 a.part.toNat].cores ≠ 0 →
      (a.model ≠ 0xFFFF → (u.model? a.model.toNat).isSome = true ∧ (u.shardOf a.model.toNat a.epoch.toNat).isSome = true) →
      a.buf.length = t.bufLen.toNat → ctxRegions a ≠ [] → (∀ r ∈ ctxRegions a, regionOk r = true) → u.paired = false →
      (u.rims[Fin.ofNat 4 a.part.toNat].phase ≠ .none → u.slotsFit (Fin.ofNat 4 a.part.toNat) a.model.toNat = true) →
      exec (.ctxCreate h a) s = .next ((u.setCtx a.ctx.toNat (newCtx a)).done t stOk (b2n (exactGranted a)))) ∧
    (∀ (ctx : BitVec 16) (x : Ctx), s.started h 0x31 [(16, ctx.toNat)] = some (t, u) → u.ctx? ctx.toNat = some x →
      (x.working = true → exec (.ctxDestroy h ctx) s = .next u) ∧
      (x.working = false → exec (.ctxDestroy h ctx) s = .next (u.destroyCtx t.id ctx.toNat x))) ∧
    (∀ (ctx : BitVec 16) (x : Ctx), s.waitingCmd 0x31 ctx.toNat = some t → s.ctx? ctx.toNat = some x → x.working = false →
      exec (.ctxDestroyResume ctx) s = .next (s.destroyCtx t.id ctx.toNat x)) ∧
    (∀ (ctx : BitVec 16) (imgOk : Bool) (x y : Ctx) (g : Program), s.started h 0x32 [(16, ctx.toNat)] = some (t, u) → u.ctx? ctx.toNat = some x →
      x.st = .created → x.prog.isSome = true → (x.model ≠ 0xFFFF → (u.shardOf x.model x.epoch).isSome = true) → u.podClash x = false →
      u.resideTables ctx.toNat x = [] → u.residePlan ctx.toNat x = some (y, g) → (x.imgAt = .host → imgOk = true ∧ u.vcl.st = .up) →
      exec (.ctxReside h ctx imgOk) s = .next ((u.makeResident ctx.toNat y g).done t stOk)) ∧
    (∀ (ctx : BitVec 16) (x : Ctx), s.started h 0x33 [(16, ctx.toNat), (18, 0)] = some (t, u) → u.ctx? ctx.toNat = some x → t.bufLen = 0 → t.buf = 0 →
      x.isRes = true → (x.working = true → exec (.ctxEvict h ctx 0) s = .next u) ∧
      (x.working = false → exec (.ctxEvict h ctx 0) s = .next (u.evictFor t ctx.toNat x true))) ∧
    (∀ (ctx : BitVec 16) (x : Ctx), s.started h 0x33 [(16, ctx.toNat), (18, 1)] = some (t, u) → u.ctx? ctx.toNat = some x → x.isRes = true →
      imageSize u.parts[x.part].cores ≤ t.bufLen.toNat → exec (.ctxEvict h ctx 1) s = .next u) ∧
    (∀ (ctx : BitVec 16) (writeOk : Bool) (x : Ctx), s.waitingCmd 0x33 ctx.toNat = some t → s.ctx? ctx.toNat = some x → x.working = false →
      x.isRes = true → exec (.ctxEvictResume ctx writeOk) s = .next (s.evictFor t ctx.toNat x writeOk)) ∧
    (∀ (ctx : BitVec 16) (image : Bytes) (x : Ctx) (g : Program) (v : State), s.started h 0x34 [(16, ctx.toNat)] = some (t, u) →
      u.ctx? ctx.toNat = some x → x.st = .created → parseProgram image = some g → image.length = t.bufLen.toNat →
      v = { u with syn := { u.syn with ghq := u.syn.ghq.map (fun q => if q.owner = some ctx.toNat then {} else q) } } → g.ghqs ≤ v.freeGhqs.length →
      exec (.programLoad h ctx image) s = .next ((((forAll (v.freeGhqs.take g.ghqs) (fun q s => s.setGhq q { owner := some ctx.toNat, entries := [] }) v).setCtx ctx.toNat
        { x with prog := some g, ghqs := v.freeGhqs.take g.ghqs }).writeHbm (progAt ctx.toNat) image).2.programRecord ctx.toNat |>.done t stOk)) ∧
    (∀ (ctx interval : BitVec 16) (x : Ctx), s.started h 0x62 [(16, ctx.toNat), (18, interval.toNat)] = some (t, u) → u.ctx? ctx.toNat = some x →
      x.st ≠ .faulted → u.paired = true → ckptBytes x.regions ≤ ckptSize →
      exec (.checkpointCfg h ctx interval) s = .next ((u.setCtx ctx.toNat { x with interval := interval }).done t stOk))) ∧
  (∀ (s : State) (k id : Nat) (x : Ctx), s.ctx? id = some x →
    (s.destroyCtx k id x).ctx? id = none ∧ ∀ c : Fin 16, (s.destroyCtx k id x).ctxOn c ≠ some id)

/-- EPOCH_FLIP, STEP_SUBMIT and TASK_SUBMIT accepted join the flips or the context's queue; a step of a faulted context completes with
CONTEXT_FAULT and the cause (R117, R320, R347, R350). -/
def Obligations.WorkCommandsComplete : Prop :=
  ∀ (h : CmdHdr) (s u : State) (t : Taken),
    (∀ (a : FlipArgs) (x : Ctx), s.started h 0x25 [(16, a.ctx.toNat), (18, a.epoch.toNat), (19, a.pin.toNat), (24, a.step.toNat)] = some (t, u) →
      u.ctx? a.ctx.toNat = some x → x.st ≠ .faulted → x.model ≠ 0xFFFF → flipTooEarly x a.step = false →
      (u.shardOf x.model a.epoch.toNat).isSome = true → u.rims[x.part].flipOf a.ctx.toNat = none →
      (u.circulates x = true → u.tablesMissing x.part ((x.model, (a.epoch.toNat :: u.epochsHeld a.ctx.toNat x).eraseDups) ::
          u.residentWeights x.part a.ctx.toNat) = [] ∧
        u.landingFits x.part a.ctx.toNat (x.model, (a.epoch.toNat :: u.epochsHeld a.ctx.toNat x).eraseDups) x.isRes = true) →
      ∃ v f, exec (.epochFlip h a) s = .next v ∧ v.rims[x.part].flips = u.rims[x.part].flips ++ [f] ∧ f.ctx = a.ctx.toNat ∧ f.epoch = a.epoch.toNat ∧
        f.step = a.step ∧ f.cmd = t.id ∧ f.pin = (if a.pin.toNat = 0 then 8 else a.pin.toNat) ∧ f.verdict = none ∧ v.taken = u.taken ∧ u.sameMemory v ∧
        v.ctxs = u.ctxs) ∧
    (∀ (a : StepArgs) (x y : Ctx), s.started h 0x40 [(16, a.ctx.toNat), (18, a.rows.toNat), (20, a.pinned.toNat), (22, a.sflags.toNat),
        (24, a.client.toNat), (32, a.step.toNat), (40, a.argblk.toNat), (48, a.switchTime.toNat)] = some (t, u) →
      u.ctx? a.ctx.toNat = some x → a.rows.toNat ≤ 256 → a.pinned.toNat ≤ a.rows.toNat → a.client.toNat ≤ 4095 →
      (x.st = .faulted → ∀ w : Work, w =
        { cmd := t.id, task := false, step := a.step, rows := a.rows.toNat, pinned := a.pinned.toNat
          client := a.client.toNat, argblk := a.argblk, st := .queued, core := 0
          late := bit a.sflags 0 && decide (0 < (u.podTime - a.switchTime).toInt), lost := false, swapped := false, expired := false } →
        exec (.stepSubmit h a) s = .next (State.finishWork (u.submitted a.client.toNat) w stContextFault a.step.toNat 0 x.cause)) ∧
      (x.st ≠ .faulted → x.model ≠ 0xFFFF → u.rims[x.part].phase = .formed → a.step = x.nextStep →
        (bit a.sflags 0 = true → u.parts[x.part].mode = .demand) →
        (∀ w : Work, w = { cmd := t.id, task := false, step := a.step
                           rows := a.rows.toNat, pinned := a.pinned.toNat
                           client := a.client.toNat, argblk := a.argblk, st := .queued, core := 0
                           late := bit a.sflags 0 && decide (0 < (u.podTime - a.switchTime).toInt), lost := false, swapped := false
                           expired := false } →
          y = { x with nextStep := x.nextStep + 1, queue := x.queue ++ [w]
                       asks := x.asks ++ (if bit a.sflags 0 then [(t.id, a.switchTime, w.late)] else []) } →
          exec (.stepSubmit h a) s = .next (
            let v := ((u.setCtx a.ctx.toNat y).submitted a.client.toNat).reportPins a.ctx.toNat y a.step a.pinned.toNat
            if bit a.sflags 0 && u.isTime a.switchTime then v.serveRequest x.part else v)))) ∧
    (∀ (a : TaskArgs) (x : Ctx), s.started h 0x41 [(16, a.ctx.toNat), (24, a.client.toNat), (40, a.argblk.toNat)] = some (t, u) →
      u.ctx? a.ctx.toNat = some x → a.client.toNat ≤ 4095 → x.st ≠ .faulted → x.model = 0xFFFF → x.prog.isSome = true →
      ∃ w : Work, exec (.taskSubmit h a) s = .next ((u.setCtx a.ctx.toNat { x with queue := x.queue ++ [w] }).submitted a.client.toNat) ∧
        w.cmd = t.id ∧ w.task = true ∧ w.argblk = a.argblk ∧ w.client = a.client.toNat ∧ w.st = .queued)

/-- SCHED_TABLE_LOAD, SCHED_MODE and its effect; the next slot begins at its start (R340 to R342). -/
def Obligations.SchedulesComplete : Prop :=
  ∀ (s : State) (p : Fin 4),
    (∀ (h : CmdHdr) (part : BitVec 8) (buf : Bytes) (a : SchedTable) (u : State) (t : Taken), s.started h 0x42 [(16, part.toNat)] = some (t, u) →
      a = schedTableOf buf → p = Fin.ofNat 4 part.toNat → u.partIs part.toNat = true → t.bufLen.toNat = 16 + 8 * a.slots.toNat → u.tableOk p a = true →
      u.parts[p].mode = .demand → u.parts[p].change = none →
      exec (.schedTableLoad h part buf) s = .next ((u.modPart p (fun q => { q with table := some a })).done t stOk)) ∧
    (∀ (h : CmdHdr) (part mode : BitVec 8) (start : Word) (u : State) (t : Taken), s.started h 0x43 [(16, part.toNat), (17, mode.toNat), (24, start.toNat)] =
        some (t, u) → p = Fin.ofNat 4 part.toNat → u.partIs part.toNat = true → mode.toNat ≤ 1 → 10000 ≤ (start - u.podTime).toInt →
      (mode = 1 → u.parts[p].table.isSome = true) →
      exec (.schedMode h part mode start) s = .next (u.modPart p (fun q => { q with change := some ⟨decide (mode = 1), start, t.id⟩ }))) ∧
    (∀ c : ModeChange, s.stopped = false → s.parts[p].change = some c → s.isTime c.start = true →
      exec (.schedModeEffect p) s = .next (
        let v := (s.modPart p (fun q => { q with mode := if c.cyclic then .cyclic else .demand, change := none })).complete c.cmd stOk
        if c.cyclic then v.beginSlot p 0 c.start else (if s.parts[p].mode = .cyclic then v.loseTiming p else v).serveRequest p)) ∧
    (∀ a : SchedTable, s.stopped = false → s.parts[p].mode = .cyclic → s.parts[p].table = some a →
      (a.tab.length ≤ s.parts[p].slot + 1 → s.isTime (s.parts[p].period0 + BitVec.ofNat 64 (1000 * a.period.toNat)) = true →
        exec (.schedSlotStart p) s = .next (s.beginSlot p 0 (s.parts[p].period0 + BitVec.ofNat 64 (1000 * a.period.toNat)))) ∧
      (∀ e : SchedEntry, a.tab[s.parts[p].slot + 1]? = some e → s.isTime (s.parts[p].period0 + BitVec.ofNat 64 (1000 * e.start.toNat)) = true →
        exec (.schedSlotStart p) s = .next (s.beginSlot p (s.parts[p].slot + 1) (s.parts[p].period0 + BitVec.ofNat 64 (1000 * e.start.toNat)))))

/-- A step is armed when its context runs, has none in flight and its verdicts are in; it completes when every core has halted and every
layer is finished; a side task takes a free core (R102, R334, R347). -/
def Obligations.StepsAndTasksComplete : Prop :=
  ∀ (s : State) (p : Fin 4), s.stopped = false →
    (∀ (id : Nat) (x : Ctx) (w : Work), s.pwr.entering = none → s.parts[p].running = some id → s.ctx? id = some x → x.oldest = some w →
      s.rims[p].phase = .formed → x.st = .running → x.armed = none → s.mayArm p id w.step = true → s.verdictsIn id x w.step = true →
      ((w.rows = 0 ∨ s.undrained (s.coresOf p) = []) → exec (.stepArm p) s = .next ((s.armStep p id x w).armGuest p id w.step)) ∧
      (w.rows ≠ 0 → s.undrained (s.coresOf p) ≠ [] → exec (.stepArm p) s = .next (s.callOff id (s.coresOf p)))) ∧
    (∀ (id : Nat) (x : Ctx) (w : Work) (step : Word) (v : State), s.parts[p].running = some id → s.ctx? id = some x → x.armed = some step →
      x.queue.find? (fun (w : Work) => !w.task && some w.step = x.armed) = some w → w.st = .running → s.coresHalted p = true → s.layersDone p = true →
      s.rims[p].phase = .formed → v = (s.clearPipes p).finishStep id x w →
      (∀ z ∈ v.ctxs, z.2.partner = some id → z.2.armed = none) → s.twin.seated = [] →
      exec (.stepComplete p) s = .next (State.progressDetach (State.settleRim
        ((v.modRim p (fun r => { r.dropStep x.model step with step := (v.ctx? id).elim step (·.cons) })).passH p) p))) ∧
    (∀ (c : Fin 16) (k : Nat × Ctx × Work), s.pwr.entering = none →
      (s.tasksIn p .preempted).findSome? (fun k => (((s.coresOf p).filter (fun c => !s.stepUses p c)).filter (fun c =>
        (s.cores[c].run.bind (·.task)).isNone) |>.find? (fun c => c.val = k.2.2.core)).map (fun c => (c, k))) = some (c, k) →
      exec (.taskStart p) s = .next (s.runTask c k.1 k.2.2)) ∧
    (∀ (c : Fin 16) (id : Nat) (x : Ctx) (w : Work) (rest : List (Nat × Ctx × Work)) (l : List (Fin 16)), s.pwr.entering = none →
      s.tasksIn p .preempted = [] → s.tasksIn p .queued = (id, x, w) :: rest →
      ((s.coresOf p).filter (fun c => !s.stepUses p c)).filter (fun c => (s.cores[c].run.bind (·.task)).isNone) = c :: l →
      s.undrained [c] = [] → exec (.taskStart p) s = .next (s.runTask c id w))

/-- Switch requests, the end of a switch in demand and in cyclic mode, and automatic swaps: the choice when all residents are blocked and the
swap at its instant (R335, R338, R342, R346). -/
def Obligations.SwitchesAndSwapsComplete : Prop :=
  ∀ (s : State) (p : Fin 4), s.stopped = false →
    (s.twin.detach = none → exec (.switchTimeReached p) s = .next (s.serveRequest p)) ∧
    (∀ inc : Option Nat, s.parts[p].switch = .moving inc → s.pwr.entering = none → s.drained p = true →
      ((s.parts[p].mode = .cyclic → s.isTime (s.parts[p].engineTime + 1) = true) → exec (.enginesStart p) s = .next (s.finishSwitch p inc)) ∧
      (s.parts[p].mode = .cyclic → s.podTime = s.parts[p].engineTime → exec (.cyclicEngineStart p) s = .next (s.finishSwitch p inc))) ∧
    (fld (s.reg blkCTL 0x0510 p.val) 0 20 ≠ 0 → s.parts[p].swapAt = none → s.runnables p ≠ [] → (∀ x ∈ s.residents p, s.ctxBlocked x.1 x.2 = true) →
      (s.rims[p].phase ≠ .formed → exec (.blockedGraceExpiry p) s = .next (s.chooseSwap p [(0,
        ((s.residents p).filter (fun x => x.2.armed.isSome)).map (fun x => BitVec.ofNat 16 x.1), (s.runnables p).map (fun x => BitVec.ofNat 16 x.1))])) ∧
      (s.rims[p].phase = .formed → s.rims[p].leads = false → ∃ m : Nat → RimMsg, exec (.blockedGraceExpiry p) s = .next (forAll (s.seats p) (fun k s => s.tell p s.rims[p].lead (m k)) s)) ∧
      (s.rims[p].phase = .formed → s.rims[p].leads = true → ∃ u, exec (.blockedGraceExpiry p) s = .next (State.leadSwap u p) ∧
        (∃ k ∈ u.parts[p].swapReps, k.1 = s.rims[p].own) ∧ u.rims = s.rims ∧ u.mem = s.mem)) ∧
    (∀ (inc : Nat) (victim : Option Nat) (at_ : Word) (imgOk : Bool) (u : State) (x : Ctx) (g : Program),
      s.parts[p].swapAt = some (inc, victim, at_) → s.isTime at_ = true → s.swapPlan inc victim = some (u, x, g) →
      (x.imgAt = .host → imgOk = true ∧ s.vcl.st = .up) →
      ∃ y v, exec (.autoSwapInstant p imgOk) s = .next v ∧ y.st = x.st ∧ y.queue.length = x.queue.length ∧
        v.ctxs = (u.makeResident inc y g).ctxs ∧ v.cores = (u.makeResident inc y g).cores ∧ v.parts[p].swapAt = none ∧
        bit (v.reg blkCTL 0x0520 p.val) 4 = true ∧ v.mem = (u.makeResident inc y g).mem)

/-! # The twin (14_reliability_twin) -/

/-- TWIN_PAIR and the twin's request, which pairs, is noted or is refused; their timeout; and TWIN_DETACH in its three modes (R382, R386, R395).
Heartbeats are sent every period and noted when they come; three missed ones, or a departure message, make the twin departed, which sets
its bit; seat holds are announced and end, and the lead role passes to the member that serves the lead member's seat (R97, R384, R389). -/
def Obligations.PairingAndDepartureComplete : Prop :=
  (∀ s : State,
    (∀ (h : CmdHdr) (serial : Word) (u : State) (t : Taken) (l : Fin 2), s.started h 0x60 [(24, serial.toNat)] = some (t, u) →
      serial ≠ 0 → serial ≠ u.fuses.serial → u.twinUp l = true →
      (∀ l, u.twinUp l = true → (u.links[18 + l.val].partner.map (·.serial)) = some serial) → u.twin.st = .unpaired → u.twin.request = none →
      ∃ v, exec (.twinPair h serial) s = .next v ∧ v.twin.st = .pairing ∧ v.twin.target = serial ∧ v.twin.cmd = some t.id ∧
        v.taken = u.taken ∧ v.mem = u.mem) ∧
    (∀ q : PairRequest, s.stopped = false → s.anyTwinUp = true →
      ((s.twin.st ≠ .pairing ∨ q.serial ≠ s.twin.target ∨ q.named ≠ s.fuses.serial) →
        exec (.pairingRequestRx q) s = .next { s with twin := { s.twin with request := some (q, s.podTime) } }) ∧
      (s.twin.st = .pairing → q.serial = s.twin.target → q.named = s.fuses.serial → q.shape.toNat = s.shape.toNat → s.ctxs = [] →
        147456 * q.ctxs.length + (((natRegions q.regions).filter (fun g => inHbm g.1 g.2)).map (·.2)).sum ≤ ckptSize →
        ∃ t, exec (.pairingRequestRx q) s = .next t ∧ t.twin.st = .paired ∧ t.twin.partner = s.twin.target ∧ t.twin.lastHb = s.podTime ∧
          t.twin.request = none ∧ t.twin.cmd = none) ∧
      (s.twin.st = .pairing → q.serial = s.twin.target → q.named = s.fuses.serial → q.shape.toNat ≠ s.shape.toNat →
        exec (.pairingRequestRx q) s = .next (State.pairFails { s with twin := { s.twin with request := none } } stInvalid))) ∧
    (s.stopped = false → s.twin.st = .pairing → ∃ t, exec .twinPairTimeout s = .next t ∧ t = s.pairFails stTimeout ∧
      (s.twin.seated = [] → t.twin.st = .unpaired)) ∧
    (∀ (h : CmdHdr) (u v : State) (t : Taken), s.started h 0x61 [(16, 0)] = some (t, u) → u.paired = true → u.twin.sending = [] →
      v = { u with twin := { u.twin with detach := some (0, t.id) } } →
      ((∀ p, u.rimBusy p = false) → exec (.twinDetach h 0) s = .next v.handOver) ∧
      (∀ p, u.rimBusy p = true → exec (.twinDetach h 0) s = .next v)) ∧
    (∀ (h : CmdHdr) (u : State) (t : Taken), s.started h 0x61 [(16, 1)] = some (t, u) → u.twin.st ≠ .unpaired → u.twin.seated = [] →
      ∃ v, exec (.twinDetach h 1) s = .next (State.done v t stOk) ∧ v.twin.st = .unpaired ∧ v.twin.ctxs = [] ∧ v.twin.shadow = [] ∧ v.twin.ckpts = [] ∧
        v.mem = u.mem ∧ v.ctxs = u.ctxs) ∧
    (∀ (h : CmdHdr) (u v : State) (t : Taken), s.started h 0x61 [(16, 2)] = some (t, u) → u.paired = true → u.twin.seated ≠ [] →
      v = { u with twin := { u.twin with detach := some (2, t.id) } } →
      ((∀ q ∈ u.twin.seated, u.rimBusy q.1 = false) → exec (.twinDetach h 2) s = .next v.handBack) ∧
      (∀ q ∈ u.twin.seated, u.rimBusy q.1 = true → exec (.twinDetach h 2) s = .next v))) ∧
  (∀ s : State, s.stopped = false →
    (s.paired = true →
      (∃ t, exec .heartbeatTimer s = .next t ∧ (∀ l, s.twinUp l = true → .ctl (18 + l.val) "heartbeat" [] ∈ t.out) ∧
        t.mem = s.mem ∧ t.twin = s.twin ∧ t.cores = s.cores) ∧
      (∀ l, s.twinUp l = true → ∃ t, exec (.heartbeatRx l) s = .next t ∧ t.twin.lastHb = s.podTime ∧ t.mem = s.mem ∧
        t.reg blkTWN 0x0230 = satAdd (s.reg blkTWN 0x0230) ((s.podTime - s.twin.lastHb).toNat / 100000 - 1)) ∧
      exec .heartbeatTimeout s = .next ((s.count blkTWN 0x0230 3).departed 1) ∧
      (s.anyTwinUp = true → exec .departureRx s = .next (s.departed 2)) ∧
      ((∀ p, s.coveredSeat p = none) →
        (∃ t, exec .heartbeatTimeout s = .next t ∧ t.twin.st = .departed ∧ t.twin.sending = [] ∧ bit (t.reg blkTWN 0x0210) 0 = true) ∧
        (s.anyTwinUp = true → ∃ t, exec .departureRx s = .next t ∧ t.twin.st = .departed ∧ bit (t.reg blkTWN 0x0210) 1 = true))) ∧
    (∀ b : Nat, (∀ p, s.coveredSeat p = none) → (s.departed b).twin.st = .departed ∧ (s.departed b).twin.sending = []) ∧
    (∀ (p : Fin 4) (index : BitVec 8) (src : BitVec 16) (u : State), s.rims[p].phase = .formed → index.toNat < s.rims[p].n →
      (s.twin.notices.any (fun t => t.1 = p && t.2.1 = index.toNat) = false → exec (.seatHoldNoticeRx p ⟨index, src⟩) s = .next { s with twin := { s.twin with
        notices := s.twin.notices ++ [(p, index.toNat, s.podTime + 250000000)] } }) ∧
      (s.twin.notices.any (fun t => t.1 = p && t.2.1 = index.toNat && !s.isTime t.2.2) = true → s.twin.detach = none →
        u = (if s.rims[p].lead = index.toNat ∧ s.rims[p].members.idxOf src < s.rims[p].n then s.leadPasses p (s.rims[p].members.idxOf src) else s) →
        exec (.seatHoldNoticeRx p ⟨index, src⟩) s = .next { u with
          twin := { u.twin with notices := u.twin.notices.filter (fun t => !(t.1 = p && t.2.1 = index.toNat)) } })) ∧
    (∀ (p : Fin 4) (u : State), s.twin.hold.any (fun t => t.1 = p) = true → s.rims[p].phase ≠ .forming →
      u = State.stick { s with twin := { s.twin with hold := s.twin.hold.filter (fun t => t.1 ≠ p) } } blkTWN 0x0210 4 →
      ((∀ x ∈ s.ctxs, x.2.part = p → x.2.st = .faulted ∨ u.isRimCtx x.2 = false) → exec (.seatHoldExpiry p) s = .next (u.record blkTWN .k 0x0902)) ∧
      (∀ y ∈ s.ctxs, y.2.part = p → y.2.st ≠ .faulted → u.isRimCtx y.2 = true → exec (.seatHoldExpiry p) s = .next (
        forAll ((s.ctxs.filter (fun x => x.2.part = p && x.2.st ≠ .faulted && u.isRimCtx x.2)).map (·.1)) (fun x s => s.faultCtx x blkTWN 0x0902) u))))

/-- What the twin keeps of its partner: records, shadows sealed in the slower tier, and checkpoints whose pages are copied from the incoming area
to their own addresses; the sender's side of a commit, and of a checkpoint found corrupt (R383, R385, R387). -/
def Obligations.TwinRecordsComplete : Prop :=
  ∀ s : State, s.stopped = false → s.paired = true →
    (s.anyTwinUp = true →
      (∀ a : CtxArgs, exec (.pairRecordRx (.ctx a)) s = .next { s with twin := { s.twin with ctxs := insertAt s.twin.ctxs a.ctx.toNat a } }) ∧
      (∀ (ctx : BitVec 16) (bs : Bytes), exec (.pairRecordRx (.program ctx bs)) s = .next { s with twin := { s.twin with
        progs := insertAt s.twin.progs ctx.toNat bs } }) ∧
      (∀ ctx : BitVec 16, exec (.pairRecordRx (.ctxGone ctx)) s = .next { s with twin := { s.twin with
        ctxs := erase s.twin.ctxs ctx.toNat, progs := erase s.twin.progs ctx.toNat
        ckpts := s.twin.ckpts.filter (fun c => c.ctx ≠ ctx.toNat || !c.held) } }) ∧
      (∀ (p : Fin 4) (members : List (BitVec 16)) (own : BitVec 8) (cw ccw : BitVec 18) (digest : BitVec 32), ∃ t,
        exec (.pairRecordRx (.rim p members own cw ccw digest)) s = .next t ∧
        t.twin.rims = s.twin.rims.filter (fun t => t.part ≠ p) ++ [⟨p, members, own.toNat, cw, ccw, digest⟩] ∧ t.mem = s.mem) ∧
      (∀ (key : Word) (stored : Bytes) (a : Nat), stored ≠ [] → s.slowerSize ≠ 0 → s.vcl.st = .up → s.heldOut = [] → s.enc.salt ≠ 0xFFFFFFFF →
        (s.twin.shadow.filter (fun e => e.1 ≠ key.toNat)).length < 2 ^ 20 →
        freePlace 0 s.slowerSize.toNat 64 (State.slowerUsed { s with twin := { s.twin with
          shadow := s.twin.shadow.filter (fun e => e.1 ≠ key.toNat) } }) (stored.length + 16) = some a →
        ∃ (t : State) (n : Nat), exec (.shadowRx key stored) s = .next t ∧ t.enc.salt = s.enc.salt + 1 ∧
          t.twin.shadow = insertAt (s.twin.shadow.filter (fun e => e.1 ≠ key.toNat)) key.toNat ⟨a, stored.length, n, s.enc.salt.toNat⟩ ∧
          t.mem = (s.pokeN (s.tierAddr a) (gcmSeal s.sec.storageKey (tierNonce key.toNat s.enc.salt.toNat) (toLe 8 key.toNat) stored)).mem) ∧
      (∀ key : Word, ∃ t, exec (.shadowRx key []) s = .next t ∧ t.twin.shadow = s.twin.shadow.filter (fun e => e.1 ≠ key.toNat) ∧
        { t with twin := s.twin } = s)) ∧
    (∀ (ctx : BitVec 16) (step : Word) sync queues (pages : List Nat) (a : CtxArgs) (v : State), look s.twin.ctxs ctx.toNat = some a →
      s.ctx? ctx.toNat = none → s.twin.sending.contains (ctx.toNat, step) = false → pagesFit (natRegions (ctxRegions a)) pages = true → s.readHbm [] ckptBase (4096 * pages.length) = (true, v) →
      (∃ t, exec (.ckptCommit ctx step false sync queues pages) s = .next t ∧
        t.twin.ckpts = s.twin.ckpts.filter (fun c => c.ctx ≠ ctx.toNat) ++ [⟨ctx.toNat, step, true, sync, queues⟩] ∧
        t.mem = (forAll pages.zipIdx (fun g s => (s.writeHbm g.1 (s.peekN (ckptBase + 4096 * g.2) 4096)).2) (v.count blkTWN 0x0240)).mem) ∧
      (∃ t, exec (.ckptCommit ctx step true sync queues pages) s = .next t ∧ bit (t.reg blkTWN 0x0210) 3 = true ∧ t.twin = v.twin ∧ t.mem = v.mem)) ∧
    (∀ (ctx : BitVec 16) (step : Word) sync queues (pages : List Nat) (o : Outgoing), s.twin.sending.contains (ctx.toNat, step) = true →
      look s.twin.outgoing ctx.toNat = some o →
      (o.bad = false → (∀ g ∈ o.pages, s.errsAt [] g 4096 = []) →
        ∃ t, exec (.ckptCommit ctx step false sync queues pages) s = .next t ∧
          t.twin.ckpts = s.twin.ckpts.filter (fun c => c.ctx ≠ ctx.toNat) ++ [⟨ctx.toNat, step, false, [], []⟩] ∧
          t.twin.sending = s.twin.sending.filter (· ≠ (ctx.toNat, step)) ∧ s.sameMemory t ∧
          t.reg blkTWN 0x0238 = satAdd (s.reg blkTWN 0x0238) (147456 + 4096 * o.pages.length)) ∧
      (∃ t, exec (.ckptCommit ctx step true sync queues pages) s = .next t ∧ t.twin.ckpts = s.twin.ckpts ∧ ctx.toNat ∈ t.twin.whole ∧
        t.twin.sending = s.twin.sending.filter (· ≠ (ctx.toNat, step)) ∧ t.mem = (s.sendPages o.pages).2.mem))

/-! # Firmware, attestation and entropy (13_security_loading) -/

/-- A host load begins in "awaiting image"; the verification starts Obinha or enters recovery with the first failed check's code; SPDM requests
are answered in the mailbox; a failed entropy source stops the device (R366, R369 to R373).
The verdict on an image is the code of the first check of Table 13.8 that fails, 0 when all pass (R370). -/
def Obligations.SecurityCompletes : Prop :=
  (∀ s : State,
    (∀ src len : Word, s.sec.boot = 0 → s.vcl.st = .up → s.vcl.boot = true → s.stopped = false → s.pwr.entering = none → 3 ≤ s.pwr.stage →
      fld len 0 22 ≠ 0 → s.heldOut = [] →
      ∃ t, exec (.fwLoadHost src len) s = .next t ∧ t.sec.boot = 1 ∧ t.fwLoad = some ⟨false, fld len 0 22, [], false, false⟩ ∧
        t.reg blkSEC 0x0208 = src &&& ~~~ 0x3F#64 ∧ t.reg blkSEC 0x0210 = len &&& 0x3FFFFF#64 ∧ t.mem = s.mem ∧
        (t.vcl.reqs.any (fun q => q.who = .fw) || t.vcl.obReqs.any (fun q => q.who = .fw)) = true) ∧
    (∀ (l : FwLoad) (b : Bytes) (code : Nat), s.fwLoad = some l → s.stopped = false → l.ended = true → s.sec.boot = 3 →
      b = (if l.mgt then l.bytes else s.peekN (hostBase + (s.reg blkSEC 0x0208).toNat) l.len) → code = fwCode s.fuses l.len b (!l.failed) →
      (code = 0 → ∃ t, exec (.fwVerifyDone ()) s = .next t ∧ t.sec.boot = 4 ∧ t.sec.result = 0 ∧ t.sec.svn = BitVec.ofNat 8 (leAt b 12 4) ∧
        t.sec.version = BitVec.ofNat 32 (leAt b 8 4) ∧ t.sec.fwDigest = sha512 b ∧ t.sec.fwKey = leAt b 20 1 ∧
        t.sec.aliasKey = derivedKey s.fuses.secret (sha512 b) "vpz-alias" ∧ t.sec.aliasCert = aliasCertOf s.fuses.secret (sha512 b) ∧
        (∃ r : Bytes, r.length = 32 ∧ t.sec.storageKey = storageKeyOf s.fuses.secret r) ∧ t.fwLoad = none ∧ t.mem = s.mem) ∧
      (code ≠ 0 → ∃ t, exec (.fwVerifyDone ()) s = .next t ∧ t.sec.boot = 5 ∧ t.sec.recovery = true ∧ t.vcl.st = .down ∧
        t.sec.result = BitVec.ofNat 8 code ∧ bit (t.reg blkSEC 0x0230) 4 = true ∧ t.fwLoad = none ∧
        (s.vcl.reqs = [] → s.vcl.obReqs = [] → s.vcl.bulkQ = [] → t.mem = s.mem))) ∧
    (∀ n : BitVec 13, s.stopped = false →
      (0 < n.toNat → n.toNat ≤ 4096 → ∀ (ans : Bytes) (u : State), s.spdmAnswer true (getBytes s.spdm 0 n.toNat) = (ans, u) →
        exec (.spdmGo n) s = .next (State.setReg { u with spdm := setBytes s.spdm 0 ans } blkSEC 0x0238
          (BitVec.ofNat 64 (put ans.length 16 13 + put n.toNat 0 13)))) ∧
      ((n.toNat = 0 ∨ 4096 < n.toNat) → ∃ t, exec (.spdmGo n) s = .next t ∧ bit (t.reg blkSEC 0x0230) 5 = true ∧ t.mem = s.mem)) ∧
    (s.pwr.held = false → s.stopped = false → ∃ t, exec .entropyHealthFail s = .next t ∧ t.stopped = true ∧ t.taken = [] ∧
      bit (t.reg blkSEC 0x0230) 6 = true)) ∧
  (∀ (f : Fuses) (len : Nat) (b : Bytes) (readOk : Bool),
    (fwCode f len b readOk = 0 ↔ (512 ≤ len ∧ len ≤ 3145728 ∧ len = 512 + leAt b 16 4) ∧
      (leAt b 0 4 = 0x4F424E48 ∧ leAt b 4 2 = 1 ∧ leAt b 6 2 < 4 ∧ zeroAt b 21 11 = true ∧ zeroAt b 360 152 = true) ∧
      (leAt b 6 2).testBit (if f.stepping = 0xB0 then 1 else 0) = true ∧ (leAt b 20 1 ≤ 3 ∧ bit f.revoked (leAt b 20 1) = false) ∧
      pointHash ((b.drop 96).take 132) = romHash (leAt b 20 1) ∧ f.minSvn.toNat ≤ leAt b 12 4 ∧
      ecdsaOk ((b.drop 96).take 132) (b.take 228) ((b.drop 228).take 132) = true ∧
      sha512 ((b.drop 512).take (leAt b 16 4)) = (b.drop 32).take 64 ∧ readOk = true) ∧
    fwCode f len b readOk ≤ 9 ∧
    (fwCode f len b readOk = 6 → leAt b 12 4 < f.minSvn.toNat ∧ pointHash ((b.drop 96).take 132) = romHash (leAt b 20 1)) ∧
    (leAt b 12 4 < f.minSvn.toNat → fwCode f len b readOk ≠ 0))

/-! # The host link (10_host_link) -/

/-- The states of VCL: loss of signal, retry, training, configuration, timeouts (R277, R281, R282, R294, R295).
VCL flits: a failed CRC is counted and asked for again once, a numbered flit in order raises SEQ, another changes it not; a RETRY resends
from the named flit, and the sixteenth resend in a row of one flit returns the link to DOWN (R278, R279). -/
def Obligations.HostLinkCompletes : Prop :=
  (∀ s : State,
    (s.vcl.st = .up → exec .vclLossOfSignal s = .next s.vclCounted.vclDown) ∧
    ((s.vcl.st = .train ∨ s.vcl.st = .config) → exec .vclLossOfSignal s = .next s.vclDown ∧ exec .vclStateTimeout s = .next s.vclDown) ∧
    (s.vclDown.vcl.st = .down ∧ s.vclDown.vcl.reqs = []) ∧
    (s.vcl.st = .down → 3 ≤ s.pwr.stage → s.sec.recovery = false → ∃ t, exec .vclRetryTimer s = .next t ∧ t.vcl.st = .train ∧ t.vcl.txSeq = 0 ∧ t.vcl.rxSeq = 0 ∧
      t.vcl.boot = s.vcl.boot ∧ { t with vcl := s.vcl } = s) ∧
    (∀ x8 half : Bool, s.vcl.st = .train → ∃ t, exec (.vclTrainDone x8 half) s = .next t ∧ t.vcl.st = .config ∧ t.vcl.x8 = x8 ∧ t.vcl.half = (x8 && half) ∧
      (x8 = true → bit (t.reg blkVCL 0x0208) 6 = true) ∧ t.mem = s.mem) ∧
    (∀ x8 half : Bool, s.vcl.st = .train → s.vcl.replay.length < 512 → ∃ (t : State) (g : VclFlit), exec (.vclTrainDone x8 half) s = .next t ∧
      t.out = s.out ++ [.vcl "CONFIG" (State.configArgs t) [], .vclFlit g] ∧ (State.configArgs t).take 3 = [0x7A31, 0x9624, s.fuses.stepping.toNat]) ∧
    (∀ req rsp snp : BitVec 16, s.vcl.st = .config → exec (.vclConfigDone (some ⟨req, rsp, snp⟩)) s = .next (State.vclPump (State.vclReached { s with
      vcl := { s.vcl with st := .up, credits := #v[req.toNat, rsp.toNat, snp.toNat] } }))) ∧
    (s.vcl.st = .config → exec (.vclConfigDone none) s = .next s.vclCounted.vclDown)) ∧
  (∀ s : State, s.vcl.st = .up →
    (∀ f : VclFlit, vclCrcOk f = false → ∃ t, exec (.vclFlitRx f) s = .next t ∧ t.vcl.rxSeq = s.vcl.rxSeq ∧
      bit (t.reg blkVCL 0x0208) 0 = true ∧ t.reg blkVCL 0x0258 = satAdd (s.reg blkVCL 0x0258) 1 ∧ t.mem = s.mem ∧
      (s.vcl.badRun = true → t.out = s.out) ∧ (s.vcl.badRun = false → s.vcl.replay.length < 512 → t.vcl.badRun = true ∧
        ∃ g : VclFlit, t.out = s.out ++ [.vcl "RETRY" [s.vcl.rxSeq.toNat] [], .vclFlit g])) ∧
    (∀ (f : VclFlit) (left : List VclFlit) (u : State), vclCrcOk f = true → s.vcl.retryDue = false → left = vclUnacked (vclAck f) s.vcl.replay →
      u = { s with vcl := { s.vcl with replay := left, resends := if left.length < s.vcl.replay.length then 0 else s.vcl.resends } } →
      (vclKind f < 2 → vclSeq f = s.vcl.rxSeq → ∃ t, exec (.vclFlitRx f) s = .next t ∧ t.vcl.rxSeq = s.vcl.rxSeq + 1 ∧
        (∃ sent, t.vcl.replay = left ++ sent) ∧ t.reg blkVCL 0x0248 = satAdd (s.reg blkVCL 0x0248) 1 ∧
        t = ((State.count { u with vcl := { u.vcl with rxSeq := s.vcl.rxSeq + 1, badRun := false } } blkVCL 0x0248).takeCredits f).vclPump) ∧
      (vclKind f = 2 → exec (.vclFlitRx f) s = .next (u.takeCredits f).vclPump) ∧
      ((2 < vclKind f ∨ vclKind f < 2 ∧ vclSeq f ≠ s.vcl.rxSeq) → exec (.vclFlitRx f) s = .next u.vclPump)) ∧
    (∀ f : VclFlit, (s.takeCredits f).vcl.credits[0] = s.vcl.credits[0] + fld f.credits 0 16 ∧
      (s.takeCredits f).vcl.credits[1] = s.vcl.credits[1] + fld f.credits 16 16 ∧ (s.takeCredits f).vcl.credits[2] = s.vcl.credits[2] + fld f.credits 32 16 ∧
      { s.takeCredits f with vcl := s.vcl } = s) ∧
    (∀ (q : BitVec 10) (again : List VclFlit), again = s.vcl.replay.dropWhile (fun f => vclSeq f ≠ q) → again ≠ [] →
      ((again.length < s.vcl.replay.length ∨ s.vcl.resends + 1 < 16) → ∃ t, exec (.vclRetry q) s = .next t ∧ t.vcl.replay = again ∧ t.vcl.st = .up ∧
        t.out = s.out ++ again.map .vclFlit ∧ t.reg blkVCL 0x0250 = satAdd (s.reg blkVCL 0x0250) again.length ∧ t.mem = s.mem) ∧
      (again.length = s.vcl.replay.length → 16 ≤ s.vcl.resends + 1 → ∃ t, exec (.vclRetry q) s = .next t ∧ t.vcl.st = .down)))

/-- The answers to the device's requests and the host's snoops: lines taken into memory, a request completed, failed by its status or after
10 ms (R283, R285, R291, R294). -/
def Obligations.HostAnswersComplete : Prop :=
  ∀ (s : State) (tag : BitVec 12), s.vcl.st = .up →
    (∀ (q : VclReq) (rest : List VclReq) (u : State), pull (fun (q : VclReq) => q.tag = tag && q.write && q.sent) s.vcl.reqs = some (q, rest) →
      u = State.vclHeard { s with vcl := { s.vcl with reqs := rest } } 1 1 →
      exec (.wrDone tag 0) s = .next (u.written q).vclPump.returnCredits ∧
      (∀ status : BitVec 8, status ≠ 0 → exec (.wrDone tag status) s = .next (u.reqFailed q 0x0803).vclPump.returnCredits)) ∧
    (∀ (q : VclReq) (rest : List VclReq) (u : State) (first : Nat) (lines : Bytes),
      u = State.vclHeard { s with vcl := { s.vcl with reqs := rest } } 1 (1 + 4 * (lines.length / 64)) →
      pull (fun (q : VclReq) => q.tag = tag && q.write = false && q.sent) s.vcl.reqs = some (q, rest) →
      (∀ (status : BitVec 8) (bad : Bool), status ≠ 0 → exec (.data tag status first lines bad) s = .next (u.reqFailed q 0x0803).fwRead.vclPump.returnCredits) ∧
      (∀ n : Nat, lines.length = 64 * n → 0 < n → n ≤ 16 → 64 * (first + n) ≤ q.len →
        (exec (.data tag 0 first lines false) s = .next (
          if (q.got ++ (List.range' first n).filter (fun i => !q.got.contains i)).length = q.len / 64 then
            ((u.takeLines q first lines).merged q).fwRead.vclPump.returnCredits
          else (State.vclPump { u.takeLines q first lines with vcl := { u.vcl with reqs := u.vcl.reqs ++
            [{ q with got := q.got ++ (List.range' first n).filter (fun i => !q.got.contains i) }] } }).returnCredits)) ∧
        (q.retried = true → exec (.data tag 0 first lines true) s = .next (((u.count blkVCL 0x0260 lines.length).stick blkVCL 0x0208 32).reqFailed q 0x0804).fwRead.vclPump.returnCredits) ∧
        (q.retried = false → exec (.data tag 0 first lines true) s = .next (State.vclPump { (u.count blkVCL 0x0260 lines.length).stick blkVCL 0x0208 32 with vcl := { u.vcl with
          reqs := u.vcl.reqs ++ [{ q with retried := true, sent := false, got := [] }] } }).returnCredits))) ∧
    (∀ (q : VclReq) (rest : List VclReq), pull (fun (q : VclReq) => q.tag = tag) s.vcl.reqs = some (q, rest) →
      exec (.vclReqTimeout tag) s = .next (State.reqFailed { s with vcl := { s.vcl with reqs := rest } } q 0x0803).fwRead.vclPump) ∧
    (∀ (addr : Word) (a : Nat) (line : Bytes), a = hostBase + addr.toNat / 64 * 64 → line = ((s.vcl.owned.find? (fun o => o.1 = a)).map (·.2)).getD [] →
      (∃ t, exec (.snpInv addr tag) s = .next t ∧ t.mem = s.mem ∧ t.reg blkVCL 0x0270 = satAdd (s.reg blkVCL 0x0270) 1 ∧
        t.vcl.owned = s.vcl.owned.filter (fun o => o.1 ≠ a) ∧
        (∀ (c : Fin 16), ∀ f ∈ t.cores[c].prefetch, f.host = true → f.dpa < a + 64 → a < f.dpa + f.len →
          ∃ q ∈ s.vcl.reqs, q.who = .prefetch c ∧ q.dpa = f.dpa ∧ q.len = f.len) ∧
        (s.linkIdle = true → 2 ≤ s.vcl.credits[1] → line.length ≤ 64 → ∃ g : VclFlit, t.out = s.out ++ [.vcl "SNP_ACK" [tag.toNat] line, .vclFlit g])) ∧
      (∃ t, exec (.snpData addr tag) s = .next t ∧ t.mem = s.mem ∧ t.cores = s.cores ∧ t.reg blkVCL 0x0270 = satAdd (s.reg blkVCL 0x0270) 1 ∧
        t.vcl.owned = s.vcl.owned.filter (fun o => o.1 ≠ a) ∧
        (s.linkIdle = true → 2 ≤ s.vcl.credits[1] → line.length ≤ 64 → ∃ g : VclFlit, t.out = s.out ++ [.vcl "SNP_ACK" [tag.toNat] line, .vclFlit g])))

/-- The host's windows. An access is refused that breaks the forms of R287, names a closed window, lies outside every open aperture range, or
writes a read-only one; a refused access sets MMIO_BAD or APT_DENY, is counted and recorded in VCL_MMIO_FAULT, and changes nothing else, and
a refused read is answered with zeros (R289). The others read and write the registers, ring the doorbells, and reach HBM.
REGISTER_WRITE and MSI_UNMASK have their effect on a register whatever is written (R10, R11, R292). -/
def Obligations.HostAccessesComplete : Prop :=
  ∀ (s : State) (win : Fin 3) (o : BitVec 38) (log2 : Fin 7), s.vcl.st = .up →
    (∀ (tag : BitVec 12) (d : Denial), s.readsOut < 256 → s.denied win o.toNat log2.val false = some d →
      exec (.mmioRd win o log2 tag) s = .next ((s.deny d win false o.toNat log2.val).mmioData tag (List.replicate (2 ^ log2.val) 0))) ∧
    (∀ (data : Bytes) (d : Denial), s.denied win o.toNat log2.val true = some d → data.length = 2 ^ log2.val →
      exec (.mmioWr win o log2 data) s = .next ((s.vclHeard 2 (1 + (data.length + 15) / 16)).deny d win true o.toNat log2.val).returnCredits) ∧
    (∀ w : Bool, (s.denied win o.toNat log2.val w = some .form ↔
        (o.toNat % 2 ^ log2.val ≠ 0 ∨ (win ≠ 2 ∧ log2.val ≠ 3) ∨ (s.vcl.boot = true ∧ win ≠ 0))) ∧
      (s.denied win o.toNat log2.val w = some .filter ↔ o.toNat % 2 ^ log2.val = 0 ∧ s.vcl.boot = false ∧ win = 2 ∧
        (s.aperture o.toNat (2 ^ log2.val) = 0 ∨ (w = true ∧ s.aperture o.toNat (2 ^ log2.val) ≠ 2)))) ∧
    (∀ a n : Nat, (s.aperture a n = 0 ↔ ∀ r ∈ s.vcl.apt.toList, fld r 62 2 ≠ 0 → 2 ^ 20 * fld r 0 18 ≤ a →
      2 ^ 20 * (fld r 0 18 + fld r 32 18) < a + n)) ∧
    (∀ (d : Denial) (w : Bool), { s.deny d win w o.toNat log2.val with regs := s.regs } = s ∧
      bit ((s.deny d win w o.toNat log2.val).reg blkVCL 0x0208) (if d = .filter then 4 else 3) = true ∧
      (s.deny d win w o.toNat log2.val).reg blkVCL 0x0278 = satAdd (s.reg blkVCL 0x0278) 1 ∧
      fld ((s.deny d win w o.toNat log2.val).reg blkVCL 0x0210) 0 38 = o.toNat ∧ fld ((s.deny d win w o.toNat log2.val).reg blkVCL 0x0210) 53 3 = log2.val ∧
      bit ((s.deny d win w o.toNat log2.val).reg blkVCL 0x0210) 60 = decide (d = .filter) ∧
      bit ((s.deny d win w o.toNat log2.val).reg blkVCL 0x0210) 61 = w ∧ fld ((s.deny d win w o.toNat log2.val).reg blkVCL 0x0210) 62 2 = win.val) ∧
    (∀ tag : BitVec 12, s.readsOut < 256 → s.denied win o.toNat log2.val false = none →
      (win = 0 → exec (.mmioRd win o log2 tag) s = .next (s.mmioData tag (toLe 8 (s.hostRead o.toNat).toNat))) ∧
      (win = 1 → exec (.mmioRd win o log2 tag) s = .next (s.mmioData tag (List.replicate (2 ^ log2.val) 0))) ∧
      (win = 2 → exec (.mmioRd win o log2 tag) s = .next (State.mmioData (s.apertureRead o.toNat (2 ^ log2.val)).2 tag (s.apertureRead o.toNat (2 ^ log2.val)).1))) ∧
    (∀ (data : Bytes) (u : State), s.denied win o.toNat log2.val true = none → data.length = 2 ^ log2.val →
      u = s.vclHeard 2 (1 + (data.length + 15) / 16) →
      (win = 0 → o.toNat < 0x200000 → s.answers (o.toNat / 65536) = true →
        exec (.mmioWr win o log2 data) s = .next (u.regWrite (o.toNat / 65536) (o.toNat % 65536) (BitVec.ofNat 64 (leNat data))).returnCredits) ∧
      (win = 1 → exec (.mmioWr win o log2 data) s = .next (u.doorbell o.toNat (BitVec.ofNat 64 (leNat data))).returnCredits) ∧
      (win = 2 → exec (.mmioWr win o log2 data) s = .next (u.apertureWrite o.toNat data).returnCredits)) ∧
    (∀ a n : Nat, s.bad = [] → (s.apertureRead a n).1 = s.peekN a n ∧ (s.apertureRead a n).2.mem = s.mem) ∧
    (∀ (tag : BitVec 12) (bs : Bytes), s.linkIdle = true → 2 ≤ s.vcl.credits[1] → bs.length ≤ 64 →
      ∃ g : VclFlit, (s.mmioData tag bs).out = s.out ++ [.vcl "MMIO_DATA" [tag.toNat, 0] bs, .vclFlit g]) ∧
    (∀ (b : Fin 32) (off : BitVec 16) (v : Word), ∃ t, exec (.registerWrite b off v) s = .next t ∧
      ((off.toNat % 8 ≠ 0 ∨ (13 ≤ b.val ∧ b.val < 16)) → t = s) ∧ (off.toNat % 8 = 0 → 16 ≤ b.val → t = s.plainWrite b.val off.toNat v)) ∧
    (∀ (n : Fin 128) (v : Word), ∃ t, exec (.msiUnmask n v) s = .next t ∧ t.cores = s.cores ∧ t.ctxs = s.ctxs ∧
      t.reg blkVCL 0x0228 n.val = (if bit (s.reg blkVCL 0x0228 n.val) 33 = true ∧ bit v 32 = false then v &&& 0x1FFFFFFFF
        else (v &&& 0x1FFFFFFFF) ||| (s.reg blkVCL 0x0228 n.val &&& 0x200000000)))

/-- Registers written by their access types: writable fields take the value, sticky bits are cleared by ones, all else stays; PWR_CFG within
its ranges is kept, outside them it sets CFG_BAD.
An event on an unmasked vector of the 128 sends MSG_INT with the vector's address and data; on a masked one it sets PENDING, and another
adds nothing; clearing MASK while PENDING is set sends one MSG_INT and clears PENDING; after reset every vector is masked (R292). -/
def Obligations.RegisterWritesComplete : Prop :=
  ∀ (s : State) (v : Word),
    (∀ (b : Fin 32) (off : BitVec 16), exec (.registerWrite b off v) s = .next (s.regWrite b.val off.toNat v)) ∧
    (∀ blk off : Nat, rwMask blk off ||| w1cMask blk off ≠ 0 →
      (s.plainWrite blk off v).reg blk off (s.entryOf blk off) =
        ((s.reg blk off (s.entryOf blk off) &&& ~~~ rwMask blk off) ||| (v &&& rwMask blk off)) &&& ~~~ (v &&& w1cMask blk off) ∧
      (∀ k, k ≠ rkey blk off (s.entryOf blk off) → mget regReset (s.plainWrite blk off v).regs k = mget regReset s.regs k) ∧
      { s.plainWrite blk off v with regs := s.regs } = s) ∧
    (∀ blk off : Nat, rwMask blk off ||| w1cMask blk off = 0 → s.plainWrite blk off v = s) ∧
    (∀ n : Fin 128, (bit (s.reg blkVCL 0x0228 n.val) 33 = true → bit v 32 = false → ∃ u, exec (.msiUnmask n v) s = .next (State.sendMsi u n.val) ∧
        u.reg blkVCL 0x0228 n.val = v &&& 0x1FFFFFFFF ∧ u.mem = s.mem) ∧
      ((bit (s.reg blkVCL 0x0228 n.val) 33 = false ∨ bit v 32 = true) → ∃ u, exec (.msiUnmask n v) s = .next u ∧
        u.reg blkVCL 0x0228 n.val = (v &&& 0x1FFFFFFFF) ||| (s.reg blkVCL 0x0228 n.val &&& 0x200000000) ∧ u.mem = s.mem ∧ u.out = s.out)) ∧
    (∀ n : Fin 128,
      (bit (s.reg blkVCL 0x0228 n.val) 32 = false → s.raiseVec n.val = s.sendMsi n.val ∧
        (s.linkIdle = true → s.writesOut = false → ∃ (a : Word) (d : BitVec 32) (g : VclFlit), (s.sendMsi n.val).out = s.out ++ [.msi n.val a d,
          .vcl "MSG_INT" [n.val, a.toNat, d.toNat] [], .vclFlit g] ∧ a = s.reg blkVCL 0x0220 n.val ∧ d.toNat = fld (s.reg blkVCL 0x0228 n.val) 0 32)) ∧
      (bit (s.reg blkVCL 0x0228 n.val) 32 = true →
        (s.raiseVec n.val).reg blkVCL 0x0228 n.val = s.reg blkVCL 0x0228 n.val ||| 0x200000000 ∧ { s.raiseVec n.val with regs := s.regs } = s ∧
        (s.raiseVec n.val).raiseVec n.val = s.raiseVec n.val) ∧
      bit (State.reset.reg blkVCL 0x0228 n.val) 32 = true) ∧
    ((fld v 0 16 = 0 ∨ (400 ≤ fld v 0 16 ∧ fld v 0 16 ≤ s.binCap)) →
      (fld v 16 16 = 0 ∨ (100 ≤ fld v 16 16 ∧ fld v 16 16 ≤ s.binMHz ∧ fld v 16 16 % 25 = 0)) →
      ∃ t, exec (.pwrCfgWrite v) s = .next t ∧ t.reg blkPWR 0x0200 = v &&& 0xFFFFFFFF ∧ t.mem = s.mem) ∧
    ((fld v 0 16 ≠ 0 ∧ (fld v 0 16 < 400 ∨ s.binCap < fld v 0 16)) →
      ∃ t, exec (.pwrCfgWrite v) s = .next t ∧ t.reg blkPWR 0x0200 = s.reg blkPWR 0x0200 ∧ bit (t.reg blkPWR 0x0210) 3 = true ∧ t.mem = s.mem)

/-! # Housekeeping and management (15_housekeeping_management) -/

/-- A sample of the sensors: readings kept and the throttle level raised by one step; THERM_N driven while any sensor reads 95 °C or above and
released when every one reads below 90 °C, in a stopped device too; the thermal trip, of class D with cause 0x0C02, at 105 °C or above in two
consecutive samples (R407). The level's fall; snapshots, ageing, the almanac's writes and scrub.
PWR_CFG takes every value written whole or, with CFG_BAD, not at all (R408). -/
def Obligations.HousekeepingCompletes : Prop :=
  ∀ s : State,
    (∀ x : Sample, s.stbyOn = true → ∃ t, exec (.sensorSample x) s = .next t ∧ t.hkp.temps = x.temps.map (fun r => (readingOf r).1) ∧
      t.hkp.powerW = x.powerW.toNat ∧ t.reg blkPWR 0x0238 = x.rails.setWidth 64 ∧
      t.hkp.therm = (if t.hkp.temps.any (fun v => decide (950 ≤ v)) then true
        else if t.hkp.temps.all (fun v => decide (v < 900)) then false else s.hkp.therm) ∧
      t.hkp.level = (if (t.hkp.temps.any (fun v => decide (920 ≤ v)) || decide (s.cap < x.powerW.toNat ∧ 2 ≤ s.hkp.overCap)) &&
        decide (s.hkp.level < 7) && decide (s.hkp.riseWait ≤ 1) then s.hkp.level + 1 else s.hkp.level) ∧
      ((t.hkp.temps.zip s.hkp.temps).any (fun v => decide (1050 ≤ v.1) && decide (1050 ≤ v.2)) = true → bit (s.reg blkPWR 0x0210) 1 = false →
        t.stopped = true ∧ ∃ u : State, t = State.stopDevice (u.stick blkPWR 0x0210 2) blkPWR 0x0C02)) ∧
    (∀ v : Word, ∃ t, exec (.pwrCfgWrite v) s = .next t ∧ t.mem = s.mem ∧ t.cores = s.cores ∧
      (t.reg blkPWR 0x0200 = v &&& 0xFFFFFFFF ∨ (t.reg blkPWR 0x0200 = s.reg blkPWR 0x0200 ∧ bit (t.reg blkPWR 0x0210) 3 = true))) ∧
    (s.hkp.level ≠ 0 → 100 ≤ s.hkp.calm → ∃ t, exec .throttleFall s = .next t ∧ t.hkp.level = s.hkp.level - 1 ∧ t.hkp.calm = 0 ∧
      bit (t.reg blkPWR 0x0210) 0 = true) ∧
    (∀ (mw m : BitVec 32) (temps l : List Int) (u : State), 2 ≤ s.pwr.stage → s.gathered mw temps = (m, l, u) →
      (s.hkp.nW = 0 → m = mw ∧ l = temps ∧ u = s) ∧ (s.hkp.nW ≠ 0 → m = BitVec.ofNat 32 (1000 * s.hkp.sumW / s.hkp.nW) ∧ l.length = s.hkp.maxT.length) ∧
      ∃ t, exec (.barometerLatch mw temps) s = .next t ∧ t.hkp.snaps = (u.snapshot m l :: s.hkp.snaps).take 16 ∧ t.hkp.seq = s.hkp.seq + 1 ∧ t.reg blkHKP 0x0218 = BitVec.ofNat 64 s.hkp.seq) ∧
    (∀ (temps : List Int) (volts : List Nat), s.stbyOn = true → ∃ t, exec (.ageingTick temps volts) s = .next t ∧
      (∀ i : Fin 28, t.hkp.age[i] = min (2 ^ 96 - 1) (s.hkp.age[i] + ageFactor (s.meanTemp temps i.val) (volts.getD i.val 0) (nominalMv i.val))) ∧
      t.hkp.totals.powerOnS = (if s.pwr.pwrOk then s.hkp.totals.powerOnS + 1 else s.hkp.totals.powerOnS) ∧ { t with hkp := s.hkp } = s) ∧
    (s.stbyOn = true → exec .almanacHourly s = .next (s.almEvent 0)) ∧
    (s.hkp.almHot = true → s.hkp.almNow = false → (s.hkp.almHeld = none → exec .almanacHoldExpiry s = .next { s with hkp := { s.hkp with almHot := false } }) ∧
      (∀ r : Nat, s.hkp.almHeld = some r → s.hkp.almWrite = none →
        exec .almanacHoldExpiry s = .next (State.almBegin { s with hkp := { s.hkp with almHot := false, almHeld := none } } r))) ∧
    (∀ w : AlmWrite, s.hkp.almWrite = some w → s.hkp.almHeld = none → s.hkp.almNow = false →
      (∃ t, exec (.almanacWriteDone true) s = .next t ∧ t.hkp.alm = insertAt (almErased (w.tried ++ [w.pos]) s.hkp.alm) w.pos w.record ∧ t.hkp.almPos = w.pos ∧ t.hkp.almWrite = none ∧
        t.mem = s.mem) ∧
      (w.fails = 2 → ∃ t, exec (.almanacWriteDone false) s = .next t ∧ t.hkp.almWrite = none ∧ bit (t.reg blkHKP 0x0240) 0 = true ∧
        t.hkp.alm = almErased (w.tried ++ [w.pos]) s.hkp.alm) ∧
      (w.fails ≠ 2 → ∃ t, exec (.almanacWriteDone false) s = .next t ∧ t.hkp.almWrite = some { w with pos := almNext w.pos, fails := w.fails + 1, tried := w.tried ++ [w.pos] } ∧
        t.mem = s.mem)) ∧
    (∀ errs : List LineErr, s.stopped = false → 6 ≤ s.pwr.stage → ∃ t, exec (.scrubBlock errs) s = .next t ∧
      t.hkp.scrub = (if hbmEnd / 512 ≤ s.hkp.scrub + 1 then 0 else s.hkp.scrub + 1) ∧ (s.bad = [] → errs = [] → t.mem = s.mem ∧ t.bad = s.bad))

/-- Every vendor message in the columns of Table 15.7 that mark it, on contents it accepts and on contents it refuses, and status 3 in
the other columns (R211, R369 to R371, R408, R417, R418, R421).
The management port: addresses, messages answered by the standards' responders, and one of an unknown type discarded (R419, R420, R424). -/
def Obligations.ManagementCompletes : Prop :=
  (∀ s u : State, s.stbyOn = true → s.mgt.addressed = true → u = State.count { s with mgt := { s.mgt with alert := false } } blkMGT 0x0210 →
    exec .getStatus s = .next (u.vendor 0x01 0 ([BitVec.ofNat 8 u.sec.boot, u.sec.result, BitVec.ofNat 8 u.vcl.st.code, BitVec.ofNat 8 u.hkp.level]
      ++ toLe 8 (u.reg blkCTL 0x0108).toNat)) ∧
    (∀ i : BitVec 8,
      (∀ r : Bytes, u.almLatest[i.toNat]? = some r → exec (.almanacGet i) s = .next (u.vendor 0x07 0 r)) ∧
      (u.almLatest[i.toNat]? = none → exec (.almanacGet i) s = .next (u.vendor 0x07 2))) ∧
    (s.mgtPhase = .waiting →
      (∀ len : BitVec 32, u.fwLoad = none → u.stopped = false → (u.sec.boot = 5 ∨ u.sec.boot = 0 ∧ 3 ≤ u.pwr.stage) →
        exec (.fwBegin len) s = .next ((u.beginFw true len.toNat).vendor 0x02 0)) ∧
      (∀ (off : BitVec 32) (bs : Bytes) (l : FwLoad), bs.length ≤ 1024 → u.fwLoad = some l → l.mgt = true → l.ended = false → off.toNat = l.bytes.length →
        l.bytes.length + bs.length ≤ l.len →
        exec (.fwData off bs) s = .next (State.vendor { u with fwLoad := some { l with bytes := l.bytes ++ bs } } 0x03 0)) ∧
      (∀ l : FwLoad, u.fwLoad = some l → l.mgt = true → l.ended = false → l.bytes.length = l.len → exec .fwEnd s = .next
        ((State.stateEvent { u with fwLoad := some { l with ended := true }, sec := { u.sec with boot := 3 } }).vendor 0x04 0))) ∧
    (s.mgtPhase ≠ .standby →
      (∀ (svn : BitVec 32) (sig : Bytes), u.fuses.minSvn.toNat < svn.toNat → svn.toNat ≤ 255 →
        (u.firmwareSigned (toLe 4 svn.toNat ++ toLe 8 u.fuses.serial.toNat) sig = true → ∃ v, exec (.svnRaise svn u.fuses.serial sig) s = .next v ∧
          v.fuses = { u.fuses with minSvn := svn.setWidth 8 } ∧ bit (v.reg blkMGT 0x0208) 0 = true ∧ v.mem = u.mem ∧ v.sec = u.sec) ∧
        (u.firmwareSigned (toLe 4 svn.toNat ++ toLe 8 u.fuses.serial.toNat) sig = false →
          exec (.svnRaise svn u.fuses.serial sig) s = .next (u.vendor 0x05 4))) ∧
      (∀ (svn : BitVec 32) (serial : Word) (sig : Bytes), (serial ≠ u.fuses.serial ∨ svn.toNat ≤ u.fuses.minSvn.toNat ∨ 255 < svn.toNat) →
        exec (.svnRaise svn serial sig) s = .next (u.vendor 0x05 2)) ∧
      (∀ utc : Word, exec (.timeSetM utc) s = .next ((u.setCal utc u.podTime).vendor 0x08 0)) ∧
      (∀ capW mhz : BitVec 16, exec (.powerSet capW mhz) s = .next
        ((u.setPwrCfg capW.toNat mhz.toNat true).2.vendor 0x09 (if (u.setPwrCfg capW.toNat mhz.toNat true).1 then 0 else 2))) ∧
      (∀ (b : BitVec 8) (off : BitVec 16), (s.mgtPhase = .waiting → b.toNat = blkCTL ∨ b.toNat = blkSEC ∨ b.toNat = blkMGT) →
        exec (.regRead b off) s = .next (u.vendor 0x0B 0 (toLe 8 (u.view b.toNat off.toNat).toNat)))) ∧
    (s.mgtPhase = .running →
      (∀ a : ForceArgs, exec (.syncForce a) s = .next (((u.objFails a.fail).force a true).2.vendor 0x06 (if (u.objFails a.fail).forceOk a then 0 else 2))) ∧
      (∀ i : BitVec 8,
        (∀ b : Bytes, u.hkp.snaps[i.toNat]? = some b → exec (.baroGet i) s = .next (u.vendor 0x0A 0 b)) ∧
        (u.hkp.snaps[i.toNat]? = none → exec (.baroGet i) s = .next (u.vendor 0x0A 2)))) ∧
    (s.mgtPhase ≠ .waiting → (∀ len, exec (.fwBegin len) s = .next (u.vendor 0x02 3)) ∧ (∀ off bs, exec (.fwData off bs) s = .next (u.vendor 0x03 3)) ∧
      exec .fwEnd s = .next (u.vendor 0x04 3)) ∧
    (s.mgtPhase = .standby → (∀ svn serial sig, exec (.svnRaise svn serial sig) s = .next (u.vendor 0x05 3)) ∧
      (∀ utc, exec (.timeSetM utc) s = .next (u.vendor 0x08 3)) ∧ (∀ capW mhz, exec (.powerSet capW mhz) s = .next (u.vendor 0x09 3)) ∧
      (∀ b off, exec (.regRead b off) s = .next (u.vendor 0x0B 3))) ∧
    (s.mgtPhase ≠ .running → (∀ a, exec (.syncForce a) s = .next (u.vendor 0x06 3)) ∧ (∀ i, exec (.baroGet i) s = .next (u.vendor 0x0A 3)))) ∧
  (∀ s : State, s.stbyOn = true →
    (∀ a : BitVec 7, s.mgt.smbus = false → exec (.entdaa a) s = .next
      (State.send { s with mgt := { s.mgt with addressed := true, addr := a } } (.identity false s.provisionedId))) ∧
    (s.mgt.addressed = false → exec .smbusFallbackTimer s = .next { s with mgt := { s.mgt with smbus := true } }) ∧
    (∀ a : BitVec 7, (s.mgt.addressed = false ∨ s.mgt.smbus = true) → exec (.smbusArp a) s = .next
      (State.send { s with mgt := { s.mgt with smbus := true, addressed := true, addr := a } } (.identity true (Config.smbusUdid s.fuses.serial)))) ∧
    (s.mgt.addressed = true →
      (∀ (req : Bytes) (e : Option (BitVec 8)), req.length ≤ 1088 → ∃ t, exec (.mctpControl req e) s = .next t ∧ t.mgt.eid = e.getD s.mgt.eid ∧
        t.out = s.out ++ [.mgt 0 (Config.standardAnswer [req] [] s.freeN)] ∧ t.freeN = s.freeN + 1 ∧ t.mem = s.mem) ∧
      (∀ (typ : BitVec 8) (req : Bytes), req.length ≤ 1088 → ∃ (t : State) (facts : List Bytes), exec (.pldmRequest typ req) s = .next t ∧
        t.out = s.out ++ [.mgt 0 (Config.standardAnswer [typ :: req] facts s.freeN)] ∧ (typ ≠ 2 → facts = []) ∧ (typ = 2 → facts = s.sensors) ∧
        t.freeN = s.freeN + 1 ∧ t.mem = s.mem) ∧
      (∀ (req ans : Bytes) (u v : State), req.length ≤ 1088 → 2 ≤ s.pwr.stage → u = State.count { s with mgt := { s.mgt with alert := false } } blkMGT 0x0210 →
        u.spdmAnswer false req = (ans, v) → exec (.spdmMessage req) s = .next (v.send (.mgt 0 ans))) ∧
      (∀ typ : BitVec 8, typ ∉ [0x00#8, 0x01#8, 0x05#8, 0x7E#8] → exec (.mctpUnknownType typ) s = .next
        (State.count { s with mgt := { s.mgt with alert := false } } blkMGT 0x0210).mgtBad)))

/-! # Power, reset and bring-up (16_bringup_package) -/

/-- Standby power, the pins, the reference clock and the main reset (R427, R428, R430 to R435). -/
def Obligations.PowerAndResetComplete : Prop :=
  ∀ s : State,
    (s.pwr.stby = false → exec .standbyPowerOn s = .next { s.powerless with pwr := { s.powerless.pwr with stby := true } }) ∧
    (s.pwr.stby = true → exec .standbyPowerOff s = .next s.powerless) ∧
    (s.pwr.stby = true → s.pwr.stbyHeld = true → exec .standbyResetRelease s = .next
      ((State.loadAlmanac { s with pwr := { s.pwr with stbyHeld := false, stbyClock := s.pwr.refclk } }).release2.stateEvent)) ∧
    (s.pwr.pwrOk = false → exec .pwrOkRise s = .next (State.release2 { s with pwr := { s.pwr with pwrOk := true } }).stateEvent) ∧
    (s.pwr.pwrOk = true → ∃ u, exec .pwrOkFall s = .next (State.beginReset u .pwrOk).stateEvent ∧ u.pwr.pwrOk = false ∧ (2 < s.pwr.stage → u.stopped = true) ∧
      (s.pwr.stage ≤ 2 → u.stopped = s.stopped) ∧ u.pwr.entering = s.pwr.entering) ∧
    (s.pwr.rstN = true → exec .rstNFall s = .next (State.beginReset { s with pwr := { s.pwr with rstN := false } } .rstN)) ∧
    (∀ n : Bool, s.pwr.rstN = false → s.pwr.entering = none →
      exec (.rstNRise n) s = .next (State.release2 { s with pwr := { s.pwr with rstN := true, twinN := n } })) ∧
    (∀ (n : Bool) (t0 : Word), s.pwr.rstN = false → s.pwr.entering = some (.rstN, t0) → s.pwr.held = false →
      exec (.rstNRise n) s = .next { s with pwr := { s.pwr with rstN := true, twinN := n, entering := if s.pwr.asked then some (.pwrReset, t0) else none } }) ∧
    (exec .trstN s = .next { s with pwr := { s.pwr with trstN := false, tap := true } }) ∧
    (∃ t, exec .refclkLoss s = .next t ∧ t.pwr.refclk = false ∧ t.pwr.stbyClock = false ∧
      (s.pwr.refclk = true → s.pwr.pwrOk = true → bit (t.reg blkPWR 0x0230) 2 = true ∧ (s.pwr.held = false → t.stopped = true)) ∧
      ((s.pwr.refclk = false ∨ s.pwr.pwrOk = false) → t.regs = s.regs ∧ t.stopped = s.stopped)) ∧
    (exec .refclkPresent s = .next { s with pwr := { s.pwr with refclk := true, stbyClock := s.stbyOn } }) ∧
    (∀ v : Word, fld v 48 16 = 0x9624 → bit v 0 = true → s.pwr.entering = none → s.pwr.held = false → exec (.pwrReset v) s = .next
      (State.beginReset { s with pwr := { s.pwr with asked := true } } .pwrReset)) ∧
    (∀ v : Word, fld v 48 16 ≠ 0x9624 → exec (.pwrReset v) s = .next s) ∧
    (∀ c, s.pwr.held = false → s.pwr.entering = none → (s.beginReset c).pwr.entering = some (c, s.podTime) ∧ (s.beginReset c).mem = s.mem) ∧
    (∀ (c : ResetCause) (t0 : Word), s.pwr.entering = some (c, t0) → exec .mainResetEffect s = .next (s.mainReset c).release2)

/-- A main reset keeps the fuses, the management port (but for the event its state sensor reports) with its registers, the almanac, the totals and ageing indexes and host memory, and takes
everything else to its reset state: no context, no rim, no twin, the rings disabled, VCL and the links in DOWN (R432, R434). -/
def Obligations.MainResetKeepsWhatItMust : Prop :=
  ∀ (s : State) (c : ResetCause),
    (s.mainReset c).fuses = s.fuses ∧ { (s.mainReset c).mgt with seen := s.mgt.seen, alert := s.mgt.alert } = s.mgt ∧ (s.mainReset c).hkp.alm = s.hkp.alm ∧ (s.mainReset c).hkp.age = s.hkp.age ∧
    (s.mainReset c).hkp.totals = s.hkp.totals ∧ (s.mainReset c).mem = s.mem ∧
    (∀ off idx, off < 2 ^ 16 → (s.mainReset c).reg blkMGT off idx = s.reg blkMGT off idx) ∧
    fld ((s.mainReset c).reg blkPWR 0x0230) 16 4 = c.code ∧
    (s.mainReset c).ctxs = [] ∧ (s.mainReset c).cores = State.reset.cores ∧ (s.mainReset c).syn = State.reset.syn ∧
    (s.mainReset c).rims = State.reset.rims ∧ (s.mainReset c).parts = State.reset.parts ∧ (s.mainReset c).fab = State.reset.fab ∧
    (s.mainReset c).rings = State.reset.rings ∧ (s.mainReset c).twin = State.reset.twin ∧ (s.mainReset c).vcl = State.reset.vcl ∧
    (s.mainReset c).enc = State.reset.enc ∧ (s.mainReset c).sec.publishers = [] ∧ (s.mainReset c).sec.boot = 0 ∧ (s.mainReset c).stopped = false ∧
    (∀ l : Fin 20, (s.mainReset c).links[l].st = if s.pwr.twinAbsent = true ∧ 18 ≤ l.val then .disabled else .down) ∧
    (s.mainReset c).pwr.held = true ∧ (s.mainReset c).pwr.stage = 0

/-- The stages of bring-up end in order up to ready; a failed HBM training stops the device; without a time source stage 9 ends after its
timeout with TIME_PENDING (R436, R437). -/
def Obligations.BringUpCompletes : Prop :=
  ∀ s : State, s.bringing = true →
    (s.pwr.stage = 2 → s.pwr.refclk = true → ∃ t, exec (.bringupStageEnd .ok) s = .next t ∧ t.pwr.stage = 3 ∧ t.vcl.st = .train ∧ t.vcl.boot = true ∧
      t.sec.chainBad = false ∧ t.mem = s.mem) ∧
    (s.pwr.stage = 2 → s.pwr.refclk = true → ∃ t, exec (.bringupStageEnd .chainUnreadable) s = .next t ∧ t.pwr.stage = 3 ∧ t.vcl.st = .train ∧
      t.sec.chainBad = true ∧ t.mem = s.mem) ∧
    (s.pwr.stage = 5 → s.vcl.reqs = [] → s.vcl.obReqs = [] → s.vcl.bulkQ = [] → ∃ t, exec (.bringupStageEnd .ok) s = .next t ∧ t.pwr.stage = 6 ∧ t.vcl.st = .train ∧ t.vcl.boot = false ∧ t.bad = [] ∧
      (∀ a, a < hbmEnd → t.peek a = 0) ∧ (∀ a, hbmEnd ≤ a → t.peek a = s.peek a) ∧
      (∀ l : Fin 20, s.links[l].st = .down → t.links[l].st = .train)) ∧
    (s.pwr.stage = 5 → exec (.bringupStageEnd .hbmTrainFail) s = .next (s.stopDevice blkHBM 0x0704) ∧ (s.stopDevice blkHBM 0x0704).stopped = true) ∧
    ((s.pwr.stage = 6 ∨ s.pwr.stage = 7) → s.pwr.linksDone = false → (∀ l : Fin 20, s.links[l].st = .up ∨ s.links[l].st = .down ∨ s.links[l].st = .disabled) →
      ∃ t, exec (.bringupStageEnd .ok) s = .next t ∧ t.pwr.linksDone = true ∧ t.pwr.stage = (if s.pwr.vclDone then 8 else s.pwr.stage) ∧ t.mem = s.mem) ∧
    (s.pwr.stage = 8 → ∃ t, exec (.bringupStageEnd .ok) s = .next t ∧ t.pwr.stage = 9 ∧ t.mem = s.mem) ∧
    (s.pwr.stage = 9 → (s.time.locked = true ∨ s.time.root = true) → ∃ t, exec (.bringupStageEnd .ok) s = .next t ∧ t.pwr.stage = 10 ∧ t.mem = s.mem) ∧
    (s.pwr.stage = 9 → s.time.locked = false → s.time.root = false → ∃ t, exec .timeSyncTimeout s = .next t ∧ t.pwr.stage = 10 ∧ t.pwr.timePending = true ∧
      t.mem = s.mem)

/-! # The whole machine -/

/-- The state right after reset: memory lists nothing, no command is taken or pending, every engine is halted, every ring disabled, VCL and
the links in DOWN, no rim, no context, no twin, and firmware awaits an image; the registers with a value of their own hold it. -/
def Obligations.ResetState : Prop :=
  State.reset.mem = [] ∧ Memory.wf State.reset.mem = true ∧ State.reset.pending = [] ∧ State.reset.taken = [] ∧ State.reset.out = [] ∧
  (∀ (c : Fin 16) (e : Eng), (State.reset.eng c e).st = .halted ∧ (State.reset.eng c e).pc = 0) ∧
  (∀ (c : Fin 16) (b : Fin 2), State.reset.cores[c].banks[b].st = .idle) ∧ (∀ r : Fin 64, State.reset.rings[r].st = .disabled) ∧
  State.reset.vcl.st = .down ∧ (∀ l : Fin 20, State.reset.links[l].st = .down) ∧ (∀ p : Fin 4, State.reset.rims[p].phase = .none) ∧
  State.reset.ctxs = [] ∧ State.reset.twin.st = .unpaired ∧ State.reset.sec.boot = 0 ∧ State.reset.sec.result = 0xFF ∧ State.reset.shape = 0 ∧
  State.reset.parts[(0 : Fin 4)].cores = 16 ∧ State.reset.parts[(0 : Fin 4)].ringMib = 2048 ∧ State.reset.fab.banks[(0 : Fin 2)].live = true ∧
  State.reset.fab.inj = 0 ∧ State.reset.ownEp = 0xFFFF ∧ (∀ p : Nat, State.reset.reg blkCTL 0x0510 p = 500) ∧
  (∀ v : Nat, State.reset.reg blkVCL 0x0228 v = 0x100000000) ∧ State.reset.reg blkHKP 0x0200 = 3600 ∧ State.reset.pwr.held = true ∧ State.reset.stopped = false

/-- Every step keeps memory in its canonical form: addresses strictly rising, no byte at the value an unlisted address reads as. -/
def Obligations.MemoryStaysCanonical : Prop :=
  ∀ s t : State, Memory.wf s.mem = true → step s = .next t → Memory.wf t.mem = true

/-- No step changes what manufacture fused, but for the minimum SVN, which no step lowers (R371). -/
def Obligations.FusesOnlyRise : Prop :=
  ∀ s t : State, step s = .next t → { t.fuses with minSvn := s.fuses.minSvn } = s.fuses ∧ s.fuses.minSvn.toNat ≤ t.fuses.minSvn.toNat

/-- A device stopped by a fault of class D stays stopped through every step but the effect of a main reset and a change of standby power, and
takes no command of the command interface meanwhile (R379). -/
def Obligations.StoppedStaysStopped : Prop :=
  ∀ s t : State, s.stopped = true → step s = .next t →
    (t.stopped = true ∧ (s.taken = [] → t.taken = [])) ∨ s.pending.head? = some .mainResetEffect ∨ s.pending.head? = some .standbyPowerOn ∨
      s.pending.head? = some .standbyPowerOff
end

