-- ==== Sys2Proof/Laws/Maps.lean ====
section
/-! SUPPORT. The laws of sparse maps: a read after a write, writes apart, and the canonical form that every operation keeps. -/

namespace Sys2Proof.Machine

variable {α : Type}

@[simp] theorem look_nil (k : Nat) : look ([] : List (Nat × α)) k = none := rfl

theorem look_insertAt_self (m : List (Nat × α)) (k : Nat) (v : α) : look (insertAt m k v) k = some v := by
  induction m with
  | nil => simp [insertAt, look]
  | cons a r ih =>
    obtain ⟨k', v'⟩ := a
    simp only [insertAt]
    split
    · simp [look]
    · split
      · simp [look]
      · simp_all [look]

theorem look_insertAt_ne (m : List (Nat × α)) (k j : Nat) (v : α) (h : j ≠ k) : look (insertAt m k v) j = look m j := by
  induction m with
  | nil => simp [insertAt, look, h]
  | cons a r ih =>
    obtain ⟨k', v'⟩ := a
    simp only [insertAt]
    split
    · simp_all [look]
    · split
      · simp [look, h]
      · simp only [look]; split <;> simp_all

theorem look_erase_self (m : List (Nat × α)) (k : Nat) : look (erase m k) k = none := by
  induction m with
  | nil => rfl
  | cons a r ih =>
    obtain ⟨k', v'⟩ := a
    simp only [erase]
    split <;> simp_all [look]

theorem look_erase_ne (m : List (Nat × α)) (k j : Nat) (h : j ≠ k) : look (erase m k) j = look m j := by
  induction m with
  | nil => rfl
  | cons a r ih =>
    obtain ⟨k', v'⟩ := a
    simp only [erase]
    split
    · simp_all [look]
    · simp only [look]; split <;> simp_all

/-- A read after a write of the same key gives the value written. -/
@[simp] theorem mget_mset_self [DecidableEq α] (d : Nat → α) (m : List (Nat × α)) (k : Nat) (v : α) : mget d (mset d m k v) k = v := by
  unfold mget mset
  split
  · simp_all [look_erase_self]
  · simp [look_insertAt_self]

/-- A write leaves every other key alone. -/
theorem mget_mset_ne [DecidableEq α] (d : Nat → α) (m : List (Nat × α)) (k j : Nat) (v : α) (h : j ≠ k) : mget d (mset d m k v) j = mget d m j := by
  unfold mget mset
  split
  · simp [look_erase_ne _ _ _ h]
  · simp [look_insertAt_ne _ _ _ _ h]

/-! The canonical form -/

theorem risingFrom_mono (m : List (Nat × α)) (a b : Nat) (hab : b ≤ a) (h : risingFrom a m = true) : risingFrom b m = true := by
  cases m with
  | nil => rfl
  | cons x r =>
    obtain ⟨k, v⟩ := x
    simp only [risingFrom, Bool.and_eq_true, decide_eq_true_eq] at h ⊢
    exact ⟨by omega, h.2⟩

theorem risingFrom_filter (m : List (Nat × α)) (f : Nat × α → Bool) (b : Nat) (h : risingFrom b m = true) : risingFrom b (m.filter f) = true := by
  induction m generalizing b with
  | nil => rfl
  | cons x r ih =>
    obtain ⟨k, v⟩ := x
    simp only [risingFrom, Bool.and_eq_true, decide_eq_true_eq] at h
    simp only [List.filter]
    split
    · simp only [risingFrom, Bool.and_eq_true, decide_eq_true_eq]
      exact ⟨h.1, ih _ h.2⟩
    · exact risingFrom_mono _ (k + 1) _ (by omega) (ih _ h.2)

theorem erase_eq_filter (m : List (Nat × α)) (k : Nat) : erase m k = m.filter (fun p => p.1 ≠ k) := by
  induction m with
  | nil => rfl
  | cons a r ih =>
    obtain ⟨k', v'⟩ := a
    simp only [erase, List.filter]
    by_cases h : k = k'
    · subst h; simp_all
    · have h' : ¬ k' = k := fun e => h e.symm
      simp_all

theorem risingFrom_insertAt (m : List (Nat × α)) (k : Nat) (v : α) (b : Nat) (hb : b ≤ k) (h : risingFrom b m = true) :
    risingFrom b (insertAt m k v) = true := by
  induction m generalizing b with
  | nil => simp [insertAt, risingFrom, hb]
  | cons x r ih =>
    obtain ⟨k', v'⟩ := x
    simp only [risingFrom, Bool.and_eq_true, decide_eq_true_eq] at h
    simp only [insertAt]
    split
    · subst_vars; simp [risingFrom, h]
    · split
      · simp only [risingFrom, Bool.and_eq_true, decide_eq_true_eq]
        exact ⟨hb, by omega, h.2⟩
      · simp only [risingFrom, Bool.and_eq_true, decide_eq_true_eq]
        exact ⟨h.1, ih _ (by omega) h.2⟩

theorem mem_insertAt (m : List (Nat × α)) (k : Nat) (v : α) (x : Nat × α) (h : x ∈ insertAt m k v) : x = (k, v) ∨ x ∈ m := by
  induction m with
  | nil => simpa [insertAt] using h
  | cons a r ih =>
    obtain ⟨k', v'⟩ := a
    simp only [insertAt] at h
    split at h
    · rcases List.mem_cons.1 h with h | h
      · exact .inl h
      · exact .inr (List.mem_cons_of_mem _ h)
    · split at h
      · rcases List.mem_cons.1 h with h | h
        · exact .inl h
        · exact .inr h
      · rcases List.mem_cons.1 h with h | h
        · exact .inr (h ▸ List.mem_cons_self)
        · rcases ih h with h | h
          · exact .inl h
          · exact .inr (List.mem_cons_of_mem _ h)

theorem canonical_nil [DecidableEq α] (d : Nat → α) : canonical d [] = true := rfl

/-- A filter keeps the canonical form. -/
theorem canonical_filter [DecidableEq α] (d : Nat → α) (m : List (Nat × α)) (f : Nat × α → Bool) (h : canonical d m = true) :
    canonical d (m.filter f) = true := by
  simp only [canonical, Bool.and_eq_true, List.all_eq_true] at h ⊢
  exact ⟨risingFrom_filter _ _ _ h.1, fun x hx => h.2 x ((List.mem_filter.1 hx).1)⟩

/-- A write keeps the canonical form. -/
theorem canonical_mset [DecidableEq α] (d : Nat → α) (m : List (Nat × α)) (k : Nat) (v : α) (h : canonical d m = true) :
    canonical d (mset d m k v) = true := by
  unfold mset
  split
  · rw [erase_eq_filter]; exact canonical_filter _ _ _ h
  · simp only [canonical, Bool.and_eq_true, List.all_eq_true, decide_eq_true_eq] at h ⊢
    refine ⟨risingFrom_insertAt _ _ _ _ (Nat.zero_le _) h.1, fun x hx => ?_⟩
    rcases mem_insertAt _ _ _ _ hx with rfl | hx
    · assumption
    · exact h.2 x hx

/-! Byte arrays -/

theorem canonical_setBytes (m : List (Nat × Byte)) (a : Nat) (bs : Bytes) (h : canonical (fun _ => 0) m = true) :
    canonical (fun _ => (0 : Byte)) (setBytes m a bs) = true := by
  induction bs generalizing m a with
  | nil => exact h
  | cons b bs ih => exact ih _ _ (canonical_mset _ _ _ _ h)

/-- Bytes outside those written read as before. -/
theorem mget_setBytes_out (m : List (Nat × Byte)) (a j : Nat) (bs : Bytes) (h : j < a ∨ a + bs.length ≤ j) :
    mget (fun _ => 0) (setBytes m a bs) j = mget (fun _ => 0) m j := by
  induction bs generalizing m a with
  | nil => rfl
  | cons b bs ih =>
    simp only [List.length_cons] at h
    simp only [setBytes]
    rw [ih _ _ (by omega), mget_mset_ne _ _ _ _ _ (by omega)]

/-- Bytes written read back. -/
theorem mget_setBytes_in (m : List (Nat × Byte)) (a i : Nat) (bs : Bytes) (h : i < bs.length) :
    mget (fun _ => 0) (setBytes m a bs) (a + i) = bs[i] := by
  induction bs generalizing m a i with
  | nil => simp at h
  | cons b bs ih =>
    simp only [setBytes]
    cases i with
    | zero => rw [mget_setBytes_out _ _ _ _ (by omega)]; simp
    | succ i =>
      have := ih (mset (fun _ => 0) m a b) (a + 1) i (by simpa using h)
      rw [show a + (i + 1) = a + 1 + i from by omega, this]; rfl

theorem getBytes_length (m : List (Nat × Byte)) (a n : Nat) : (getBytes m a n).length = n := by
  induction n generalizing a with
  | zero => rfl
  | succ n ih => simp [getBytes, ih]

theorem getBytes_get (m : List (Nat × Byte)) (a n i : Nat) (h : i < (getBytes m a n).length) :
    (getBytes m a n)[i] = mget (fun _ => 0) m (a + i) := by
  induction n generalizing a i with
  | zero => simp [getBytes] at h
  | succ n ih =>
    cases i with
    | zero => simp [getBytes]
    | succ i =>
      have h' : i < (getBytes m (a + 1) n).length := by simpa [getBytes] using h
      have := ih (a + 1) i h'
      simp only [getBytes, List.getElem_cons_succ, this]
      congr 1; omega

/-- What was written from a key on reads back whole. -/
theorem getBytes_setBytes (m : List (Nat × Byte)) (a : Nat) (bs : Bytes) : getBytes (setBytes m a bs) a bs.length = bs := by
  apply List.ext_getElem
  · rw [getBytes_length]
  · intro i h1 h2
    rw [getBytes_get _ _ _ _ h1, mget_setBytes_in _ _ _ _ h2]

end Sys2Proof.Machine
end

