-- ==== Sys2Proof/Laws/State.lean ====
section
/-! SUPPORT. What each update of the state leaves unchanged, one lemma per field, and the value of the field it writes, so that no proof unfolds a record update. -/

namespace Sys2Proof.Machine

variable (s : State)

/-! State.setReg -/

@[simp] theorem State.setReg_cores (blk off : Nat) (v : Word) (idx : Nat) : (s.setReg blk off v idx).cores = s.cores := by unfold State.setReg; rfl
@[simp] theorem State.setReg_syn (blk off : Nat) (v : Word) (idx : Nat) : (s.setReg blk off v idx).syn = s.syn := by unfold State.setReg; rfl
@[simp] theorem State.setReg_ctxs (blk off : Nat) (v : Word) (idx : Nat) : (s.setReg blk off v idx).ctxs = s.ctxs := by unfold State.setReg; rfl
@[simp] theorem State.setReg_parts (blk off : Nat) (v : Word) (idx : Nat) : (s.setReg blk off v idx).parts = s.parts := by unfold State.setReg; rfl
@[simp] theorem State.setReg_shape (blk off : Nat) (v : Word) (idx : Nat) : (s.setReg blk off v idx).shape = s.shape := by unfold State.setReg; rfl
@[simp] theorem State.setReg_tslots (blk off : Nat) (v : Word) (idx : Nat) : (s.setReg blk off v idx).tslots = s.tslots := by unfold State.setReg; rfl
@[simp] theorem State.setReg_enc (blk off : Nat) (v : Word) (idx : Nat) : (s.setReg blk off v idx).enc = s.enc := by unfold State.setReg; rfl
@[simp] theorem State.setReg_rims (blk off : Nat) (v : Word) (idx : Nat) : (s.setReg blk off v idx).rims = s.rims := by unfold State.setReg; rfl
@[simp] theorem State.setReg_fab (blk off : Nat) (v : Word) (idx : Nat) : (s.setReg blk off v idx).fab = s.fab := by unfold State.setReg; rfl
@[simp] theorem State.setReg_vcl (blk off : Nat) (v : Word) (idx : Nat) : (s.setReg blk off v idx).vcl = s.vcl := by unfold State.setReg; rfl
@[simp] theorem State.setReg_links (blk off : Nat) (v : Word) (idx : Nat) : (s.setReg blk off v idx).links = s.links := by unfold State.setReg; rfl
@[simp] theorem State.setReg_time (blk off : Nat) (v : Word) (idx : Nat) : (s.setReg blk off v idx).time = s.time := by unfold State.setReg; rfl
@[simp] theorem State.setReg_fuses (blk off : Nat) (v : Word) (idx : Nat) : (s.setReg blk off v idx).fuses = s.fuses := by unfold State.setReg; rfl
@[simp] theorem State.setReg_sec (blk off : Nat) (v : Word) (idx : Nat) : (s.setReg blk off v idx).sec = s.sec := by unfold State.setReg; rfl
@[simp] theorem State.setReg_fwLoad (blk off : Nat) (v : Word) (idx : Nat) : (s.setReg blk off v idx).fwLoad = s.fwLoad := by unfold State.setReg; rfl
@[simp] theorem State.setReg_spdm (blk off : Nat) (v : Word) (idx : Nat) : (s.setReg blk off v idx).spdm = s.spdm := by unfold State.setReg; rfl
@[simp] theorem State.setReg_hkp (blk off : Nat) (v : Word) (idx : Nat) : (s.setReg blk off v idx).hkp = s.hkp := by unfold State.setReg; rfl
@[simp] theorem State.setReg_mgt (blk off : Nat) (v : Word) (idx : Nat) : (s.setReg blk off v idx).mgt = s.mgt := by unfold State.setReg; rfl
@[simp] theorem State.setReg_pwr (blk off : Nat) (v : Word) (idx : Nat) : (s.setReg blk off v idx).pwr = s.pwr := by unfold State.setReg; rfl
@[simp] theorem State.setReg_twin (blk off : Nat) (v : Word) (idx : Nat) : (s.setReg blk off v idx).twin = s.twin := by unfold State.setReg; rfl
@[simp] theorem State.setReg_tune (blk off : Nat) (v : Word) (idx : Nat) : (s.setReg blk off v idx).tune = s.tune := by unfold State.setReg; rfl
@[simp] theorem State.setReg_rings (blk off : Nat) (v : Word) (idx : Nat) : (s.setReg blk off v idx).rings = s.rings := by unfold State.setReg; rfl
@[simp] theorem State.setReg_taken (blk off : Nat) (v : Word) (idx : Nat) : (s.setReg blk off v idx).taken = s.taken := by unfold State.setReg; rfl
@[simp] theorem State.setReg_accepted (blk off : Nat) (v : Word) (idx : Nat) : (s.setReg blk off v idx).accepted = s.accepted := by unfold State.setReg; rfl
@[simp] theorem State.setReg_replies (blk off : Nat) (v : Word) (idx : Nat) : (s.setReg blk off v idx).replies = s.replies := by unfold State.setReg; rfl
@[simp] theorem State.setReg_served (blk off : Nat) (v : Word) (idx : Nat) : (s.setReg blk off v idx).served = s.served := by unfold State.setReg; rfl
@[simp] theorem State.setReg_turn (blk off : Nat) (v : Word) (idx : Nat) : (s.setReg blk off v idx).turn = s.turn := by unfold State.setReg; rfl
@[simp] theorem State.setReg_slowerBase (blk off : Nat) (v : Word) (idx : Nat) : (s.setReg blk off v idx).slowerBase = s.slowerBase := by unfold State.setReg; rfl
@[simp] theorem State.setReg_slowerSize (blk off : Nat) (v : Word) (idx : Nat) : (s.setReg blk off v idx).slowerSize = s.slowerSize := by unfold State.setReg; rfl
@[simp] theorem State.setReg_clients (blk off : Nat) (v : Word) (idx : Nat) : (s.setReg blk off v idx).clients = s.clients := by unfold State.setReg; rfl
@[simp] theorem State.setReg_mem (blk off : Nat) (v : Word) (idx : Nat) : (s.setReg blk off v idx).mem = s.mem := by unfold State.setReg; rfl
@[simp] theorem State.setReg_bad (blk off : Nat) (v : Word) (idx : Nat) : (s.setReg blk off v idx).bad = s.bad := by unfold State.setReg; rfl
@[simp] theorem State.setReg_podTime (blk off : Nat) (v : Word) (idx : Nat) : (s.setReg blk off v idx).podTime = s.podTime := by unfold State.setReg; rfl
@[simp] theorem State.setReg_stopped (blk off : Nat) (v : Word) (idx : Nat) : (s.setReg blk off v idx).stopped = s.stopped := by unfold State.setReg; rfl
@[simp] theorem State.setReg_out (blk off : Nat) (v : Word) (idx : Nat) : (s.setReg blk off v idx).out = s.out := by unfold State.setReg; rfl
@[simp] theorem State.setReg_heldOut (blk off : Nat) (v : Word) (idx : Nat) : (s.setReg blk off v idx).heldOut = s.heldOut := by unfold State.setReg; rfl
@[simp] theorem State.setReg_freeN (blk off : Nat) (v : Word) (idx : Nat) : (s.setReg blk off v idx).freeN = s.freeN := by unfold State.setReg; rfl
@[simp] theorem State.setReg_pending (blk off : Nat) (v : Word) (idx : Nat) : (s.setReg blk off v idx).pending = s.pending := by unfold State.setReg; rfl

/-! State.stick -/

@[simp] theorem State.stick_cores (blk off bits idx : Nat) : (s.stick blk off bits idx).cores = s.cores := by simp only [State.stick, State.setReg_cores]
@[simp] theorem State.stick_syn (blk off bits idx : Nat) : (s.stick blk off bits idx).syn = s.syn := by simp only [State.stick, State.setReg_syn]
@[simp] theorem State.stick_ctxs (blk off bits idx : Nat) : (s.stick blk off bits idx).ctxs = s.ctxs := by simp only [State.stick, State.setReg_ctxs]
@[simp] theorem State.stick_parts (blk off bits idx : Nat) : (s.stick blk off bits idx).parts = s.parts := by simp only [State.stick, State.setReg_parts]
@[simp] theorem State.stick_shape (blk off bits idx : Nat) : (s.stick blk off bits idx).shape = s.shape := by simp only [State.stick, State.setReg_shape]
@[simp] theorem State.stick_tslots (blk off bits idx : Nat) : (s.stick blk off bits idx).tslots = s.tslots := by simp only [State.stick, State.setReg_tslots]
@[simp] theorem State.stick_enc (blk off bits idx : Nat) : (s.stick blk off bits idx).enc = s.enc := by simp only [State.stick, State.setReg_enc]
@[simp] theorem State.stick_rims (blk off bits idx : Nat) : (s.stick blk off bits idx).rims = s.rims := by simp only [State.stick, State.setReg_rims]
@[simp] theorem State.stick_fab (blk off bits idx : Nat) : (s.stick blk off bits idx).fab = s.fab := by simp only [State.stick, State.setReg_fab]
@[simp] theorem State.stick_vcl (blk off bits idx : Nat) : (s.stick blk off bits idx).vcl = s.vcl := by simp only [State.stick, State.setReg_vcl]
@[simp] theorem State.stick_links (blk off bits idx : Nat) : (s.stick blk off bits idx).links = s.links := by simp only [State.stick, State.setReg_links]
@[simp] theorem State.stick_time (blk off bits idx : Nat) : (s.stick blk off bits idx).time = s.time := by simp only [State.stick, State.setReg_time]
@[simp] theorem State.stick_fuses (blk off bits idx : Nat) : (s.stick blk off bits idx).fuses = s.fuses := by simp only [State.stick, State.setReg_fuses]
@[simp] theorem State.stick_sec (blk off bits idx : Nat) : (s.stick blk off bits idx).sec = s.sec := by simp only [State.stick, State.setReg_sec]
@[simp] theorem State.stick_fwLoad (blk off bits idx : Nat) : (s.stick blk off bits idx).fwLoad = s.fwLoad := by simp only [State.stick, State.setReg_fwLoad]
@[simp] theorem State.stick_spdm (blk off bits idx : Nat) : (s.stick blk off bits idx).spdm = s.spdm := by simp only [State.stick, State.setReg_spdm]
@[simp] theorem State.stick_hkp (blk off bits idx : Nat) : (s.stick blk off bits idx).hkp = s.hkp := by simp only [State.stick, State.setReg_hkp]
@[simp] theorem State.stick_mgt (blk off bits idx : Nat) : (s.stick blk off bits idx).mgt = s.mgt := by simp only [State.stick, State.setReg_mgt]
@[simp] theorem State.stick_pwr (blk off bits idx : Nat) : (s.stick blk off bits idx).pwr = s.pwr := by simp only [State.stick, State.setReg_pwr]
@[simp] theorem State.stick_twin (blk off bits idx : Nat) : (s.stick blk off bits idx).twin = s.twin := by simp only [State.stick, State.setReg_twin]
@[simp] theorem State.stick_tune (blk off bits idx : Nat) : (s.stick blk off bits idx).tune = s.tune := by simp only [State.stick, State.setReg_tune]
@[simp] theorem State.stick_rings (blk off bits idx : Nat) : (s.stick blk off bits idx).rings = s.rings := by simp only [State.stick, State.setReg_rings]
@[simp] theorem State.stick_taken (blk off bits idx : Nat) : (s.stick blk off bits idx).taken = s.taken := by simp only [State.stick, State.setReg_taken]
@[simp] theorem State.stick_accepted (blk off bits idx : Nat) : (s.stick blk off bits idx).accepted = s.accepted := by simp only [State.stick, State.setReg_accepted]
@[simp] theorem State.stick_replies (blk off bits idx : Nat) : (s.stick blk off bits idx).replies = s.replies := by simp only [State.stick, State.setReg_replies]
@[simp] theorem State.stick_served (blk off bits idx : Nat) : (s.stick blk off bits idx).served = s.served := by simp only [State.stick, State.setReg_served]
@[simp] theorem State.stick_turn (blk off bits idx : Nat) : (s.stick blk off bits idx).turn = s.turn := by simp only [State.stick, State.setReg_turn]
@[simp] theorem State.stick_slowerBase (blk off bits idx : Nat) : (s.stick blk off bits idx).slowerBase = s.slowerBase := by simp only [State.stick, State.setReg_slowerBase]
@[simp] theorem State.stick_slowerSize (blk off bits idx : Nat) : (s.stick blk off bits idx).slowerSize = s.slowerSize := by simp only [State.stick, State.setReg_slowerSize]
@[simp] theorem State.stick_clients (blk off bits idx : Nat) : (s.stick blk off bits idx).clients = s.clients := by simp only [State.stick, State.setReg_clients]
@[simp] theorem State.stick_mem (blk off bits idx : Nat) : (s.stick blk off bits idx).mem = s.mem := by simp only [State.stick, State.setReg_mem]
@[simp] theorem State.stick_bad (blk off bits idx : Nat) : (s.stick blk off bits idx).bad = s.bad := by simp only [State.stick, State.setReg_bad]
@[simp] theorem State.stick_podTime (blk off bits idx : Nat) : (s.stick blk off bits idx).podTime = s.podTime := by simp only [State.stick, State.setReg_podTime]
@[simp] theorem State.stick_stopped (blk off bits idx : Nat) : (s.stick blk off bits idx).stopped = s.stopped := by simp only [State.stick, State.setReg_stopped]
@[simp] theorem State.stick_out (blk off bits idx : Nat) : (s.stick blk off bits idx).out = s.out := by simp only [State.stick, State.setReg_out]
@[simp] theorem State.stick_heldOut (blk off bits idx : Nat) : (s.stick blk off bits idx).heldOut = s.heldOut := by simp only [State.stick, State.setReg_heldOut]
@[simp] theorem State.stick_freeN (blk off bits idx : Nat) : (s.stick blk off bits idx).freeN = s.freeN := by simp only [State.stick, State.setReg_freeN]
@[simp] theorem State.stick_pending (blk off bits idx : Nat) : (s.stick blk off bits idx).pending = s.pending := by simp only [State.stick, State.setReg_pending]

/-! State.count -/

@[simp] theorem State.count_cores (blk off n idx : Nat) : (s.count blk off n idx).cores = s.cores := by simp only [State.count, State.setReg_cores]
@[simp] theorem State.count_syn (blk off n idx : Nat) : (s.count blk off n idx).syn = s.syn := by simp only [State.count, State.setReg_syn]
@[simp] theorem State.count_ctxs (blk off n idx : Nat) : (s.count blk off n idx).ctxs = s.ctxs := by simp only [State.count, State.setReg_ctxs]
@[simp] theorem State.count_parts (blk off n idx : Nat) : (s.count blk off n idx).parts = s.parts := by simp only [State.count, State.setReg_parts]
@[simp] theorem State.count_shape (blk off n idx : Nat) : (s.count blk off n idx).shape = s.shape := by simp only [State.count, State.setReg_shape]
@[simp] theorem State.count_tslots (blk off n idx : Nat) : (s.count blk off n idx).tslots = s.tslots := by simp only [State.count, State.setReg_tslots]
@[simp] theorem State.count_enc (blk off n idx : Nat) : (s.count blk off n idx).enc = s.enc := by simp only [State.count, State.setReg_enc]
@[simp] theorem State.count_rims (blk off n idx : Nat) : (s.count blk off n idx).rims = s.rims := by simp only [State.count, State.setReg_rims]
@[simp] theorem State.count_fab (blk off n idx : Nat) : (s.count blk off n idx).fab = s.fab := by simp only [State.count, State.setReg_fab]
@[simp] theorem State.count_vcl (blk off n idx : Nat) : (s.count blk off n idx).vcl = s.vcl := by simp only [State.count, State.setReg_vcl]
@[simp] theorem State.count_links (blk off n idx : Nat) : (s.count blk off n idx).links = s.links := by simp only [State.count, State.setReg_links]
@[simp] theorem State.count_time (blk off n idx : Nat) : (s.count blk off n idx).time = s.time := by simp only [State.count, State.setReg_time]
@[simp] theorem State.count_fuses (blk off n idx : Nat) : (s.count blk off n idx).fuses = s.fuses := by simp only [State.count, State.setReg_fuses]
@[simp] theorem State.count_sec (blk off n idx : Nat) : (s.count blk off n idx).sec = s.sec := by simp only [State.count, State.setReg_sec]
@[simp] theorem State.count_fwLoad (blk off n idx : Nat) : (s.count blk off n idx).fwLoad = s.fwLoad := by simp only [State.count, State.setReg_fwLoad]
@[simp] theorem State.count_spdm (blk off n idx : Nat) : (s.count blk off n idx).spdm = s.spdm := by simp only [State.count, State.setReg_spdm]
@[simp] theorem State.count_hkp (blk off n idx : Nat) : (s.count blk off n idx).hkp = s.hkp := by simp only [State.count, State.setReg_hkp]
@[simp] theorem State.count_mgt (blk off n idx : Nat) : (s.count blk off n idx).mgt = s.mgt := by simp only [State.count, State.setReg_mgt]
@[simp] theorem State.count_pwr (blk off n idx : Nat) : (s.count blk off n idx).pwr = s.pwr := by simp only [State.count, State.setReg_pwr]
@[simp] theorem State.count_twin (blk off n idx : Nat) : (s.count blk off n idx).twin = s.twin := by simp only [State.count, State.setReg_twin]
@[simp] theorem State.count_tune (blk off n idx : Nat) : (s.count blk off n idx).tune = s.tune := by simp only [State.count, State.setReg_tune]
@[simp] theorem State.count_rings (blk off n idx : Nat) : (s.count blk off n idx).rings = s.rings := by simp only [State.count, State.setReg_rings]
@[simp] theorem State.count_taken (blk off n idx : Nat) : (s.count blk off n idx).taken = s.taken := by simp only [State.count, State.setReg_taken]
@[simp] theorem State.count_accepted (blk off n idx : Nat) : (s.count blk off n idx).accepted = s.accepted := by simp only [State.count, State.setReg_accepted]
@[simp] theorem State.count_replies (blk off n idx : Nat) : (s.count blk off n idx).replies = s.replies := by simp only [State.count, State.setReg_replies]
@[simp] theorem State.count_served (blk off n idx : Nat) : (s.count blk off n idx).served = s.served := by simp only [State.count, State.setReg_served]
@[simp] theorem State.count_turn (blk off n idx : Nat) : (s.count blk off n idx).turn = s.turn := by simp only [State.count, State.setReg_turn]
@[simp] theorem State.count_slowerBase (blk off n idx : Nat) : (s.count blk off n idx).slowerBase = s.slowerBase := by simp only [State.count, State.setReg_slowerBase]
@[simp] theorem State.count_slowerSize (blk off n idx : Nat) : (s.count blk off n idx).slowerSize = s.slowerSize := by simp only [State.count, State.setReg_slowerSize]
@[simp] theorem State.count_clients (blk off n idx : Nat) : (s.count blk off n idx).clients = s.clients := by simp only [State.count, State.setReg_clients]
@[simp] theorem State.count_mem (blk off n idx : Nat) : (s.count blk off n idx).mem = s.mem := by simp only [State.count, State.setReg_mem]
@[simp] theorem State.count_bad (blk off n idx : Nat) : (s.count blk off n idx).bad = s.bad := by simp only [State.count, State.setReg_bad]
@[simp] theorem State.count_podTime (blk off n idx : Nat) : (s.count blk off n idx).podTime = s.podTime := by simp only [State.count, State.setReg_podTime]
@[simp] theorem State.count_stopped (blk off n idx : Nat) : (s.count blk off n idx).stopped = s.stopped := by simp only [State.count, State.setReg_stopped]
@[simp] theorem State.count_out (blk off n idx : Nat) : (s.count blk off n idx).out = s.out := by simp only [State.count, State.setReg_out]
@[simp] theorem State.count_heldOut (blk off n idx : Nat) : (s.count blk off n idx).heldOut = s.heldOut := by simp only [State.count, State.setReg_heldOut]
@[simp] theorem State.count_freeN (blk off n idx : Nat) : (s.count blk off n idx).freeN = s.freeN := by simp only [State.count, State.setReg_freeN]
@[simp] theorem State.count_pending (blk off n idx : Nat) : (s.count blk off n idx).pending = s.pending := by simp only [State.count, State.setReg_pending]

/-! State.setCtx -/

@[simp] theorem State.setCtx_cores (x : Nat) (v : Ctx) : (s.setCtx x v).cores = s.cores := by unfold State.setCtx; rfl
@[simp] theorem State.setCtx_syn (x : Nat) (v : Ctx) : (s.setCtx x v).syn = s.syn := by unfold State.setCtx; rfl
@[simp] theorem State.setCtx_parts (x : Nat) (v : Ctx) : (s.setCtx x v).parts = s.parts := by unfold State.setCtx; rfl
@[simp] theorem State.setCtx_shape (x : Nat) (v : Ctx) : (s.setCtx x v).shape = s.shape := by unfold State.setCtx; rfl
@[simp] theorem State.setCtx_tslots (x : Nat) (v : Ctx) : (s.setCtx x v).tslots = s.tslots := by unfold State.setCtx; rfl
@[simp] theorem State.setCtx_enc (x : Nat) (v : Ctx) : (s.setCtx x v).enc = s.enc := by unfold State.setCtx; rfl
@[simp] theorem State.setCtx_rims (x : Nat) (v : Ctx) : (s.setCtx x v).rims = s.rims := by unfold State.setCtx; rfl
@[simp] theorem State.setCtx_fab (x : Nat) (v : Ctx) : (s.setCtx x v).fab = s.fab := by unfold State.setCtx; rfl
@[simp] theorem State.setCtx_vcl (x : Nat) (v : Ctx) : (s.setCtx x v).vcl = s.vcl := by unfold State.setCtx; rfl
@[simp] theorem State.setCtx_links (x : Nat) (v : Ctx) : (s.setCtx x v).links = s.links := by unfold State.setCtx; rfl
@[simp] theorem State.setCtx_time (x : Nat) (v : Ctx) : (s.setCtx x v).time = s.time := by unfold State.setCtx; rfl
@[simp] theorem State.setCtx_fuses (x : Nat) (v : Ctx) : (s.setCtx x v).fuses = s.fuses := by unfold State.setCtx; rfl
@[simp] theorem State.setCtx_sec (x : Nat) (v : Ctx) : (s.setCtx x v).sec = s.sec := by unfold State.setCtx; rfl
@[simp] theorem State.setCtx_fwLoad (x : Nat) (v : Ctx) : (s.setCtx x v).fwLoad = s.fwLoad := by unfold State.setCtx; rfl
@[simp] theorem State.setCtx_spdm (x : Nat) (v : Ctx) : (s.setCtx x v).spdm = s.spdm := by unfold State.setCtx; rfl
@[simp] theorem State.setCtx_hkp (x : Nat) (v : Ctx) : (s.setCtx x v).hkp = s.hkp := by unfold State.setCtx; rfl
@[simp] theorem State.setCtx_mgt (x : Nat) (v : Ctx) : (s.setCtx x v).mgt = s.mgt := by unfold State.setCtx; rfl
@[simp] theorem State.setCtx_pwr (x : Nat) (v : Ctx) : (s.setCtx x v).pwr = s.pwr := by unfold State.setCtx; rfl
@[simp] theorem State.setCtx_twin (x : Nat) (v : Ctx) : (s.setCtx x v).twin = s.twin := by unfold State.setCtx; rfl
@[simp] theorem State.setCtx_tune (x : Nat) (v : Ctx) : (s.setCtx x v).tune = s.tune := by unfold State.setCtx; rfl
@[simp] theorem State.setCtx_rings (x : Nat) (v : Ctx) : (s.setCtx x v).rings = s.rings := by unfold State.setCtx; rfl
@[simp] theorem State.setCtx_taken (x : Nat) (v : Ctx) : (s.setCtx x v).taken = s.taken := by unfold State.setCtx; rfl
@[simp] theorem State.setCtx_accepted (x : Nat) (v : Ctx) : (s.setCtx x v).accepted = s.accepted := by unfold State.setCtx; rfl
@[simp] theorem State.setCtx_replies (x : Nat) (v : Ctx) : (s.setCtx x v).replies = s.replies := by unfold State.setCtx; rfl
@[simp] theorem State.setCtx_served (x : Nat) (v : Ctx) : (s.setCtx x v).served = s.served := by unfold State.setCtx; rfl
@[simp] theorem State.setCtx_turn (x : Nat) (v : Ctx) : (s.setCtx x v).turn = s.turn := by unfold State.setCtx; rfl
@[simp] theorem State.setCtx_slowerBase (x : Nat) (v : Ctx) : (s.setCtx x v).slowerBase = s.slowerBase := by unfold State.setCtx; rfl
@[simp] theorem State.setCtx_slowerSize (x : Nat) (v : Ctx) : (s.setCtx x v).slowerSize = s.slowerSize := by unfold State.setCtx; rfl
@[simp] theorem State.setCtx_clients (x : Nat) (v : Ctx) : (s.setCtx x v).clients = s.clients := by unfold State.setCtx; rfl
@[simp] theorem State.setCtx_regs (x : Nat) (v : Ctx) : (s.setCtx x v).regs = s.regs := by unfold State.setCtx; rfl
@[simp] theorem State.setCtx_mem (x : Nat) (v : Ctx) : (s.setCtx x v).mem = s.mem := by unfold State.setCtx; rfl
@[simp] theorem State.setCtx_bad (x : Nat) (v : Ctx) : (s.setCtx x v).bad = s.bad := by unfold State.setCtx; rfl
@[simp] theorem State.setCtx_podTime (x : Nat) (v : Ctx) : (s.setCtx x v).podTime = s.podTime := by unfold State.setCtx; rfl
@[simp] theorem State.setCtx_stopped (x : Nat) (v : Ctx) : (s.setCtx x v).stopped = s.stopped := by unfold State.setCtx; rfl
@[simp] theorem State.setCtx_out (x : Nat) (v : Ctx) : (s.setCtx x v).out = s.out := by unfold State.setCtx; rfl
@[simp] theorem State.setCtx_heldOut (x : Nat) (v : Ctx) : (s.setCtx x v).heldOut = s.heldOut := by unfold State.setCtx; rfl
@[simp] theorem State.setCtx_freeN (x : Nat) (v : Ctx) : (s.setCtx x v).freeN = s.freeN := by unfold State.setCtx; rfl
@[simp] theorem State.setCtx_pending (x : Nat) (v : Ctx) : (s.setCtx x v).pending = s.pending := by unfold State.setCtx; rfl

/-! State.modCore -/

@[simp] theorem State.modCore_syn (c : Fin 16) (f : Core → Core) : (s.modCore c f).syn = s.syn := by unfold State.modCore; rfl
@[simp] theorem State.modCore_ctxs (c : Fin 16) (f : Core → Core) : (s.modCore c f).ctxs = s.ctxs := by unfold State.modCore; rfl
@[simp] theorem State.modCore_parts (c : Fin 16) (f : Core → Core) : (s.modCore c f).parts = s.parts := by unfold State.modCore; rfl
@[simp] theorem State.modCore_shape (c : Fin 16) (f : Core → Core) : (s.modCore c f).shape = s.shape := by unfold State.modCore; rfl
@[simp] theorem State.modCore_tslots (c : Fin 16) (f : Core → Core) : (s.modCore c f).tslots = s.tslots := by unfold State.modCore; rfl
@[simp] theorem State.modCore_enc (c : Fin 16) (f : Core → Core) : (s.modCore c f).enc = s.enc := by unfold State.modCore; rfl
@[simp] theorem State.modCore_rims (c : Fin 16) (f : Core → Core) : (s.modCore c f).rims = s.rims := by unfold State.modCore; rfl
@[simp] theorem State.modCore_fab (c : Fin 16) (f : Core → Core) : (s.modCore c f).fab = s.fab := by unfold State.modCore; rfl
@[simp] theorem State.modCore_vcl (c : Fin 16) (f : Core → Core) : (s.modCore c f).vcl = s.vcl := by unfold State.modCore; rfl
@[simp] theorem State.modCore_links (c : Fin 16) (f : Core → Core) : (s.modCore c f).links = s.links := by unfold State.modCore; rfl
@[simp] theorem State.modCore_time (c : Fin 16) (f : Core → Core) : (s.modCore c f).time = s.time := by unfold State.modCore; rfl
@[simp] theorem State.modCore_fuses (c : Fin 16) (f : Core → Core) : (s.modCore c f).fuses = s.fuses := by unfold State.modCore; rfl
@[simp] theorem State.modCore_sec (c : Fin 16) (f : Core → Core) : (s.modCore c f).sec = s.sec := by unfold State.modCore; rfl
@[simp] theorem State.modCore_fwLoad (c : Fin 16) (f : Core → Core) : (s.modCore c f).fwLoad = s.fwLoad := by unfold State.modCore; rfl
@[simp] theorem State.modCore_spdm (c : Fin 16) (f : Core → Core) : (s.modCore c f).spdm = s.spdm := by unfold State.modCore; rfl
@[simp] theorem State.modCore_hkp (c : Fin 16) (f : Core → Core) : (s.modCore c f).hkp = s.hkp := by unfold State.modCore; rfl
@[simp] theorem State.modCore_mgt (c : Fin 16) (f : Core → Core) : (s.modCore c f).mgt = s.mgt := by unfold State.modCore; rfl
@[simp] theorem State.modCore_pwr (c : Fin 16) (f : Core → Core) : (s.modCore c f).pwr = s.pwr := by unfold State.modCore; rfl
@[simp] theorem State.modCore_twin (c : Fin 16) (f : Core → Core) : (s.modCore c f).twin = s.twin := by unfold State.modCore; rfl
@[simp] theorem State.modCore_tune (c : Fin 16) (f : Core → Core) : (s.modCore c f).tune = s.tune := by unfold State.modCore; rfl
@[simp] theorem State.modCore_rings (c : Fin 16) (f : Core → Core) : (s.modCore c f).rings = s.rings := by unfold State.modCore; rfl
@[simp] theorem State.modCore_taken (c : Fin 16) (f : Core → Core) : (s.modCore c f).taken = s.taken := by unfold State.modCore; rfl
@[simp] theorem State.modCore_accepted (c : Fin 16) (f : Core → Core) : (s.modCore c f).accepted = s.accepted := by unfold State.modCore; rfl
@[simp] theorem State.modCore_replies (c : Fin 16) (f : Core → Core) : (s.modCore c f).replies = s.replies := by unfold State.modCore; rfl
@[simp] theorem State.modCore_served (c : Fin 16) (f : Core → Core) : (s.modCore c f).served = s.served := by unfold State.modCore; rfl
@[simp] theorem State.modCore_turn (c : Fin 16) (f : Core → Core) : (s.modCore c f).turn = s.turn := by unfold State.modCore; rfl
@[simp] theorem State.modCore_slowerBase (c : Fin 16) (f : Core → Core) : (s.modCore c f).slowerBase = s.slowerBase := by unfold State.modCore; rfl
@[simp] theorem State.modCore_slowerSize (c : Fin 16) (f : Core → Core) : (s.modCore c f).slowerSize = s.slowerSize := by unfold State.modCore; rfl
@[simp] theorem State.modCore_clients (c : Fin 16) (f : Core → Core) : (s.modCore c f).clients = s.clients := by unfold State.modCore; rfl
@[simp] theorem State.modCore_regs (c : Fin 16) (f : Core → Core) : (s.modCore c f).regs = s.regs := by unfold State.modCore; rfl
@[simp] theorem State.modCore_mem (c : Fin 16) (f : Core → Core) : (s.modCore c f).mem = s.mem := by unfold State.modCore; rfl
@[simp] theorem State.modCore_bad (c : Fin 16) (f : Core → Core) : (s.modCore c f).bad = s.bad := by unfold State.modCore; rfl
@[simp] theorem State.modCore_podTime (c : Fin 16) (f : Core → Core) : (s.modCore c f).podTime = s.podTime := by unfold State.modCore; rfl
@[simp] theorem State.modCore_stopped (c : Fin 16) (f : Core → Core) : (s.modCore c f).stopped = s.stopped := by unfold State.modCore; rfl
@[simp] theorem State.modCore_out (c : Fin 16) (f : Core → Core) : (s.modCore c f).out = s.out := by unfold State.modCore; rfl
@[simp] theorem State.modCore_heldOut (c : Fin 16) (f : Core → Core) : (s.modCore c f).heldOut = s.heldOut := by unfold State.modCore; rfl
@[simp] theorem State.modCore_freeN (c : Fin 16) (f : Core → Core) : (s.modCore c f).freeN = s.freeN := by unfold State.modCore; rfl
@[simp] theorem State.modCore_pending (c : Fin 16) (f : Core → Core) : (s.modCore c f).pending = s.pending := by unfold State.modCore; rfl

/-! State.modEng -/

@[simp] theorem State.modEng_syn (c : Fin 16) (e : Eng) (f : Engine → Engine) : (s.modEng c e f).syn = s.syn := by simp only [State.modEng, State.modCore_syn]
@[simp] theorem State.modEng_ctxs (c : Fin 16) (e : Eng) (f : Engine → Engine) : (s.modEng c e f).ctxs = s.ctxs := by simp only [State.modEng, State.modCore_ctxs]
@[simp] theorem State.modEng_parts (c : Fin 16) (e : Eng) (f : Engine → Engine) : (s.modEng c e f).parts = s.parts := by simp only [State.modEng, State.modCore_parts]
@[simp] theorem State.modEng_shape (c : Fin 16) (e : Eng) (f : Engine → Engine) : (s.modEng c e f).shape = s.shape := by simp only [State.modEng, State.modCore_shape]
@[simp] theorem State.modEng_tslots (c : Fin 16) (e : Eng) (f : Engine → Engine) : (s.modEng c e f).tslots = s.tslots := by simp only [State.modEng, State.modCore_tslots]
@[simp] theorem State.modEng_enc (c : Fin 16) (e : Eng) (f : Engine → Engine) : (s.modEng c e f).enc = s.enc := by simp only [State.modEng, State.modCore_enc]
@[simp] theorem State.modEng_rims (c : Fin 16) (e : Eng) (f : Engine → Engine) : (s.modEng c e f).rims = s.rims := by simp only [State.modEng, State.modCore_rims]
@[simp] theorem State.modEng_fab (c : Fin 16) (e : Eng) (f : Engine → Engine) : (s.modEng c e f).fab = s.fab := by simp only [State.modEng, State.modCore_fab]
@[simp] theorem State.modEng_vcl (c : Fin 16) (e : Eng) (f : Engine → Engine) : (s.modEng c e f).vcl = s.vcl := by simp only [State.modEng, State.modCore_vcl]
@[simp] theorem State.modEng_links (c : Fin 16) (e : Eng) (f : Engine → Engine) : (s.modEng c e f).links = s.links := by simp only [State.modEng, State.modCore_links]
@[simp] theorem State.modEng_time (c : Fin 16) (e : Eng) (f : Engine → Engine) : (s.modEng c e f).time = s.time := by simp only [State.modEng, State.modCore_time]
@[simp] theorem State.modEng_fuses (c : Fin 16) (e : Eng) (f : Engine → Engine) : (s.modEng c e f).fuses = s.fuses := by simp only [State.modEng, State.modCore_fuses]
@[simp] theorem State.modEng_sec (c : Fin 16) (e : Eng) (f : Engine → Engine) : (s.modEng c e f).sec = s.sec := by simp only [State.modEng, State.modCore_sec]
@[simp] theorem State.modEng_fwLoad (c : Fin 16) (e : Eng) (f : Engine → Engine) : (s.modEng c e f).fwLoad = s.fwLoad := by simp only [State.modEng, State.modCore_fwLoad]
@[simp] theorem State.modEng_spdm (c : Fin 16) (e : Eng) (f : Engine → Engine) : (s.modEng c e f).spdm = s.spdm := by simp only [State.modEng, State.modCore_spdm]
@[simp] theorem State.modEng_hkp (c : Fin 16) (e : Eng) (f : Engine → Engine) : (s.modEng c e f).hkp = s.hkp := by simp only [State.modEng, State.modCore_hkp]
@[simp] theorem State.modEng_mgt (c : Fin 16) (e : Eng) (f : Engine → Engine) : (s.modEng c e f).mgt = s.mgt := by simp only [State.modEng, State.modCore_mgt]
@[simp] theorem State.modEng_pwr (c : Fin 16) (e : Eng) (f : Engine → Engine) : (s.modEng c e f).pwr = s.pwr := by simp only [State.modEng, State.modCore_pwr]
@[simp] theorem State.modEng_twin (c : Fin 16) (e : Eng) (f : Engine → Engine) : (s.modEng c e f).twin = s.twin := by simp only [State.modEng, State.modCore_twin]
@[simp] theorem State.modEng_tune (c : Fin 16) (e : Eng) (f : Engine → Engine) : (s.modEng c e f).tune = s.tune := by simp only [State.modEng, State.modCore_tune]
@[simp] theorem State.modEng_rings (c : Fin 16) (e : Eng) (f : Engine → Engine) : (s.modEng c e f).rings = s.rings := by simp only [State.modEng, State.modCore_rings]
@[simp] theorem State.modEng_taken (c : Fin 16) (e : Eng) (f : Engine → Engine) : (s.modEng c e f).taken = s.taken := by simp only [State.modEng, State.modCore_taken]
@[simp] theorem State.modEng_accepted (c : Fin 16) (e : Eng) (f : Engine → Engine) : (s.modEng c e f).accepted = s.accepted := by simp only [State.modEng, State.modCore_accepted]
@[simp] theorem State.modEng_replies (c : Fin 16) (e : Eng) (f : Engine → Engine) : (s.modEng c e f).replies = s.replies := by simp only [State.modEng, State.modCore_replies]
@[simp] theorem State.modEng_served (c : Fin 16) (e : Eng) (f : Engine → Engine) : (s.modEng c e f).served = s.served := by simp only [State.modEng, State.modCore_served]
@[simp] theorem State.modEng_turn (c : Fin 16) (e : Eng) (f : Engine → Engine) : (s.modEng c e f).turn = s.turn := by simp only [State.modEng, State.modCore_turn]
@[simp] theorem State.modEng_slowerBase (c : Fin 16) (e : Eng) (f : Engine → Engine) : (s.modEng c e f).slowerBase = s.slowerBase := by simp only [State.modEng, State.modCore_slowerBase]
@[simp] theorem State.modEng_slowerSize (c : Fin 16) (e : Eng) (f : Engine → Engine) : (s.modEng c e f).slowerSize = s.slowerSize := by simp only [State.modEng, State.modCore_slowerSize]
@[simp] theorem State.modEng_clients (c : Fin 16) (e : Eng) (f : Engine → Engine) : (s.modEng c e f).clients = s.clients := by simp only [State.modEng, State.modCore_clients]
@[simp] theorem State.modEng_regs (c : Fin 16) (e : Eng) (f : Engine → Engine) : (s.modEng c e f).regs = s.regs := by simp only [State.modEng, State.modCore_regs]
@[simp] theorem State.modEng_mem (c : Fin 16) (e : Eng) (f : Engine → Engine) : (s.modEng c e f).mem = s.mem := by simp only [State.modEng, State.modCore_mem]
@[simp] theorem State.modEng_bad (c : Fin 16) (e : Eng) (f : Engine → Engine) : (s.modEng c e f).bad = s.bad := by simp only [State.modEng, State.modCore_bad]
@[simp] theorem State.modEng_podTime (c : Fin 16) (e : Eng) (f : Engine → Engine) : (s.modEng c e f).podTime = s.podTime := by simp only [State.modEng, State.modCore_podTime]
@[simp] theorem State.modEng_stopped (c : Fin 16) (e : Eng) (f : Engine → Engine) : (s.modEng c e f).stopped = s.stopped := by simp only [State.modEng, State.modCore_stopped]
@[simp] theorem State.modEng_out (c : Fin 16) (e : Eng) (f : Engine → Engine) : (s.modEng c e f).out = s.out := by simp only [State.modEng, State.modCore_out]
@[simp] theorem State.modEng_heldOut (c : Fin 16) (e : Eng) (f : Engine → Engine) : (s.modEng c e f).heldOut = s.heldOut := by simp only [State.modEng, State.modCore_heldOut]
@[simp] theorem State.modEng_freeN (c : Fin 16) (e : Eng) (f : Engine → Engine) : (s.modEng c e f).freeN = s.freeN := by simp only [State.modEng, State.modCore_freeN]
@[simp] theorem State.modEng_pending (c : Fin 16) (e : Eng) (f : Engine → Engine) : (s.modEng c e f).pending = s.pending := by simp only [State.modEng, State.modCore_pending]

/-! State.modRim -/

@[simp] theorem State.modRim_cores (p : Fin 4) (f : Rim → Rim) : (s.modRim p f).cores = s.cores := by unfold State.modRim; rfl
@[simp] theorem State.modRim_syn (p : Fin 4) (f : Rim → Rim) : (s.modRim p f).syn = s.syn := by unfold State.modRim; rfl
@[simp] theorem State.modRim_ctxs (p : Fin 4) (f : Rim → Rim) : (s.modRim p f).ctxs = s.ctxs := by unfold State.modRim; rfl
@[simp] theorem State.modRim_parts (p : Fin 4) (f : Rim → Rim) : (s.modRim p f).parts = s.parts := by unfold State.modRim; rfl
@[simp] theorem State.modRim_shape (p : Fin 4) (f : Rim → Rim) : (s.modRim p f).shape = s.shape := by unfold State.modRim; rfl
@[simp] theorem State.modRim_tslots (p : Fin 4) (f : Rim → Rim) : (s.modRim p f).tslots = s.tslots := by unfold State.modRim; rfl
@[simp] theorem State.modRim_enc (p : Fin 4) (f : Rim → Rim) : (s.modRim p f).enc = s.enc := by unfold State.modRim; rfl
@[simp] theorem State.modRim_fab (p : Fin 4) (f : Rim → Rim) : (s.modRim p f).fab = s.fab := by unfold State.modRim; rfl
@[simp] theorem State.modRim_vcl (p : Fin 4) (f : Rim → Rim) : (s.modRim p f).vcl = s.vcl := by unfold State.modRim; rfl
@[simp] theorem State.modRim_links (p : Fin 4) (f : Rim → Rim) : (s.modRim p f).links = s.links := by unfold State.modRim; rfl
@[simp] theorem State.modRim_time (p : Fin 4) (f : Rim → Rim) : (s.modRim p f).time = s.time := by unfold State.modRim; rfl
@[simp] theorem State.modRim_fuses (p : Fin 4) (f : Rim → Rim) : (s.modRim p f).fuses = s.fuses := by unfold State.modRim; rfl
@[simp] theorem State.modRim_sec (p : Fin 4) (f : Rim → Rim) : (s.modRim p f).sec = s.sec := by unfold State.modRim; rfl
@[simp] theorem State.modRim_fwLoad (p : Fin 4) (f : Rim → Rim) : (s.modRim p f).fwLoad = s.fwLoad := by unfold State.modRim; rfl
@[simp] theorem State.modRim_spdm (p : Fin 4) (f : Rim → Rim) : (s.modRim p f).spdm = s.spdm := by unfold State.modRim; rfl
@[simp] theorem State.modRim_hkp (p : Fin 4) (f : Rim → Rim) : (s.modRim p f).hkp = s.hkp := by unfold State.modRim; rfl
@[simp] theorem State.modRim_mgt (p : Fin 4) (f : Rim → Rim) : (s.modRim p f).mgt = s.mgt := by unfold State.modRim; rfl
@[simp] theorem State.modRim_pwr (p : Fin 4) (f : Rim → Rim) : (s.modRim p f).pwr = s.pwr := by unfold State.modRim; rfl
@[simp] theorem State.modRim_twin (p : Fin 4) (f : Rim → Rim) : (s.modRim p f).twin = s.twin := by unfold State.modRim; rfl
@[simp] theorem State.modRim_tune (p : Fin 4) (f : Rim → Rim) : (s.modRim p f).tune = s.tune := by unfold State.modRim; rfl
@[simp] theorem State.modRim_rings (p : Fin 4) (f : Rim → Rim) : (s.modRim p f).rings = s.rings := by unfold State.modRim; rfl
@[simp] theorem State.modRim_taken (p : Fin 4) (f : Rim → Rim) : (s.modRim p f).taken = s.taken := by unfold State.modRim; rfl
@[simp] theorem State.modRim_accepted (p : Fin 4) (f : Rim → Rim) : (s.modRim p f).accepted = s.accepted := by unfold State.modRim; rfl
@[simp] theorem State.modRim_replies (p : Fin 4) (f : Rim → Rim) : (s.modRim p f).replies = s.replies := by unfold State.modRim; rfl
@[simp] theorem State.modRim_served (p : Fin 4) (f : Rim → Rim) : (s.modRim p f).served = s.served := by unfold State.modRim; rfl
@[simp] theorem State.modRim_turn (p : Fin 4) (f : Rim → Rim) : (s.modRim p f).turn = s.turn := by unfold State.modRim; rfl
@[simp] theorem State.modRim_slowerBase (p : Fin 4) (f : Rim → Rim) : (s.modRim p f).slowerBase = s.slowerBase := by unfold State.modRim; rfl
@[simp] theorem State.modRim_slowerSize (p : Fin 4) (f : Rim → Rim) : (s.modRim p f).slowerSize = s.slowerSize := by unfold State.modRim; rfl
@[simp] theorem State.modRim_clients (p : Fin 4) (f : Rim → Rim) : (s.modRim p f).clients = s.clients := by unfold State.modRim; rfl
@[simp] theorem State.modRim_regs (p : Fin 4) (f : Rim → Rim) : (s.modRim p f).regs = s.regs := by unfold State.modRim; rfl
@[simp] theorem State.modRim_mem (p : Fin 4) (f : Rim → Rim) : (s.modRim p f).mem = s.mem := by unfold State.modRim; rfl
@[simp] theorem State.modRim_bad (p : Fin 4) (f : Rim → Rim) : (s.modRim p f).bad = s.bad := by unfold State.modRim; rfl
@[simp] theorem State.modRim_podTime (p : Fin 4) (f : Rim → Rim) : (s.modRim p f).podTime = s.podTime := by unfold State.modRim; rfl
@[simp] theorem State.modRim_stopped (p : Fin 4) (f : Rim → Rim) : (s.modRim p f).stopped = s.stopped := by unfold State.modRim; rfl
@[simp] theorem State.modRim_out (p : Fin 4) (f : Rim → Rim) : (s.modRim p f).out = s.out := by unfold State.modRim; rfl
@[simp] theorem State.modRim_heldOut (p : Fin 4) (f : Rim → Rim) : (s.modRim p f).heldOut = s.heldOut := by unfold State.modRim; rfl
@[simp] theorem State.modRim_freeN (p : Fin 4) (f : Rim → Rim) : (s.modRim p f).freeN = s.freeN := by unfold State.modRim; rfl
@[simp] theorem State.modRim_pending (p : Fin 4) (f : Rim → Rim) : (s.modRim p f).pending = s.pending := by unfold State.modRim; rfl

/-! State.modPart -/

@[simp] theorem State.modPart_cores (p : Fin 4) (f : Part → Part) : (s.modPart p f).cores = s.cores := by unfold State.modPart; rfl
@[simp] theorem State.modPart_syn (p : Fin 4) (f : Part → Part) : (s.modPart p f).syn = s.syn := by unfold State.modPart; rfl
@[simp] theorem State.modPart_ctxs (p : Fin 4) (f : Part → Part) : (s.modPart p f).ctxs = s.ctxs := by unfold State.modPart; rfl
@[simp] theorem State.modPart_shape (p : Fin 4) (f : Part → Part) : (s.modPart p f).shape = s.shape := by unfold State.modPart; rfl
@[simp] theorem State.modPart_tslots (p : Fin 4) (f : Part → Part) : (s.modPart p f).tslots = s.tslots := by unfold State.modPart; rfl
@[simp] theorem State.modPart_enc (p : Fin 4) (f : Part → Part) : (s.modPart p f).enc = s.enc := by unfold State.modPart; rfl
@[simp] theorem State.modPart_rims (p : Fin 4) (f : Part → Part) : (s.modPart p f).rims = s.rims := by unfold State.modPart; rfl
@[simp] theorem State.modPart_fab (p : Fin 4) (f : Part → Part) : (s.modPart p f).fab = s.fab := by unfold State.modPart; rfl
@[simp] theorem State.modPart_vcl (p : Fin 4) (f : Part → Part) : (s.modPart p f).vcl = s.vcl := by unfold State.modPart; rfl
@[simp] theorem State.modPart_links (p : Fin 4) (f : Part → Part) : (s.modPart p f).links = s.links := by unfold State.modPart; rfl
@[simp] theorem State.modPart_time (p : Fin 4) (f : Part → Part) : (s.modPart p f).time = s.time := by unfold State.modPart; rfl
@[simp] theorem State.modPart_fuses (p : Fin 4) (f : Part → Part) : (s.modPart p f).fuses = s.fuses := by unfold State.modPart; rfl
@[simp] theorem State.modPart_sec (p : Fin 4) (f : Part → Part) : (s.modPart p f).sec = s.sec := by unfold State.modPart; rfl
@[simp] theorem State.modPart_fwLoad (p : Fin 4) (f : Part → Part) : (s.modPart p f).fwLoad = s.fwLoad := by unfold State.modPart; rfl
@[simp] theorem State.modPart_spdm (p : Fin 4) (f : Part → Part) : (s.modPart p f).spdm = s.spdm := by unfold State.modPart; rfl
@[simp] theorem State.modPart_hkp (p : Fin 4) (f : Part → Part) : (s.modPart p f).hkp = s.hkp := by unfold State.modPart; rfl
@[simp] theorem State.modPart_mgt (p : Fin 4) (f : Part → Part) : (s.modPart p f).mgt = s.mgt := by unfold State.modPart; rfl
@[simp] theorem State.modPart_pwr (p : Fin 4) (f : Part → Part) : (s.modPart p f).pwr = s.pwr := by unfold State.modPart; rfl
@[simp] theorem State.modPart_twin (p : Fin 4) (f : Part → Part) : (s.modPart p f).twin = s.twin := by unfold State.modPart; rfl
@[simp] theorem State.modPart_tune (p : Fin 4) (f : Part → Part) : (s.modPart p f).tune = s.tune := by unfold State.modPart; rfl
@[simp] theorem State.modPart_rings (p : Fin 4) (f : Part → Part) : (s.modPart p f).rings = s.rings := by unfold State.modPart; rfl
@[simp] theorem State.modPart_taken (p : Fin 4) (f : Part → Part) : (s.modPart p f).taken = s.taken := by unfold State.modPart; rfl
@[simp] theorem State.modPart_accepted (p : Fin 4) (f : Part → Part) : (s.modPart p f).accepted = s.accepted := by unfold State.modPart; rfl
@[simp] theorem State.modPart_replies (p : Fin 4) (f : Part → Part) : (s.modPart p f).replies = s.replies := by unfold State.modPart; rfl
@[simp] theorem State.modPart_served (p : Fin 4) (f : Part → Part) : (s.modPart p f).served = s.served := by unfold State.modPart; rfl
@[simp] theorem State.modPart_turn (p : Fin 4) (f : Part → Part) : (s.modPart p f).turn = s.turn := by unfold State.modPart; rfl
@[simp] theorem State.modPart_slowerBase (p : Fin 4) (f : Part → Part) : (s.modPart p f).slowerBase = s.slowerBase := by unfold State.modPart; rfl
@[simp] theorem State.modPart_slowerSize (p : Fin 4) (f : Part → Part) : (s.modPart p f).slowerSize = s.slowerSize := by unfold State.modPart; rfl
@[simp] theorem State.modPart_clients (p : Fin 4) (f : Part → Part) : (s.modPart p f).clients = s.clients := by unfold State.modPart; rfl
@[simp] theorem State.modPart_regs (p : Fin 4) (f : Part → Part) : (s.modPart p f).regs = s.regs := by unfold State.modPart; rfl
@[simp] theorem State.modPart_mem (p : Fin 4) (f : Part → Part) : (s.modPart p f).mem = s.mem := by unfold State.modPart; rfl
@[simp] theorem State.modPart_bad (p : Fin 4) (f : Part → Part) : (s.modPart p f).bad = s.bad := by unfold State.modPart; rfl
@[simp] theorem State.modPart_podTime (p : Fin 4) (f : Part → Part) : (s.modPart p f).podTime = s.podTime := by unfold State.modPart; rfl
@[simp] theorem State.modPart_stopped (p : Fin 4) (f : Part → Part) : (s.modPart p f).stopped = s.stopped := by unfold State.modPart; rfl
@[simp] theorem State.modPart_out (p : Fin 4) (f : Part → Part) : (s.modPart p f).out = s.out := by unfold State.modPart; rfl
@[simp] theorem State.modPart_heldOut (p : Fin 4) (f : Part → Part) : (s.modPart p f).heldOut = s.heldOut := by unfold State.modPart; rfl
@[simp] theorem State.modPart_freeN (p : Fin 4) (f : Part → Part) : (s.modPart p f).freeN = s.freeN := by unfold State.modPart; rfl
@[simp] theorem State.modPart_pending (p : Fin 4) (f : Part → Part) : (s.modPart p f).pending = s.pending := by unfold State.modPart; rfl

/-! State.modRing -/

@[simp] theorem State.modRing_cores (r : Fin 64) (f : Ring → Ring) : (s.modRing r f).cores = s.cores := by unfold State.modRing; rfl
@[simp] theorem State.modRing_syn (r : Fin 64) (f : Ring → Ring) : (s.modRing r f).syn = s.syn := by unfold State.modRing; rfl
@[simp] theorem State.modRing_ctxs (r : Fin 64) (f : Ring → Ring) : (s.modRing r f).ctxs = s.ctxs := by unfold State.modRing; rfl
@[simp] theorem State.modRing_parts (r : Fin 64) (f : Ring → Ring) : (s.modRing r f).parts = s.parts := by unfold State.modRing; rfl
@[simp] theorem State.modRing_shape (r : Fin 64) (f : Ring → Ring) : (s.modRing r f).shape = s.shape := by unfold State.modRing; rfl
@[simp] theorem State.modRing_tslots (r : Fin 64) (f : Ring → Ring) : (s.modRing r f).tslots = s.tslots := by unfold State.modRing; rfl
@[simp] theorem State.modRing_enc (r : Fin 64) (f : Ring → Ring) : (s.modRing r f).enc = s.enc := by unfold State.modRing; rfl
@[simp] theorem State.modRing_rims (r : Fin 64) (f : Ring → Ring) : (s.modRing r f).rims = s.rims := by unfold State.modRing; rfl
@[simp] theorem State.modRing_fab (r : Fin 64) (f : Ring → Ring) : (s.modRing r f).fab = s.fab := by unfold State.modRing; rfl
@[simp] theorem State.modRing_vcl (r : Fin 64) (f : Ring → Ring) : (s.modRing r f).vcl = s.vcl := by unfold State.modRing; rfl
@[simp] theorem State.modRing_links (r : Fin 64) (f : Ring → Ring) : (s.modRing r f).links = s.links := by unfold State.modRing; rfl
@[simp] theorem State.modRing_time (r : Fin 64) (f : Ring → Ring) : (s.modRing r f).time = s.time := by unfold State.modRing; rfl
@[simp] theorem State.modRing_fuses (r : Fin 64) (f : Ring → Ring) : (s.modRing r f).fuses = s.fuses := by unfold State.modRing; rfl
@[simp] theorem State.modRing_sec (r : Fin 64) (f : Ring → Ring) : (s.modRing r f).sec = s.sec := by unfold State.modRing; rfl
@[simp] theorem State.modRing_fwLoad (r : Fin 64) (f : Ring → Ring) : (s.modRing r f).fwLoad = s.fwLoad := by unfold State.modRing; rfl
@[simp] theorem State.modRing_spdm (r : Fin 64) (f : Ring → Ring) : (s.modRing r f).spdm = s.spdm := by unfold State.modRing; rfl
@[simp] theorem State.modRing_hkp (r : Fin 64) (f : Ring → Ring) : (s.modRing r f).hkp = s.hkp := by unfold State.modRing; rfl
@[simp] theorem State.modRing_mgt (r : Fin 64) (f : Ring → Ring) : (s.modRing r f).mgt = s.mgt := by unfold State.modRing; rfl
@[simp] theorem State.modRing_pwr (r : Fin 64) (f : Ring → Ring) : (s.modRing r f).pwr = s.pwr := by unfold State.modRing; rfl
@[simp] theorem State.modRing_twin (r : Fin 64) (f : Ring → Ring) : (s.modRing r f).twin = s.twin := by unfold State.modRing; rfl
@[simp] theorem State.modRing_tune (r : Fin 64) (f : Ring → Ring) : (s.modRing r f).tune = s.tune := by unfold State.modRing; rfl
@[simp] theorem State.modRing_taken (r : Fin 64) (f : Ring → Ring) : (s.modRing r f).taken = s.taken := by unfold State.modRing; rfl
@[simp] theorem State.modRing_accepted (r : Fin 64) (f : Ring → Ring) : (s.modRing r f).accepted = s.accepted := by unfold State.modRing; rfl
@[simp] theorem State.modRing_replies (r : Fin 64) (f : Ring → Ring) : (s.modRing r f).replies = s.replies := by unfold State.modRing; rfl
@[simp] theorem State.modRing_served (r : Fin 64) (f : Ring → Ring) : (s.modRing r f).served = s.served := by unfold State.modRing; rfl
@[simp] theorem State.modRing_turn (r : Fin 64) (f : Ring → Ring) : (s.modRing r f).turn = s.turn := by unfold State.modRing; rfl
@[simp] theorem State.modRing_slowerBase (r : Fin 64) (f : Ring → Ring) : (s.modRing r f).slowerBase = s.slowerBase := by unfold State.modRing; rfl
@[simp] theorem State.modRing_slowerSize (r : Fin 64) (f : Ring → Ring) : (s.modRing r f).slowerSize = s.slowerSize := by unfold State.modRing; rfl
@[simp] theorem State.modRing_clients (r : Fin 64) (f : Ring → Ring) : (s.modRing r f).clients = s.clients := by unfold State.modRing; rfl
@[simp] theorem State.modRing_regs (r : Fin 64) (f : Ring → Ring) : (s.modRing r f).regs = s.regs := by unfold State.modRing; rfl
@[simp] theorem State.modRing_mem (r : Fin 64) (f : Ring → Ring) : (s.modRing r f).mem = s.mem := by unfold State.modRing; rfl
@[simp] theorem State.modRing_bad (r : Fin 64) (f : Ring → Ring) : (s.modRing r f).bad = s.bad := by unfold State.modRing; rfl
@[simp] theorem State.modRing_podTime (r : Fin 64) (f : Ring → Ring) : (s.modRing r f).podTime = s.podTime := by unfold State.modRing; rfl
@[simp] theorem State.modRing_stopped (r : Fin 64) (f : Ring → Ring) : (s.modRing r f).stopped = s.stopped := by unfold State.modRing; rfl
@[simp] theorem State.modRing_out (r : Fin 64) (f : Ring → Ring) : (s.modRing r f).out = s.out := by unfold State.modRing; rfl
@[simp] theorem State.modRing_heldOut (r : Fin 64) (f : Ring → Ring) : (s.modRing r f).heldOut = s.heldOut := by unfold State.modRing; rfl
@[simp] theorem State.modRing_freeN (r : Fin 64) (f : Ring → Ring) : (s.modRing r f).freeN = s.freeN := by unfold State.modRing; rfl
@[simp] theorem State.modRing_pending (r : Fin 64) (f : Ring → Ring) : (s.modRing r f).pending = s.pending := by unfold State.modRing; rfl

/-! State.modLink -/

@[simp] theorem State.modLink_cores (l : Fin 20) (f : Link → Link) : (s.modLink l f).cores = s.cores := by unfold State.modLink; rfl
@[simp] theorem State.modLink_syn (l : Fin 20) (f : Link → Link) : (s.modLink l f).syn = s.syn := by unfold State.modLink; rfl
@[simp] theorem State.modLink_ctxs (l : Fin 20) (f : Link → Link) : (s.modLink l f).ctxs = s.ctxs := by unfold State.modLink; rfl
@[simp] theorem State.modLink_parts (l : Fin 20) (f : Link → Link) : (s.modLink l f).parts = s.parts := by unfold State.modLink; rfl
@[simp] theorem State.modLink_shape (l : Fin 20) (f : Link → Link) : (s.modLink l f).shape = s.shape := by unfold State.modLink; rfl
@[simp] theorem State.modLink_tslots (l : Fin 20) (f : Link → Link) : (s.modLink l f).tslots = s.tslots := by unfold State.modLink; rfl
@[simp] theorem State.modLink_enc (l : Fin 20) (f : Link → Link) : (s.modLink l f).enc = s.enc := by unfold State.modLink; rfl
@[simp] theorem State.modLink_rims (l : Fin 20) (f : Link → Link) : (s.modLink l f).rims = s.rims := by unfold State.modLink; rfl
@[simp] theorem State.modLink_fab (l : Fin 20) (f : Link → Link) : (s.modLink l f).fab = s.fab := by unfold State.modLink; rfl
@[simp] theorem State.modLink_vcl (l : Fin 20) (f : Link → Link) : (s.modLink l f).vcl = s.vcl := by unfold State.modLink; rfl
@[simp] theorem State.modLink_time (l : Fin 20) (f : Link → Link) : (s.modLink l f).time = s.time := by unfold State.modLink; rfl
@[simp] theorem State.modLink_fuses (l : Fin 20) (f : Link → Link) : (s.modLink l f).fuses = s.fuses := by unfold State.modLink; rfl
@[simp] theorem State.modLink_sec (l : Fin 20) (f : Link → Link) : (s.modLink l f).sec = s.sec := by unfold State.modLink; rfl
@[simp] theorem State.modLink_fwLoad (l : Fin 20) (f : Link → Link) : (s.modLink l f).fwLoad = s.fwLoad := by unfold State.modLink; rfl
@[simp] theorem State.modLink_spdm (l : Fin 20) (f : Link → Link) : (s.modLink l f).spdm = s.spdm := by unfold State.modLink; rfl
@[simp] theorem State.modLink_hkp (l : Fin 20) (f : Link → Link) : (s.modLink l f).hkp = s.hkp := by unfold State.modLink; rfl
@[simp] theorem State.modLink_mgt (l : Fin 20) (f : Link → Link) : (s.modLink l f).mgt = s.mgt := by unfold State.modLink; rfl
@[simp] theorem State.modLink_pwr (l : Fin 20) (f : Link → Link) : (s.modLink l f).pwr = s.pwr := by unfold State.modLink; rfl
@[simp] theorem State.modLink_twin (l : Fin 20) (f : Link → Link) : (s.modLink l f).twin = s.twin := by unfold State.modLink; rfl
@[simp] theorem State.modLink_tune (l : Fin 20) (f : Link → Link) : (s.modLink l f).tune = s.tune := by unfold State.modLink; rfl
@[simp] theorem State.modLink_rings (l : Fin 20) (f : Link → Link) : (s.modLink l f).rings = s.rings := by unfold State.modLink; rfl
@[simp] theorem State.modLink_taken (l : Fin 20) (f : Link → Link) : (s.modLink l f).taken = s.taken := by unfold State.modLink; rfl
@[simp] theorem State.modLink_accepted (l : Fin 20) (f : Link → Link) : (s.modLink l f).accepted = s.accepted := by unfold State.modLink; rfl
@[simp] theorem State.modLink_replies (l : Fin 20) (f : Link → Link) : (s.modLink l f).replies = s.replies := by unfold State.modLink; rfl
@[simp] theorem State.modLink_served (l : Fin 20) (f : Link → Link) : (s.modLink l f).served = s.served := by unfold State.modLink; rfl
@[simp] theorem State.modLink_turn (l : Fin 20) (f : Link → Link) : (s.modLink l f).turn = s.turn := by unfold State.modLink; rfl
@[simp] theorem State.modLink_slowerBase (l : Fin 20) (f : Link → Link) : (s.modLink l f).slowerBase = s.slowerBase := by unfold State.modLink; rfl
@[simp] theorem State.modLink_slowerSize (l : Fin 20) (f : Link → Link) : (s.modLink l f).slowerSize = s.slowerSize := by unfold State.modLink; rfl
@[simp] theorem State.modLink_clients (l : Fin 20) (f : Link → Link) : (s.modLink l f).clients = s.clients := by unfold State.modLink; rfl
@[simp] theorem State.modLink_regs (l : Fin 20) (f : Link → Link) : (s.modLink l f).regs = s.regs := by unfold State.modLink; rfl
@[simp] theorem State.modLink_mem (l : Fin 20) (f : Link → Link) : (s.modLink l f).mem = s.mem := by unfold State.modLink; rfl
@[simp] theorem State.modLink_bad (l : Fin 20) (f : Link → Link) : (s.modLink l f).bad = s.bad := by unfold State.modLink; rfl
@[simp] theorem State.modLink_podTime (l : Fin 20) (f : Link → Link) : (s.modLink l f).podTime = s.podTime := by unfold State.modLink; rfl
@[simp] theorem State.modLink_stopped (l : Fin 20) (f : Link → Link) : (s.modLink l f).stopped = s.stopped := by unfold State.modLink; rfl
@[simp] theorem State.modLink_out (l : Fin 20) (f : Link → Link) : (s.modLink l f).out = s.out := by unfold State.modLink; rfl
@[simp] theorem State.modLink_heldOut (l : Fin 20) (f : Link → Link) : (s.modLink l f).heldOut = s.heldOut := by unfold State.modLink; rfl
@[simp] theorem State.modLink_freeN (l : Fin 20) (f : Link → Link) : (s.modLink l f).freeN = s.freeN := by unfold State.modLink; rfl
@[simp] theorem State.modLink_pending (l : Fin 20) (f : Link → Link) : (s.modLink l f).pending = s.pending := by unfold State.modLink; rfl

/-! State.setObj -/

@[simp] theorem State.setObj_cores (i : Nat) (w : Word) : (s.setObj i w).cores = s.cores := by unfold State.setObj; rfl
@[simp] theorem State.setObj_ctxs (i : Nat) (w : Word) : (s.setObj i w).ctxs = s.ctxs := by unfold State.setObj; rfl
@[simp] theorem State.setObj_parts (i : Nat) (w : Word) : (s.setObj i w).parts = s.parts := by unfold State.setObj; rfl
@[simp] theorem State.setObj_shape (i : Nat) (w : Word) : (s.setObj i w).shape = s.shape := by unfold State.setObj; rfl
@[simp] theorem State.setObj_tslots (i : Nat) (w : Word) : (s.setObj i w).tslots = s.tslots := by unfold State.setObj; rfl
@[simp] theorem State.setObj_enc (i : Nat) (w : Word) : (s.setObj i w).enc = s.enc := by unfold State.setObj; rfl
@[simp] theorem State.setObj_rims (i : Nat) (w : Word) : (s.setObj i w).rims = s.rims := by unfold State.setObj; rfl
@[simp] theorem State.setObj_fab (i : Nat) (w : Word) : (s.setObj i w).fab = s.fab := by unfold State.setObj; rfl
@[simp] theorem State.setObj_vcl (i : Nat) (w : Word) : (s.setObj i w).vcl = s.vcl := by unfold State.setObj; rfl
@[simp] theorem State.setObj_links (i : Nat) (w : Word) : (s.setObj i w).links = s.links := by unfold State.setObj; rfl
@[simp] theorem State.setObj_time (i : Nat) (w : Word) : (s.setObj i w).time = s.time := by unfold State.setObj; rfl
@[simp] theorem State.setObj_fuses (i : Nat) (w : Word) : (s.setObj i w).fuses = s.fuses := by unfold State.setObj; rfl
@[simp] theorem State.setObj_sec (i : Nat) (w : Word) : (s.setObj i w).sec = s.sec := by unfold State.setObj; rfl
@[simp] theorem State.setObj_fwLoad (i : Nat) (w : Word) : (s.setObj i w).fwLoad = s.fwLoad := by unfold State.setObj; rfl
@[simp] theorem State.setObj_spdm (i : Nat) (w : Word) : (s.setObj i w).spdm = s.spdm := by unfold State.setObj; rfl
@[simp] theorem State.setObj_hkp (i : Nat) (w : Word) : (s.setObj i w).hkp = s.hkp := by unfold State.setObj; rfl
@[simp] theorem State.setObj_mgt (i : Nat) (w : Word) : (s.setObj i w).mgt = s.mgt := by unfold State.setObj; rfl
@[simp] theorem State.setObj_pwr (i : Nat) (w : Word) : (s.setObj i w).pwr = s.pwr := by unfold State.setObj; rfl
@[simp] theorem State.setObj_twin (i : Nat) (w : Word) : (s.setObj i w).twin = s.twin := by unfold State.setObj; rfl
@[simp] theorem State.setObj_tune (i : Nat) (w : Word) : (s.setObj i w).tune = s.tune := by unfold State.setObj; rfl
@[simp] theorem State.setObj_rings (i : Nat) (w : Word) : (s.setObj i w).rings = s.rings := by unfold State.setObj; rfl
@[simp] theorem State.setObj_taken (i : Nat) (w : Word) : (s.setObj i w).taken = s.taken := by unfold State.setObj; rfl
@[simp] theorem State.setObj_accepted (i : Nat) (w : Word) : (s.setObj i w).accepted = s.accepted := by unfold State.setObj; rfl
@[simp] theorem State.setObj_replies (i : Nat) (w : Word) : (s.setObj i w).replies = s.replies := by unfold State.setObj; rfl
@[simp] theorem State.setObj_served (i : Nat) (w : Word) : (s.setObj i w).served = s.served := by unfold State.setObj; rfl
@[simp] theorem State.setObj_turn (i : Nat) (w : Word) : (s.setObj i w).turn = s.turn := by unfold State.setObj; rfl
@[simp] theorem State.setObj_slowerBase (i : Nat) (w : Word) : (s.setObj i w).slowerBase = s.slowerBase := by unfold State.setObj; rfl
@[simp] theorem State.setObj_slowerSize (i : Nat) (w : Word) : (s.setObj i w).slowerSize = s.slowerSize := by unfold State.setObj; rfl
@[simp] theorem State.setObj_clients (i : Nat) (w : Word) : (s.setObj i w).clients = s.clients := by unfold State.setObj; rfl
@[simp] theorem State.setObj_regs (i : Nat) (w : Word) : (s.setObj i w).regs = s.regs := by unfold State.setObj; rfl
@[simp] theorem State.setObj_mem (i : Nat) (w : Word) : (s.setObj i w).mem = s.mem := by unfold State.setObj; rfl
@[simp] theorem State.setObj_bad (i : Nat) (w : Word) : (s.setObj i w).bad = s.bad := by unfold State.setObj; rfl
@[simp] theorem State.setObj_podTime (i : Nat) (w : Word) : (s.setObj i w).podTime = s.podTime := by unfold State.setObj; rfl
@[simp] theorem State.setObj_stopped (i : Nat) (w : Word) : (s.setObj i w).stopped = s.stopped := by unfold State.setObj; rfl
@[simp] theorem State.setObj_out (i : Nat) (w : Word) : (s.setObj i w).out = s.out := by unfold State.setObj; rfl
@[simp] theorem State.setObj_heldOut (i : Nat) (w : Word) : (s.setObj i w).heldOut = s.heldOut := by unfold State.setObj; rfl
@[simp] theorem State.setObj_freeN (i : Nat) (w : Word) : (s.setObj i w).freeN = s.freeN := by unfold State.setObj; rfl
@[simp] theorem State.setObj_pending (i : Nat) (w : Word) : (s.setObj i w).pending = s.pending := by unfold State.setObj; rfl

/-! State.setGhq -/

@[simp] theorem State.setGhq_cores (n : Nat) (q : Ghq) : (s.setGhq n q).cores = s.cores := by unfold State.setGhq; rfl
@[simp] theorem State.setGhq_ctxs (n : Nat) (q : Ghq) : (s.setGhq n q).ctxs = s.ctxs := by unfold State.setGhq; rfl
@[simp] theorem State.setGhq_parts (n : Nat) (q : Ghq) : (s.setGhq n q).parts = s.parts := by unfold State.setGhq; rfl
@[simp] theorem State.setGhq_shape (n : Nat) (q : Ghq) : (s.setGhq n q).shape = s.shape := by unfold State.setGhq; rfl
@[simp] theorem State.setGhq_tslots (n : Nat) (q : Ghq) : (s.setGhq n q).tslots = s.tslots := by unfold State.setGhq; rfl
@[simp] theorem State.setGhq_enc (n : Nat) (q : Ghq) : (s.setGhq n q).enc = s.enc := by unfold State.setGhq; rfl
@[simp] theorem State.setGhq_rims (n : Nat) (q : Ghq) : (s.setGhq n q).rims = s.rims := by unfold State.setGhq; rfl
@[simp] theorem State.setGhq_fab (n : Nat) (q : Ghq) : (s.setGhq n q).fab = s.fab := by unfold State.setGhq; rfl
@[simp] theorem State.setGhq_vcl (n : Nat) (q : Ghq) : (s.setGhq n q).vcl = s.vcl := by unfold State.setGhq; rfl
@[simp] theorem State.setGhq_links (n : Nat) (q : Ghq) : (s.setGhq n q).links = s.links := by unfold State.setGhq; rfl
@[simp] theorem State.setGhq_time (n : Nat) (q : Ghq) : (s.setGhq n q).time = s.time := by unfold State.setGhq; rfl
@[simp] theorem State.setGhq_fuses (n : Nat) (q : Ghq) : (s.setGhq n q).fuses = s.fuses := by unfold State.setGhq; rfl
@[simp] theorem State.setGhq_sec (n : Nat) (q : Ghq) : (s.setGhq n q).sec = s.sec := by unfold State.setGhq; rfl
@[simp] theorem State.setGhq_fwLoad (n : Nat) (q : Ghq) : (s.setGhq n q).fwLoad = s.fwLoad := by unfold State.setGhq; rfl
@[simp] theorem State.setGhq_spdm (n : Nat) (q : Ghq) : (s.setGhq n q).spdm = s.spdm := by unfold State.setGhq; rfl
@[simp] theorem State.setGhq_hkp (n : Nat) (q : Ghq) : (s.setGhq n q).hkp = s.hkp := by unfold State.setGhq; rfl
@[simp] theorem State.setGhq_mgt (n : Nat) (q : Ghq) : (s.setGhq n q).mgt = s.mgt := by unfold State.setGhq; rfl
@[simp] theorem State.setGhq_pwr (n : Nat) (q : Ghq) : (s.setGhq n q).pwr = s.pwr := by unfold State.setGhq; rfl
@[simp] theorem State.setGhq_twin (n : Nat) (q : Ghq) : (s.setGhq n q).twin = s.twin := by unfold State.setGhq; rfl
@[simp] theorem State.setGhq_tune (n : Nat) (q : Ghq) : (s.setGhq n q).tune = s.tune := by unfold State.setGhq; rfl
@[simp] theorem State.setGhq_rings (n : Nat) (q : Ghq) : (s.setGhq n q).rings = s.rings := by unfold State.setGhq; rfl
@[simp] theorem State.setGhq_taken (n : Nat) (q : Ghq) : (s.setGhq n q).taken = s.taken := by unfold State.setGhq; rfl
@[simp] theorem State.setGhq_accepted (n : Nat) (q : Ghq) : (s.setGhq n q).accepted = s.accepted := by unfold State.setGhq; rfl
@[simp] theorem State.setGhq_replies (n : Nat) (q : Ghq) : (s.setGhq n q).replies = s.replies := by unfold State.setGhq; rfl
@[simp] theorem State.setGhq_served (n : Nat) (q : Ghq) : (s.setGhq n q).served = s.served := by unfold State.setGhq; rfl
@[simp] theorem State.setGhq_turn (n : Nat) (q : Ghq) : (s.setGhq n q).turn = s.turn := by unfold State.setGhq; rfl
@[simp] theorem State.setGhq_slowerBase (n : Nat) (q : Ghq) : (s.setGhq n q).slowerBase = s.slowerBase := by unfold State.setGhq; rfl
@[simp] theorem State.setGhq_slowerSize (n : Nat) (q : Ghq) : (s.setGhq n q).slowerSize = s.slowerSize := by unfold State.setGhq; rfl
@[simp] theorem State.setGhq_clients (n : Nat) (q : Ghq) : (s.setGhq n q).clients = s.clients := by unfold State.setGhq; rfl
@[simp] theorem State.setGhq_regs (n : Nat) (q : Ghq) : (s.setGhq n q).regs = s.regs := by unfold State.setGhq; rfl
@[simp] theorem State.setGhq_mem (n : Nat) (q : Ghq) : (s.setGhq n q).mem = s.mem := by unfold State.setGhq; rfl
@[simp] theorem State.setGhq_bad (n : Nat) (q : Ghq) : (s.setGhq n q).bad = s.bad := by unfold State.setGhq; rfl
@[simp] theorem State.setGhq_podTime (n : Nat) (q : Ghq) : (s.setGhq n q).podTime = s.podTime := by unfold State.setGhq; rfl
@[simp] theorem State.setGhq_stopped (n : Nat) (q : Ghq) : (s.setGhq n q).stopped = s.stopped := by unfold State.setGhq; rfl
@[simp] theorem State.setGhq_out (n : Nat) (q : Ghq) : (s.setGhq n q).out = s.out := by unfold State.setGhq; rfl
@[simp] theorem State.setGhq_heldOut (n : Nat) (q : Ghq) : (s.setGhq n q).heldOut = s.heldOut := by unfold State.setGhq; rfl
@[simp] theorem State.setGhq_freeN (n : Nat) (q : Ghq) : (s.setGhq n q).freeN = s.freeN := by unfold State.setGhq; rfl
@[simp] theorem State.setGhq_pending (n : Nat) (q : Ghq) : (s.setGhq n q).pending = s.pending := by unfold State.setGhq; rfl

/-! State.send -/

@[simp] theorem State.send_cores (m : OutMsg) : (s.send m).cores = s.cores := by unfold State.send; rfl
@[simp] theorem State.send_syn (m : OutMsg) : (s.send m).syn = s.syn := by unfold State.send; rfl
@[simp] theorem State.send_ctxs (m : OutMsg) : (s.send m).ctxs = s.ctxs := by unfold State.send; rfl
@[simp] theorem State.send_parts (m : OutMsg) : (s.send m).parts = s.parts := by unfold State.send; rfl
@[simp] theorem State.send_shape (m : OutMsg) : (s.send m).shape = s.shape := by unfold State.send; rfl
@[simp] theorem State.send_tslots (m : OutMsg) : (s.send m).tslots = s.tslots := by unfold State.send; rfl
@[simp] theorem State.send_enc (m : OutMsg) : (s.send m).enc = s.enc := by unfold State.send; rfl
@[simp] theorem State.send_rims (m : OutMsg) : (s.send m).rims = s.rims := by unfold State.send; rfl
@[simp] theorem State.send_fab (m : OutMsg) : (s.send m).fab = s.fab := by unfold State.send; rfl
@[simp] theorem State.send_vcl (m : OutMsg) : (s.send m).vcl = s.vcl := by unfold State.send; rfl
@[simp] theorem State.send_links (m : OutMsg) : (s.send m).links = s.links := by unfold State.send; rfl
@[simp] theorem State.send_time (m : OutMsg) : (s.send m).time = s.time := by unfold State.send; rfl
@[simp] theorem State.send_fuses (m : OutMsg) : (s.send m).fuses = s.fuses := by unfold State.send; rfl
@[simp] theorem State.send_sec (m : OutMsg) : (s.send m).sec = s.sec := by unfold State.send; rfl
@[simp] theorem State.send_fwLoad (m : OutMsg) : (s.send m).fwLoad = s.fwLoad := by unfold State.send; rfl
@[simp] theorem State.send_spdm (m : OutMsg) : (s.send m).spdm = s.spdm := by unfold State.send; rfl
@[simp] theorem State.send_hkp (m : OutMsg) : (s.send m).hkp = s.hkp := by unfold State.send; rfl
@[simp] theorem State.send_mgt (m : OutMsg) : (s.send m).mgt = s.mgt := by unfold State.send; rfl
@[simp] theorem State.send_pwr (m : OutMsg) : (s.send m).pwr = s.pwr := by unfold State.send; rfl
@[simp] theorem State.send_twin (m : OutMsg) : (s.send m).twin = s.twin := by unfold State.send; rfl
@[simp] theorem State.send_tune (m : OutMsg) : (s.send m).tune = s.tune := by unfold State.send; rfl
@[simp] theorem State.send_rings (m : OutMsg) : (s.send m).rings = s.rings := by unfold State.send; rfl
@[simp] theorem State.send_taken (m : OutMsg) : (s.send m).taken = s.taken := by unfold State.send; rfl
@[simp] theorem State.send_accepted (m : OutMsg) : (s.send m).accepted = s.accepted := by unfold State.send; rfl
@[simp] theorem State.send_replies (m : OutMsg) : (s.send m).replies = s.replies := by unfold State.send; rfl
@[simp] theorem State.send_served (m : OutMsg) : (s.send m).served = s.served := by unfold State.send; rfl
@[simp] theorem State.send_turn (m : OutMsg) : (s.send m).turn = s.turn := by unfold State.send; rfl
@[simp] theorem State.send_slowerBase (m : OutMsg) : (s.send m).slowerBase = s.slowerBase := by unfold State.send; rfl
@[simp] theorem State.send_slowerSize (m : OutMsg) : (s.send m).slowerSize = s.slowerSize := by unfold State.send; rfl
@[simp] theorem State.send_clients (m : OutMsg) : (s.send m).clients = s.clients := by unfold State.send; rfl
@[simp] theorem State.send_regs (m : OutMsg) : (s.send m).regs = s.regs := by unfold State.send; rfl
@[simp] theorem State.send_mem (m : OutMsg) : (s.send m).mem = s.mem := by unfold State.send; rfl
@[simp] theorem State.send_bad (m : OutMsg) : (s.send m).bad = s.bad := by unfold State.send; rfl
@[simp] theorem State.send_podTime (m : OutMsg) : (s.send m).podTime = s.podTime := by unfold State.send; rfl
@[simp] theorem State.send_stopped (m : OutMsg) : (s.send m).stopped = s.stopped := by unfold State.send; rfl
@[simp] theorem State.send_heldOut (m : OutMsg) : (s.send m).heldOut = s.heldOut := by unfold State.send; rfl
@[simp] theorem State.send_freeN (m : OutMsg) : (s.send m).freeN = s.freeN := by unfold State.send; rfl
@[simp] theorem State.send_pending (m : OutMsg) : (s.send m).pending = s.pending := by unfold State.send; rfl

/-! State.vclPost -/

@[simp] theorem State.vclPost_cores (m : VclMsg) : (s.vclPost m).cores = s.cores := by unfold State.vclPost; rfl
@[simp] theorem State.vclPost_syn (m : VclMsg) : (s.vclPost m).syn = s.syn := by unfold State.vclPost; rfl
@[simp] theorem State.vclPost_ctxs (m : VclMsg) : (s.vclPost m).ctxs = s.ctxs := by unfold State.vclPost; rfl
@[simp] theorem State.vclPost_parts (m : VclMsg) : (s.vclPost m).parts = s.parts := by unfold State.vclPost; rfl
@[simp] theorem State.vclPost_shape (m : VclMsg) : (s.vclPost m).shape = s.shape := by unfold State.vclPost; rfl
@[simp] theorem State.vclPost_tslots (m : VclMsg) : (s.vclPost m).tslots = s.tslots := by unfold State.vclPost; rfl
@[simp] theorem State.vclPost_enc (m : VclMsg) : (s.vclPost m).enc = s.enc := by unfold State.vclPost; rfl
@[simp] theorem State.vclPost_rims (m : VclMsg) : (s.vclPost m).rims = s.rims := by unfold State.vclPost; rfl
@[simp] theorem State.vclPost_fab (m : VclMsg) : (s.vclPost m).fab = s.fab := by unfold State.vclPost; rfl
@[simp] theorem State.vclPost_links (m : VclMsg) : (s.vclPost m).links = s.links := by unfold State.vclPost; rfl
@[simp] theorem State.vclPost_time (m : VclMsg) : (s.vclPost m).time = s.time := by unfold State.vclPost; rfl
@[simp] theorem State.vclPost_fuses (m : VclMsg) : (s.vclPost m).fuses = s.fuses := by unfold State.vclPost; rfl
@[simp] theorem State.vclPost_sec (m : VclMsg) : (s.vclPost m).sec = s.sec := by unfold State.vclPost; rfl
@[simp] theorem State.vclPost_fwLoad (m : VclMsg) : (s.vclPost m).fwLoad = s.fwLoad := by unfold State.vclPost; rfl
@[simp] theorem State.vclPost_spdm (m : VclMsg) : (s.vclPost m).spdm = s.spdm := by unfold State.vclPost; rfl
@[simp] theorem State.vclPost_hkp (m : VclMsg) : (s.vclPost m).hkp = s.hkp := by unfold State.vclPost; rfl
@[simp] theorem State.vclPost_mgt (m : VclMsg) : (s.vclPost m).mgt = s.mgt := by unfold State.vclPost; rfl
@[simp] theorem State.vclPost_pwr (m : VclMsg) : (s.vclPost m).pwr = s.pwr := by unfold State.vclPost; rfl
@[simp] theorem State.vclPost_twin (m : VclMsg) : (s.vclPost m).twin = s.twin := by unfold State.vclPost; rfl
@[simp] theorem State.vclPost_tune (m : VclMsg) : (s.vclPost m).tune = s.tune := by unfold State.vclPost; rfl
@[simp] theorem State.vclPost_rings (m : VclMsg) : (s.vclPost m).rings = s.rings := by unfold State.vclPost; rfl
@[simp] theorem State.vclPost_taken (m : VclMsg) : (s.vclPost m).taken = s.taken := by unfold State.vclPost; rfl
@[simp] theorem State.vclPost_accepted (m : VclMsg) : (s.vclPost m).accepted = s.accepted := by unfold State.vclPost; rfl
@[simp] theorem State.vclPost_replies (m : VclMsg) : (s.vclPost m).replies = s.replies := by unfold State.vclPost; rfl
@[simp] theorem State.vclPost_served (m : VclMsg) : (s.vclPost m).served = s.served := by unfold State.vclPost; rfl
@[simp] theorem State.vclPost_turn (m : VclMsg) : (s.vclPost m).turn = s.turn := by unfold State.vclPost; rfl
@[simp] theorem State.vclPost_slowerBase (m : VclMsg) : (s.vclPost m).slowerBase = s.slowerBase := by unfold State.vclPost; rfl
@[simp] theorem State.vclPost_slowerSize (m : VclMsg) : (s.vclPost m).slowerSize = s.slowerSize := by unfold State.vclPost; rfl
@[simp] theorem State.vclPost_clients (m : VclMsg) : (s.vclPost m).clients = s.clients := by unfold State.vclPost; rfl
@[simp] theorem State.vclPost_regs (m : VclMsg) : (s.vclPost m).regs = s.regs := by unfold State.vclPost; rfl
@[simp] theorem State.vclPost_mem (m : VclMsg) : (s.vclPost m).mem = s.mem := by unfold State.vclPost; rfl
@[simp] theorem State.vclPost_bad (m : VclMsg) : (s.vclPost m).bad = s.bad := by unfold State.vclPost; rfl
@[simp] theorem State.vclPost_podTime (m : VclMsg) : (s.vclPost m).podTime = s.podTime := by unfold State.vclPost; rfl
@[simp] theorem State.vclPost_stopped (m : VclMsg) : (s.vclPost m).stopped = s.stopped := by unfold State.vclPost; rfl
@[simp] theorem State.vclPost_out (m : VclMsg) : (s.vclPost m).out = s.out := by unfold State.vclPost; rfl
@[simp] theorem State.vclPost_heldOut (m : VclMsg) : (s.vclPost m).heldOut = s.heldOut := by unfold State.vclPost; rfl
@[simp] theorem State.vclPost_freeN (m : VclMsg) : (s.vclPost m).freeN = s.freeN := by unfold State.vclPost; rfl
@[simp] theorem State.vclPost_pending (m : VclMsg) : (s.vclPost m).pending = s.pending := by unfold State.vclPost; rfl

/-! State.vclHeard -/

@[simp] theorem State.vclHeard_cores (cls : Fin 3) (slots : Nat) : (s.vclHeard cls slots).cores = s.cores := by unfold State.vclHeard; rfl
@[simp] theorem State.vclHeard_syn (cls : Fin 3) (slots : Nat) : (s.vclHeard cls slots).syn = s.syn := by unfold State.vclHeard; rfl
@[simp] theorem State.vclHeard_ctxs (cls : Fin 3) (slots : Nat) : (s.vclHeard cls slots).ctxs = s.ctxs := by unfold State.vclHeard; rfl
@[simp] theorem State.vclHeard_parts (cls : Fin 3) (slots : Nat) : (s.vclHeard cls slots).parts = s.parts := by unfold State.vclHeard; rfl
@[simp] theorem State.vclHeard_shape (cls : Fin 3) (slots : Nat) : (s.vclHeard cls slots).shape = s.shape := by unfold State.vclHeard; rfl
@[simp] theorem State.vclHeard_tslots (cls : Fin 3) (slots : Nat) : (s.vclHeard cls slots).tslots = s.tslots := by unfold State.vclHeard; rfl
@[simp] theorem State.vclHeard_enc (cls : Fin 3) (slots : Nat) : (s.vclHeard cls slots).enc = s.enc := by unfold State.vclHeard; rfl
@[simp] theorem State.vclHeard_rims (cls : Fin 3) (slots : Nat) : (s.vclHeard cls slots).rims = s.rims := by unfold State.vclHeard; rfl
@[simp] theorem State.vclHeard_fab (cls : Fin 3) (slots : Nat) : (s.vclHeard cls slots).fab = s.fab := by unfold State.vclHeard; rfl
@[simp] theorem State.vclHeard_links (cls : Fin 3) (slots : Nat) : (s.vclHeard cls slots).links = s.links := by unfold State.vclHeard; rfl
@[simp] theorem State.vclHeard_time (cls : Fin 3) (slots : Nat) : (s.vclHeard cls slots).time = s.time := by unfold State.vclHeard; rfl
@[simp] theorem State.vclHeard_fuses (cls : Fin 3) (slots : Nat) : (s.vclHeard cls slots).fuses = s.fuses := by unfold State.vclHeard; rfl
@[simp] theorem State.vclHeard_sec (cls : Fin 3) (slots : Nat) : (s.vclHeard cls slots).sec = s.sec := by unfold State.vclHeard; rfl
@[simp] theorem State.vclHeard_fwLoad (cls : Fin 3) (slots : Nat) : (s.vclHeard cls slots).fwLoad = s.fwLoad := by unfold State.vclHeard; rfl
@[simp] theorem State.vclHeard_spdm (cls : Fin 3) (slots : Nat) : (s.vclHeard cls slots).spdm = s.spdm := by unfold State.vclHeard; rfl
@[simp] theorem State.vclHeard_hkp (cls : Fin 3) (slots : Nat) : (s.vclHeard cls slots).hkp = s.hkp := by unfold State.vclHeard; rfl
@[simp] theorem State.vclHeard_mgt (cls : Fin 3) (slots : Nat) : (s.vclHeard cls slots).mgt = s.mgt := by unfold State.vclHeard; rfl
@[simp] theorem State.vclHeard_pwr (cls : Fin 3) (slots : Nat) : (s.vclHeard cls slots).pwr = s.pwr := by unfold State.vclHeard; rfl
@[simp] theorem State.vclHeard_twin (cls : Fin 3) (slots : Nat) : (s.vclHeard cls slots).twin = s.twin := by unfold State.vclHeard; rfl
@[simp] theorem State.vclHeard_tune (cls : Fin 3) (slots : Nat) : (s.vclHeard cls slots).tune = s.tune := by unfold State.vclHeard; rfl
@[simp] theorem State.vclHeard_rings (cls : Fin 3) (slots : Nat) : (s.vclHeard cls slots).rings = s.rings := by unfold State.vclHeard; rfl
@[simp] theorem State.vclHeard_taken (cls : Fin 3) (slots : Nat) : (s.vclHeard cls slots).taken = s.taken := by unfold State.vclHeard; rfl
@[simp] theorem State.vclHeard_accepted (cls : Fin 3) (slots : Nat) : (s.vclHeard cls slots).accepted = s.accepted := by unfold State.vclHeard; rfl
@[simp] theorem State.vclHeard_replies (cls : Fin 3) (slots : Nat) : (s.vclHeard cls slots).replies = s.replies := by unfold State.vclHeard; rfl
@[simp] theorem State.vclHeard_served (cls : Fin 3) (slots : Nat) : (s.vclHeard cls slots).served = s.served := by unfold State.vclHeard; rfl
@[simp] theorem State.vclHeard_turn (cls : Fin 3) (slots : Nat) : (s.vclHeard cls slots).turn = s.turn := by unfold State.vclHeard; rfl
@[simp] theorem State.vclHeard_slowerBase (cls : Fin 3) (slots : Nat) : (s.vclHeard cls slots).slowerBase = s.slowerBase := by unfold State.vclHeard; rfl
@[simp] theorem State.vclHeard_slowerSize (cls : Fin 3) (slots : Nat) : (s.vclHeard cls slots).slowerSize = s.slowerSize := by unfold State.vclHeard; rfl
@[simp] theorem State.vclHeard_clients (cls : Fin 3) (slots : Nat) : (s.vclHeard cls slots).clients = s.clients := by unfold State.vclHeard; rfl
@[simp] theorem State.vclHeard_regs (cls : Fin 3) (slots : Nat) : (s.vclHeard cls slots).regs = s.regs := by unfold State.vclHeard; rfl
@[simp] theorem State.vclHeard_mem (cls : Fin 3) (slots : Nat) : (s.vclHeard cls slots).mem = s.mem := by unfold State.vclHeard; rfl
@[simp] theorem State.vclHeard_bad (cls : Fin 3) (slots : Nat) : (s.vclHeard cls slots).bad = s.bad := by unfold State.vclHeard; rfl
@[simp] theorem State.vclHeard_podTime (cls : Fin 3) (slots : Nat) : (s.vclHeard cls slots).podTime = s.podTime := by unfold State.vclHeard; rfl
@[simp] theorem State.vclHeard_stopped (cls : Fin 3) (slots : Nat) : (s.vclHeard cls slots).stopped = s.stopped := by unfold State.vclHeard; rfl
@[simp] theorem State.vclHeard_out (cls : Fin 3) (slots : Nat) : (s.vclHeard cls slots).out = s.out := by unfold State.vclHeard; rfl
@[simp] theorem State.vclHeard_heldOut (cls : Fin 3) (slots : Nat) : (s.vclHeard cls slots).heldOut = s.heldOut := by unfold State.vclHeard; rfl
@[simp] theorem State.vclHeard_freeN (cls : Fin 3) (slots : Nat) : (s.vclHeard cls slots).freeN = s.freeN := by unfold State.vclHeard; rfl
@[simp] theorem State.vclHeard_pending (cls : Fin 3) (slots : Nat) : (s.vclHeard cls slots).pending = s.pending := by unfold State.vclHeard; rfl

/-! State.pokeN -/

@[simp] theorem State.pokeN_cores (a : Nat) (bs : Bytes) : (s.pokeN a bs).cores = s.cores := by unfold State.pokeN; rfl
@[simp] theorem State.pokeN_syn (a : Nat) (bs : Bytes) : (s.pokeN a bs).syn = s.syn := by unfold State.pokeN; rfl
@[simp] theorem State.pokeN_ctxs (a : Nat) (bs : Bytes) : (s.pokeN a bs).ctxs = s.ctxs := by unfold State.pokeN; rfl
@[simp] theorem State.pokeN_parts (a : Nat) (bs : Bytes) : (s.pokeN a bs).parts = s.parts := by unfold State.pokeN; rfl
@[simp] theorem State.pokeN_shape (a : Nat) (bs : Bytes) : (s.pokeN a bs).shape = s.shape := by unfold State.pokeN; rfl
@[simp] theorem State.pokeN_tslots (a : Nat) (bs : Bytes) : (s.pokeN a bs).tslots = s.tslots := by unfold State.pokeN; rfl
@[simp] theorem State.pokeN_enc (a : Nat) (bs : Bytes) : (s.pokeN a bs).enc = s.enc := by unfold State.pokeN; rfl
@[simp] theorem State.pokeN_rims (a : Nat) (bs : Bytes) : (s.pokeN a bs).rims = s.rims := by unfold State.pokeN; rfl
@[simp] theorem State.pokeN_fab (a : Nat) (bs : Bytes) : (s.pokeN a bs).fab = s.fab := by unfold State.pokeN; rfl
@[simp] theorem State.pokeN_vcl (a : Nat) (bs : Bytes) : (s.pokeN a bs).vcl = s.vcl := by unfold State.pokeN; rfl
@[simp] theorem State.pokeN_links (a : Nat) (bs : Bytes) : (s.pokeN a bs).links = s.links := by unfold State.pokeN; rfl
@[simp] theorem State.pokeN_time (a : Nat) (bs : Bytes) : (s.pokeN a bs).time = s.time := by unfold State.pokeN; rfl
@[simp] theorem State.pokeN_fuses (a : Nat) (bs : Bytes) : (s.pokeN a bs).fuses = s.fuses := by unfold State.pokeN; rfl
@[simp] theorem State.pokeN_sec (a : Nat) (bs : Bytes) : (s.pokeN a bs).sec = s.sec := by unfold State.pokeN; rfl
@[simp] theorem State.pokeN_fwLoad (a : Nat) (bs : Bytes) : (s.pokeN a bs).fwLoad = s.fwLoad := by unfold State.pokeN; rfl
@[simp] theorem State.pokeN_spdm (a : Nat) (bs : Bytes) : (s.pokeN a bs).spdm = s.spdm := by unfold State.pokeN; rfl
@[simp] theorem State.pokeN_hkp (a : Nat) (bs : Bytes) : (s.pokeN a bs).hkp = s.hkp := by unfold State.pokeN; rfl
@[simp] theorem State.pokeN_mgt (a : Nat) (bs : Bytes) : (s.pokeN a bs).mgt = s.mgt := by unfold State.pokeN; rfl
@[simp] theorem State.pokeN_pwr (a : Nat) (bs : Bytes) : (s.pokeN a bs).pwr = s.pwr := by unfold State.pokeN; rfl
@[simp] theorem State.pokeN_twin (a : Nat) (bs : Bytes) : (s.pokeN a bs).twin = s.twin := by unfold State.pokeN; rfl
@[simp] theorem State.pokeN_tune (a : Nat) (bs : Bytes) : (s.pokeN a bs).tune = s.tune := by unfold State.pokeN; rfl
@[simp] theorem State.pokeN_rings (a : Nat) (bs : Bytes) : (s.pokeN a bs).rings = s.rings := by unfold State.pokeN; rfl
@[simp] theorem State.pokeN_taken (a : Nat) (bs : Bytes) : (s.pokeN a bs).taken = s.taken := by unfold State.pokeN; rfl
@[simp] theorem State.pokeN_accepted (a : Nat) (bs : Bytes) : (s.pokeN a bs).accepted = s.accepted := by unfold State.pokeN; rfl
@[simp] theorem State.pokeN_replies (a : Nat) (bs : Bytes) : (s.pokeN a bs).replies = s.replies := by unfold State.pokeN; rfl
@[simp] theorem State.pokeN_served (a : Nat) (bs : Bytes) : (s.pokeN a bs).served = s.served := by unfold State.pokeN; rfl
@[simp] theorem State.pokeN_turn (a : Nat) (bs : Bytes) : (s.pokeN a bs).turn = s.turn := by unfold State.pokeN; rfl
@[simp] theorem State.pokeN_slowerBase (a : Nat) (bs : Bytes) : (s.pokeN a bs).slowerBase = s.slowerBase := by unfold State.pokeN; rfl
@[simp] theorem State.pokeN_slowerSize (a : Nat) (bs : Bytes) : (s.pokeN a bs).slowerSize = s.slowerSize := by unfold State.pokeN; rfl
@[simp] theorem State.pokeN_clients (a : Nat) (bs : Bytes) : (s.pokeN a bs).clients = s.clients := by unfold State.pokeN; rfl
@[simp] theorem State.pokeN_regs (a : Nat) (bs : Bytes) : (s.pokeN a bs).regs = s.regs := by unfold State.pokeN; rfl
@[simp] theorem State.pokeN_bad (a : Nat) (bs : Bytes) : (s.pokeN a bs).bad = s.bad := by unfold State.pokeN; rfl
@[simp] theorem State.pokeN_podTime (a : Nat) (bs : Bytes) : (s.pokeN a bs).podTime = s.podTime := by unfold State.pokeN; rfl
@[simp] theorem State.pokeN_stopped (a : Nat) (bs : Bytes) : (s.pokeN a bs).stopped = s.stopped := by unfold State.pokeN; rfl
@[simp] theorem State.pokeN_out (a : Nat) (bs : Bytes) : (s.pokeN a bs).out = s.out := by unfold State.pokeN; rfl
@[simp] theorem State.pokeN_heldOut (a : Nat) (bs : Bytes) : (s.pokeN a bs).heldOut = s.heldOut := by unfold State.pokeN; rfl
@[simp] theorem State.pokeN_freeN (a : Nat) (bs : Bytes) : (s.pokeN a bs).freeN = s.freeN := by unfold State.pokeN; rfl
@[simp] theorem State.pokeN_pending (a : Nat) (bs : Bytes) : (s.pokeN a bs).pending = s.pending := by unfold State.pokeN; rfl

/-! State.record, which writes registers only -/

@[simp] theorem State.record_cores (blk : Nat) (cls : EClass) (cause : Nat) (x : Option (Nat × Nat)) : (s.record blk cls cause x).cores = s.cores := by
  simp only [State.record, apply_ite State.cores, State.setReg_cores, State.stick_cores, State.count_cores, ite_self]
@[simp] theorem State.record_syn (blk : Nat) (cls : EClass) (cause : Nat) (x : Option (Nat × Nat)) : (s.record blk cls cause x).syn = s.syn := by
  simp only [State.record, apply_ite State.syn, State.setReg_syn, State.stick_syn, State.count_syn, ite_self]
@[simp] theorem State.record_ctxs (blk : Nat) (cls : EClass) (cause : Nat) (x : Option (Nat × Nat)) : (s.record blk cls cause x).ctxs = s.ctxs := by
  simp only [State.record, apply_ite State.ctxs, State.setReg_ctxs, State.stick_ctxs, State.count_ctxs, ite_self]
@[simp] theorem State.record_parts (blk : Nat) (cls : EClass) (cause : Nat) (x : Option (Nat × Nat)) : (s.record blk cls cause x).parts = s.parts := by
  simp only [State.record, apply_ite State.parts, State.setReg_parts, State.stick_parts, State.count_parts, ite_self]
@[simp] theorem State.record_shape (blk : Nat) (cls : EClass) (cause : Nat) (x : Option (Nat × Nat)) : (s.record blk cls cause x).shape = s.shape := by
  simp only [State.record, apply_ite State.shape, State.setReg_shape, State.stick_shape, State.count_shape, ite_self]
@[simp] theorem State.record_tslots (blk : Nat) (cls : EClass) (cause : Nat) (x : Option (Nat × Nat)) : (s.record blk cls cause x).tslots = s.tslots := by
  simp only [State.record, apply_ite State.tslots, State.setReg_tslots, State.stick_tslots, State.count_tslots, ite_self]
@[simp] theorem State.record_enc (blk : Nat) (cls : EClass) (cause : Nat) (x : Option (Nat × Nat)) : (s.record blk cls cause x).enc = s.enc := by
  simp only [State.record, apply_ite State.enc, State.setReg_enc, State.stick_enc, State.count_enc, ite_self]
@[simp] theorem State.record_rims (blk : Nat) (cls : EClass) (cause : Nat) (x : Option (Nat × Nat)) : (s.record blk cls cause x).rims = s.rims := by
  simp only [State.record, apply_ite State.rims, State.setReg_rims, State.stick_rims, State.count_rims, ite_self]
@[simp] theorem State.record_fab (blk : Nat) (cls : EClass) (cause : Nat) (x : Option (Nat × Nat)) : (s.record blk cls cause x).fab = s.fab := by
  simp only [State.record, apply_ite State.fab, State.setReg_fab, State.stick_fab, State.count_fab, ite_self]
@[simp] theorem State.record_vcl (blk : Nat) (cls : EClass) (cause : Nat) (x : Option (Nat × Nat)) : (s.record blk cls cause x).vcl = s.vcl := by
  simp only [State.record, apply_ite State.vcl, State.setReg_vcl, State.stick_vcl, State.count_vcl, ite_self]
@[simp] theorem State.record_links (blk : Nat) (cls : EClass) (cause : Nat) (x : Option (Nat × Nat)) : (s.record blk cls cause x).links = s.links := by
  simp only [State.record, apply_ite State.links, State.setReg_links, State.stick_links, State.count_links, ite_self]
@[simp] theorem State.record_time (blk : Nat) (cls : EClass) (cause : Nat) (x : Option (Nat × Nat)) : (s.record blk cls cause x).time = s.time := by
  simp only [State.record, apply_ite State.time, State.setReg_time, State.stick_time, State.count_time, ite_self]
@[simp] theorem State.record_fuses (blk : Nat) (cls : EClass) (cause : Nat) (x : Option (Nat × Nat)) : (s.record blk cls cause x).fuses = s.fuses := by
  simp only [State.record, apply_ite State.fuses, State.setReg_fuses, State.stick_fuses, State.count_fuses, ite_self]
@[simp] theorem State.record_sec (blk : Nat) (cls : EClass) (cause : Nat) (x : Option (Nat × Nat)) : (s.record blk cls cause x).sec = s.sec := by
  simp only [State.record, apply_ite State.sec, State.setReg_sec, State.stick_sec, State.count_sec, ite_self]
@[simp] theorem State.record_fwLoad (blk : Nat) (cls : EClass) (cause : Nat) (x : Option (Nat × Nat)) : (s.record blk cls cause x).fwLoad = s.fwLoad := by
  simp only [State.record, apply_ite State.fwLoad, State.setReg_fwLoad, State.stick_fwLoad, State.count_fwLoad, ite_self]
@[simp] theorem State.record_spdm (blk : Nat) (cls : EClass) (cause : Nat) (x : Option (Nat × Nat)) : (s.record blk cls cause x).spdm = s.spdm := by
  simp only [State.record, apply_ite State.spdm, State.setReg_spdm, State.stick_spdm, State.count_spdm, ite_self]
@[simp] theorem State.record_hkp (blk : Nat) (cls : EClass) (cause : Nat) (x : Option (Nat × Nat)) : (s.record blk cls cause x).hkp = s.hkp := by
  simp only [State.record, apply_ite State.hkp, State.setReg_hkp, State.stick_hkp, State.count_hkp, ite_self]
@[simp] theorem State.record_mgt (blk : Nat) (cls : EClass) (cause : Nat) (x : Option (Nat × Nat)) : (s.record blk cls cause x).mgt = s.mgt := by
  simp only [State.record, apply_ite State.mgt, State.setReg_mgt, State.stick_mgt, State.count_mgt, ite_self]
@[simp] theorem State.record_pwr (blk : Nat) (cls : EClass) (cause : Nat) (x : Option (Nat × Nat)) : (s.record blk cls cause x).pwr = s.pwr := by
  simp only [State.record, apply_ite State.pwr, State.setReg_pwr, State.stick_pwr, State.count_pwr, ite_self]
@[simp] theorem State.record_twin (blk : Nat) (cls : EClass) (cause : Nat) (x : Option (Nat × Nat)) : (s.record blk cls cause x).twin = s.twin := by
  simp only [State.record, apply_ite State.twin, State.setReg_twin, State.stick_twin, State.count_twin, ite_self]
@[simp] theorem State.record_tune (blk : Nat) (cls : EClass) (cause : Nat) (x : Option (Nat × Nat)) : (s.record blk cls cause x).tune = s.tune := by
  simp only [State.record, apply_ite State.tune, State.setReg_tune, State.stick_tune, State.count_tune, ite_self]
@[simp] theorem State.record_rings (blk : Nat) (cls : EClass) (cause : Nat) (x : Option (Nat × Nat)) : (s.record blk cls cause x).rings = s.rings := by
  simp only [State.record, apply_ite State.rings, State.setReg_rings, State.stick_rings, State.count_rings, ite_self]
@[simp] theorem State.record_taken (blk : Nat) (cls : EClass) (cause : Nat) (x : Option (Nat × Nat)) : (s.record blk cls cause x).taken = s.taken := by
  simp only [State.record, apply_ite State.taken, State.setReg_taken, State.stick_taken, State.count_taken, ite_self]
@[simp] theorem State.record_accepted (blk : Nat) (cls : EClass) (cause : Nat) (x : Option (Nat × Nat)) : (s.record blk cls cause x).accepted = s.accepted := by
  simp only [State.record, apply_ite State.accepted, State.setReg_accepted, State.stick_accepted, State.count_accepted, ite_self]
@[simp] theorem State.record_replies (blk : Nat) (cls : EClass) (cause : Nat) (x : Option (Nat × Nat)) : (s.record blk cls cause x).replies = s.replies := by
  simp only [State.record, apply_ite State.replies, State.setReg_replies, State.stick_replies, State.count_replies, ite_self]
@[simp] theorem State.record_served (blk : Nat) (cls : EClass) (cause : Nat) (x : Option (Nat × Nat)) : (s.record blk cls cause x).served = s.served := by
  simp only [State.record, apply_ite State.served, State.setReg_served, State.stick_served, State.count_served, ite_self]
@[simp] theorem State.record_turn (blk : Nat) (cls : EClass) (cause : Nat) (x : Option (Nat × Nat)) : (s.record blk cls cause x).turn = s.turn := by
  simp only [State.record, apply_ite State.turn, State.setReg_turn, State.stick_turn, State.count_turn, ite_self]
@[simp] theorem State.record_slowerBase (blk : Nat) (cls : EClass) (cause : Nat) (x : Option (Nat × Nat)) : (s.record blk cls cause x).slowerBase = s.slowerBase := by
  simp only [State.record, apply_ite State.slowerBase, State.setReg_slowerBase, State.stick_slowerBase, State.count_slowerBase, ite_self]
@[simp] theorem State.record_slowerSize (blk : Nat) (cls : EClass) (cause : Nat) (x : Option (Nat × Nat)) : (s.record blk cls cause x).slowerSize = s.slowerSize := by
  simp only [State.record, apply_ite State.slowerSize, State.setReg_slowerSize, State.stick_slowerSize, State.count_slowerSize, ite_self]
@[simp] theorem State.record_clients (blk : Nat) (cls : EClass) (cause : Nat) (x : Option (Nat × Nat)) : (s.record blk cls cause x).clients = s.clients := by
  simp only [State.record, apply_ite State.clients, State.setReg_clients, State.stick_clients, State.count_clients, ite_self]
@[simp] theorem State.record_mem (blk : Nat) (cls : EClass) (cause : Nat) (x : Option (Nat × Nat)) : (s.record blk cls cause x).mem = s.mem := by
  simp only [State.record, apply_ite State.mem, State.setReg_mem, State.stick_mem, State.count_mem, ite_self]
@[simp] theorem State.record_bad (blk : Nat) (cls : EClass) (cause : Nat) (x : Option (Nat × Nat)) : (s.record blk cls cause x).bad = s.bad := by
  simp only [State.record, apply_ite State.bad, State.setReg_bad, State.stick_bad, State.count_bad, ite_self]
@[simp] theorem State.record_podTime (blk : Nat) (cls : EClass) (cause : Nat) (x : Option (Nat × Nat)) : (s.record blk cls cause x).podTime = s.podTime := by
  simp only [State.record, apply_ite State.podTime, State.setReg_podTime, State.stick_podTime, State.count_podTime, ite_self]
@[simp] theorem State.record_stopped (blk : Nat) (cls : EClass) (cause : Nat) (x : Option (Nat × Nat)) : (s.record blk cls cause x).stopped = s.stopped := by
  simp only [State.record, apply_ite State.stopped, State.setReg_stopped, State.stick_stopped, State.count_stopped, ite_self]
@[simp] theorem State.record_out (blk : Nat) (cls : EClass) (cause : Nat) (x : Option (Nat × Nat)) : (s.record blk cls cause x).out = s.out := by
  simp only [State.record, apply_ite State.out, State.setReg_out, State.stick_out, State.count_out, ite_self]
@[simp] theorem State.record_heldOut (blk : Nat) (cls : EClass) (cause : Nat) (x : Option (Nat × Nat)) : (s.record blk cls cause x).heldOut = s.heldOut := by
  simp only [State.record, apply_ite State.heldOut, State.setReg_heldOut, State.stick_heldOut, State.count_heldOut, ite_self]
@[simp] theorem State.record_freeN (blk : Nat) (cls : EClass) (cause : Nat) (x : Option (Nat × Nat)) : (s.record blk cls cause x).freeN = s.freeN := by
  simp only [State.record, apply_ite State.freeN, State.setReg_freeN, State.stick_freeN, State.count_freeN, ite_self]
@[simp] theorem State.record_pending (blk : Nat) (cls : EClass) (cause : Nat) (x : Option (Nat × Nat)) : (s.record blk cls cause x).pending = s.pending := by
  simp only [State.record, apply_ite State.pending, State.setReg_pending, State.stick_pending, State.count_pending, ite_self]

/-! The fields written -/

@[simp] theorem State.setReg_reg_self (blk off : Nat) (v : Word) (idx : Nat) : (s.setReg blk off v idx).reg blk off idx = v :=
  mget_mset_self _ _ _ _

theorem State.setReg_reg_ne (blk off : Nat) (v : Word) (idx blk' off' idx' : Nat) (h : rkey blk' off' idx' ≠ rkey blk off idx) :
    (s.setReg blk off v idx).reg blk' off' idx' = s.reg blk' off' idx' := mget_mset_ne _ _ _ _ _ h

@[simp] theorem State.modCore_self (c : Fin 16) (f : Core → Core) : (s.modCore c f).cores[c.val] = f s.cores[c.val] := by
  simp [State.modCore]

theorem State.modCore_ne (c d : Fin 16) (f : Core → Core) (h : d ≠ c) : (s.modCore c f).cores[d.val] = s.cores[d.val] := by
  have : c.val ≠ d.val := fun e => h (Fin.ext e.symm)
  simp [State.modCore, this]

@[simp] theorem State.modRim_self (p : Fin 4) (f : Rim → Rim) : (s.modRim p f).rims[p.val] = f s.rims[p.val] := by
  simp [State.modRim]

theorem State.modRim_ne (p q : Fin 4) (f : Rim → Rim) (h : q ≠ p) : (s.modRim p f).rims[q.val] = s.rims[q.val] := by
  have : p.val ≠ q.val := fun e => h (Fin.ext e.symm)
  simp [State.modRim, this]

@[simp] theorem State.modPart_self (p : Fin 4) (f : Part → Part) : (s.modPart p f).parts[p.val] = f s.parts[p.val] := by
  simp [State.modPart]

theorem State.modPart_ne (p q : Fin 4) (f : Part → Part) (h : q ≠ p) : (s.modPart p f).parts[q.val] = s.parts[q.val] := by
  have : p.val ≠ q.val := fun e => h (Fin.ext e.symm)
  simp [State.modPart, this]

@[simp] theorem State.modRing_self (r : Fin 64) (f : Ring → Ring) : (s.modRing r f).rings[r.val] = f s.rings[r.val] := by
  simp [State.modRing]

theorem State.modRing_ne (r q : Fin 64) (f : Ring → Ring) (h : q ≠ r) : (s.modRing r f).rings[q.val] = s.rings[q.val] := by
  have : r.val ≠ q.val := fun e => h (Fin.ext e.symm)
  simp [State.modRing, this]

@[simp] theorem State.modLink_self (l : Fin 20) (f : Link → Link) : (s.modLink l f).links[l.val] = f s.links[l.val] := by
  simp [State.modLink]

theorem State.modLink_ne (l k : Fin 20) (f : Link → Link) (h : k ≠ l) : (s.modLink l f).links[k.val] = s.links[k.val] := by
  have : l.val ≠ k.val := fun e => h (Fin.ext e.symm)
  simp [State.modLink, this]

@[simp] theorem State.setCtx_self (x : Nat) (v : Ctx) : (s.setCtx x v).ctx? x = some v := look_insertAt_self _ _ _

theorem State.setCtx_ne (x y : Nat) (v : Ctx) (h : y ≠ x) : (s.setCtx x v).ctx? y = s.ctx? y := look_insertAt_ne _ _ _ _ h

@[simp] theorem State.setObj_self (i : Nat) (w : Word) : (s.setObj i w).obj i = w := mget_mset_self _ _ _ _

theorem State.setObj_ne (i j : Nat) (w : Word) (h : j ≠ i) : (s.setObj i w).obj j = s.obj j := mget_mset_ne _ _ _ _ _ h

@[simp] theorem State.send_out (m : OutMsg) : (s.send m).out = s.out ++ [m] := by unfold State.send; rfl

theorem State.pokeN_peek_out (a j : Nat) (bs : Bytes) (h : j < a ∨ a + bs.length ≤ j) : (s.pokeN a bs).peek j = s.peek j :=
  mget_setBytes_out _ _ _ _ h

theorem State.pokeN_peekN (a : Nat) (bs : Bytes) : (s.pokeN a bs).peekN a bs.length = bs := getBytes_setBytes _ _ _

theorem State.pokeN_wf (a : Nat) (bs : Bytes) (h : Memory.wf s.mem = true) : Memory.wf (s.pokeN a bs).mem = true :=
  canonical_setBytes _ _ _ h

/-! Engines and their registers -/

@[simp] theorem Core.setEng_eng (k : Core) (e : Eng) (g : Engine) : (k.setEng e g).eng e = g := by cases e <;> rfl

@[simp] theorem State.modEng_self (c : Fin 16) (e : Eng) (f : Engine → Engine) : (s.modEng c e f).eng c e = f (s.eng c e) := by
  unfold State.eng State.modEng; exact (congrArg (fun k => Core.eng k e) (State.modCore_self ..)).trans (Core.setEng_eng ..)

@[simp] theorem Engine.rd_zero (g : Engine) : g.rd 0 = 0 := rfl

@[simp] theorem Engine.wr_zero (g : Engine) (v : Word) : g.wr 0 v = g := rfl

theorem Engine.rd_wr_self (g : Engine) (r : Nat) (v : Word) (h : r % 16 ≠ 0) : (g.wr r v).rd r = v := by
  simp [Engine.wr, Engine.rd, h]

theorem Engine.rd_wr_ne (g : Engine) (r q : Nat) (v : Word) (h : q % 16 ≠ r % 16) : (g.wr r v).rd q = g.rd q := by
  unfold Engine.wr Engine.rd
  by_cases hr : r % 16 = 0
  · simp [hr]
  · by_cases hq : q % 16 = 0
    · simp [hq]
    · have : r % 16 ≠ q % 16 := fun e => h e.symm
      simp [hr, hq, this]

end Sys2Proof.Machine
end

