-- ==== Sys2Proof/Laws/Ops.lean ====
section
/-! SUPPORT. What the shared operations do, once: an instruction that acts, a command that starts, a vendor message in its column, a repeated update, and what raising an error or sending leaves unchanged. -/

namespace Sys2Proof.Machine

/-- A legal instruction whose checks pass acts, an execute instruction after its pop. -/
theorem issue_passes {c : Fin 16} {e : Eng} {w : Insn} {op : Nat} {chk : Check} {s v : State} (body : State → State)
    (h1 : s.ready c e w = true) (h2 : opcodeOf w = op) (h3 : legalInsn e w = true) (hv : s.passes c chk = some v) :
    s.issue c e w op chk body = Eng.rec (motive := fun _ => State) (body v) (v.withPop c w body) e := by
  cases e <;> simp [State.issue, State.checked, h1, h2, h3, hv]

/-- An instruction that acts has its body's effect on the state in which it acts. -/
theorem issue_actsAt {c : Fin 16} {e : Eng} {w : Insn} {op : Nat} {chk : Check} {s u : State} (body : State → State)
    (h : s.actsAt c e w op chk = some u) : s.issue c e w op chk body = body u := by
  unfold State.actsAt at h
  split at h
  case isFalse => simp at h
  case isTrue hr =>
    simp only [Bool.and_eq_true, decide_eq_true_eq] at hr
    obtain ⟨⟨h1, h2⟩, h3⟩ := hr
    cases hv : s.passes c chk with
    | none => simp [hv] at h
    | some v =>
      rw [hv, Option.bind_some] at h
      rw [issue_passes body h1 h2 h3 hv]
      cases e with
      | fetch =>
        simp only [Option.some.injEq] at h
        subst h
        rfl
      | exec =>
        simp only at h ⊢
        split at h
        · simp at h
        · rename_i hq
          split at h
          · rename_i hp
            split at h
            · rename_i hh f pc r hs
              split at h
              · simp at h
              · rename_i hf
                simp only [Option.some.injEq] at h
                simp only [State.withPop, hq, hp, hs, hf]
                simp [h]
            · simp at h
          · rename_i hp
            simp only [Option.some.injEq] at h
            simp only [State.withPop, hq, hp]
            simp [h]

/-- An instruction whose check fails has the check's outcome alone. -/
theorem issue_checkFailed {c : Fin 16} {e : Eng} {w : Insn} {op : Nat} {chk : Check} {s : State} (body : State → State)
    (hr : s.ready c e w = true) (ho : opcodeOf w = op) (hp : s.passes c chk = none) (hf : checkFits op chk = true) :
    s.issue c e w op chk body = s.checkFailed c chk := by
  simp [State.issue, State.checked, hr, ho, hp, hf]

/-- An instruction that acts meets a running device, a core that runs a context, and the opcode of its row. -/
theorem actsAt_ready {c : Fin 16} {e : Eng} {w : Insn} {op : Nat} {chk : Check} {s u : State} (h : s.actsAt c e w op chk = some u) :
    s.ready c e w = true ∧ opcodeOf w = op ∧ legalInsn e w = true := by
  unfold State.actsAt at h
  split at h
  case isFalse => simp at h
  case isTrue hr =>
    simp only [Bool.and_eq_true, decide_eq_true_eq] at hr
    exact ⟨hr.1.1, hr.1.2, hr.2⟩

/-- A command that starts has its body's effect on the state in which it has started. -/
theorem cmd_started {s u : State} {h : CmdHdr} {op : Nat} {args : List (Nat × Nat)} {t : Taken}
    (body : Taken → State → State) (hs : s.started h op args = some (t, u)) : s.cmd h op args body = .next (body t u) := by
  unfold State.started at hs
  unfold State.cmd
  split at hs
  · rename_i t' ht
    try rw [ht]
    split at hs
    · rename_i hm
      simp only [Option.some.injEq, Prod.mk.injEq] at hs
      obtain ⟨rfl, rfl⟩ := hs
      simp only [Bool.and_eq_true, decide_eq_true_eq] at hm
      simp only [hm, Bool.and_self, if_true]
    · simp at hs
  · simp at hs

/-- Whether Table 15.7 marks the column that the device is in. -/
def marked (s : State) (a b c : Bool) : Bool :=
  match s.mgtPhase with
  | .standby => a
  | .waiting => b
  | .running => c

/-- A vendor message acts, or answers status 3, on the state in which it was counted. -/
theorem vendorMsg_eq {s : State} {code : Nat} {a b c : Bool} (body : State → State) (hs : s.stbyOn = true) (ha : s.mgt.addressed = true) :
    s.vendorMsg code a b c body = .next
      (let u := State.count { s with mgt := { s.mgt with alert := false } } blkMGT 0x0210
       if marked s a b c then body u else u.vendor code 3) := by
  have hp : (State.count { s with mgt := { s.mgt with alert := false } } blkMGT 0x0210).mgtPhase = s.mgtPhase := by
    simp only [State.mgtPhase, State.count_pwr, State.count_sec]
  unfold State.vendorMsg State.mgtMsg marked
  generalize State.count { s with mgt := { s.mgt with alert := false } } blkMGT 0x0210 = u at hp ⊢
  simp only [hs, ha, hp]
  cases s.mgtPhase <;> simp

/-! Repeated updates -/

@[simp] theorem forAll_nil {α : Type} (f : α → State → State) (s : State) : forAll [] f s = s := rfl

@[simp] theorem forAll_cons {α : Type} (a : α) (l : List α) (f : α → State → State) (s : State) : forAll (a :: l) f s = forAll l f (f a s) := rfl

/-- What each update of a repeated one keeps, the whole keeps. -/
theorem forAll_keeps {α : Type} (P : State → Prop) (l : List α) (f : α → State → State) (s : State) (h : ∀ a t, P t → P (f a t)) (hs : P s) :
    P (forAll l f s) := by
  induction l generalizing s with
  | nil => exact hs
  | cons a l ih => exact ih _ (h a s hs)

/-- A field that no update of a repeated one changes, the whole leaves unchanged. -/
theorem forAll_frame {α β : Type} (g : State → β) (l : List α) (f : α → State → State) (s : State) (h : ∀ a t, g (f a t) = g t) :
    g (forAll l f s) = g s := by
  induction l generalizing s with
  | nil => rfl
  | cons a l ih => exact (ih (f a s)).trans (h a s)

end Sys2Proof.Machine
end

