-- ==== Sys2Proof/Laws/Memory.lean ====
section
/-! SUPPORT. Every operation that writes memory keeps its canonical form. -/

namespace Sys2Proof.Machine

/-- The memory of the state after reset lists nothing, so it has the canonical form. -/
theorem reset_mem_wf : Memory.wf State.reset.mem = true := canonical_nil _

@[simp] theorem State.countHbm_mem (s : State) (w : Bool) (a n : Nat) : (s.countHbm w a n).mem = s.mem := by
  unfold State.countHbm State.countBlocks
  exact forAll_frame State.mem _ _ _ (fun _ _ => by simp)

@[simp] theorem State.dropAhead_mem (s : State) (host : Bool) (a n : Nat) : (s.dropAhead host a n).mem = s.mem := by
  unfold State.dropAhead
  refine forAll_frame State.mem _ _ _ (fun c t => ?_)
  dsimp only
  split
  · rfl
  · split <;> simp

@[simp] theorem State.countBlocks_mem (s : State) (w : Bool) (bs : List Nat) : (s.countBlocks w bs).mem = s.mem := by
  unfold State.countBlocks
  exact forAll_frame State.mem _ _ _ (fun _ _ => by simp)

/-! What the device sends of itself: only a completion entry writes memory, in the host's (R302) -/

@[simp] theorem State.sendNumbered_mem (s : State) (kind first : Nat) (slots : Bytes) : (s.sendNumbered kind first slots).mem = s.mem := by
  simp [State.sendNumbered]

@[simp] theorem State.emit_mem (s : State) : s.emit.mem = s.mem := by
  unfold State.emit
  dsimp only
  refine (forAll_frame State.mem _ _ _ (fun _ _ => by simp)).trans ?_
  exact forAll_frame State.mem _ _ _ (fun _ _ => by simp)

@[simp] theorem State.pumpAnswers_mem (s : State) : s.pumpAnswers.mem = s.mem := by
  have h : ∀ n (t : State), (State.pumpAnswers.go n t).mem = t.mem := by
    intro n
    induction n with
    | zero => exact fun _ => rfl
    | succ n ih =>
      intro t
      unfold State.pumpAnswers.go
      split
      · split
        · rw [ih, State.vclPost_mem]
        · rfl
      · rfl
  exact h _ _

@[simp] theorem State.postReq1_mem (s : State) (q : VclReq) : (s.postReq1 q).mem = s.mem := by
  unfold State.postReq1
  dsimp only
  split <;> simp

theorem State.postBulk_mem {s t : State} {rank : Nat} (h : s.postBulk rank = some t) : t.mem = s.mem := by
  unfold State.postBulk at h
  split at h
  · dsimp only at h
    split at h
    · simp only [Option.some.injEq] at h
      rw [← h]
      simp
    · simp at h
  · simp at h

@[simp] theorem State.postReq_mem (s : State) (q : VclReq) : (s.postReq q).mem = s.mem := by
  unfold State.postReq State.ingestTurn
  split
  · simp
  · split
    · simp
    · split
      · rename_i h
        exact (State.postBulk_mem h).trans (s.postReq1_mem q)
      · simp

theorem State.tryReq_mem {s t : State} {who : ReqWho} {w : Bool} {a n : Nat} (h : s.tryReq who w a n = some t) : t.mem = s.mem := by
  unfold State.tryReq at h
  dsimp only at h
  split at h
  · simp only [Option.some.injEq] at h
    rw [← h]
    simp
  · simp at h

@[simp] theorem State.pumpObinha_mem (s : State) : s.pumpObinha.mem = s.mem := by
  have h : ∀ n (t : State), (State.pumpObinha.go n t).mem = t.mem := by
    intro n
    induction n with
    | zero => exact fun _ => rfl
    | succ n ih =>
      intro t
      unfold State.pumpObinha.go
      dsimp only
      split
      · split
        · rw [ih, State.postReq_mem]
        · rfl
      · rfl
  exact h _ _

@[simp] theorem State.pumpAgain_mem (s : State) (b : Bool) : (s.pumpAgain b).mem = s.mem := by
  unfold State.pumpAgain
  refine forAll_frame State.mem _ _ _ (fun _ _ => ?_)
  split <;> simp

theorem State.putOut_wf {s t : State} {m : OutMsg} (h : Memory.wf s.mem = true) (ht : s.putOut m = some t) : Memory.wf t.mem = true := by
  unfold State.putOut at ht
  split at ht
  · rw [State.tryReq_mem ht]
    exact State.pokeN_wf _ _ _ (by rw [State.send_mem]; exact h)
  · split at ht
    · cases ht
      simpa using h
    · cases ht
  · cases ht
    simpa using h

theorem State.flushOut_wf (s : State) (h : Memory.wf s.mem = true) : Memory.wf s.flushOut.mem = true := by
  have hg : ∀ n (t : State), Memory.wf t.mem = true → Memory.wf (State.flushOut.go n t).mem = true := by
    intro n
    induction n with
    | zero => exact fun _ h => h
    | succ n ih =>
      intro t ht
      unfold State.flushOut.go
      split
      · split
        · split
          · rename_i hp
            exact ih _ (State.putOut_wf (by exact ht) hp)
          · exact ht
        · exact ht
      · exact ht
  unfold State.flushOut
  rw [State.emit_mem]
  exact hg _ _ (by simpa using h)

/-- An interrupt event keeps the canonical form. -/
theorem State.raiseVec_wf (s : State) (v : Nat) (h : Memory.wf s.mem = true) : Memory.wf (s.raiseVec v).mem = true := by
  unfold State.raiseVec
  split
  · simpa using h
  · exact State.flushOut_wf _ h

@[simp] theorem State.stateEvent_mem (s : State) : s.stateEvent.mem = s.mem := by
  unfold State.stateEvent
  dsimp only
  split
  · rfl
  · split
    · split <;> simp
    · rfl

@[simp] theorem State.sendFlit_mem (s : State) (l : Fin 20) (kind : Nat) (start : Option Nat) (payload : Bytes) (m : Nat) :
    (s.sendFlit l kind start payload m).mem = s.mem := by
  simp [State.sendFlit]

@[simp] theorem State.sendControl_mem (s : State) (l : Fin 20) (retry : Bool) (b : Option Bytes) : (s.sendControl l retry b).mem = s.mem := by
  unfold State.sendControl
  cases b <;> simp

@[simp] theorem State.pumpLink_mem (s : State) (l : Fin 20) (tails : Bool) : (s.pumpLink l tails).mem = s.mem := by
  have h : ∀ n (t : State), (State.pumpLink.go l tails n t).mem = t.mem := by
    intro n
    induction n with
    | zero => exact fun _ => rfl
    | succ n ih =>
      intro t
      have hk : (if t.links[l].keyOld then t.modLink l Link.rekeyFirst else t).mem = t.mem := by split <;> simp
      unfold State.pumpLink.go
      dsimp only
      generalize (if t.links[l].keyOld then t.modLink l Link.rekeyFirst else t) = u at hk
      split
      · exact hk
      · rw [ih, State.sendControl_mem, hk]
      · split
        · rw [ih, State.sendControl_mem, hk]
        · rw [ih, State.sendFlit_mem, State.modLink_mem, hk]
  unfold State.pumpLink
  split
  · unfold State.idleLink
    dsimp only
    split
    · rw [State.send_mem, State.modLink_mem, h]
    · exact h _ _
  · rfl

@[simp] theorem State.sendCtl_mem (s : State) (l : Fin 20) (name : String) (args : List Nat) : (s.sendCtl l name args).mem = s.mem := by
  unfold State.sendCtl State.sendMsg
  split
  · simp
  · exact (forAll_frame State.mem _ _ _ (fun _ _ => by simp)).trans (s.send_mem _)

@[simp] theorem State.sendDeparture_mem (s : State) : s.sendDeparture.mem = s.mem := by
  unfold State.sendDeparture
  refine forAll_frame State.mem _ _ _ (fun _ _ => ?_)
  split <;> simp

/-- The stop of the device (R379) keeps the canonical form. -/
theorem State.stopDevice_wf (s : State) (blk cause : Nat) (h : Memory.wf s.mem = true) : Memory.wf (s.stopDevice blk cause).mem = true := by
  have hn : (s.noteD blk cause).mem = s.mem := by
    unfold State.noteD State.almEvent State.almBegin
    dsimp only
    split <;> simp
  unfold State.stopDevice State.eraseKeys State.silence
  simp only [State.stateEvent_mem, State.sendDeparture_mem]
  exact State.raiseVec_wf _ _ (by rw [hn]; exact h)

/-! HBM -/

/-- A failing line, whatever it leads to (R377), keeps the canonical form. -/
theorem State.lineErr_wf (s : State) (e : LineErr) (scrub : Bool) (h : Memory.wf s.mem = true) : Memory.wf (s.lineErr e scrub).mem = true := by
  unfold State.lineErr State.lineCorrected
  dsimp only
  split
  · simpa using h
  · split <;> simpa using h
  · split
    · refine State.stopDevice_wf _ _ _ ?_
      simp only [State.setReg_mem, State.stick_mem, apply_ite State.mem, State.count_mem, ite_self]
      exact h
    · simp only [State.record_mem, State.setReg_mem, State.stick_mem, apply_ite State.mem, State.count_mem, ite_self]
      exact h

/-- A read of HBM keeps the canonical form. -/
theorem State.readHbm_wf (s : State) (errs : List LineErr) (a n : Nat) (ahead : List (Nat × Nat)) (h : Memory.wf s.mem = true) :
    Memory.wf (s.readHbm errs a n ahead).2.mem = true := by
  unfold State.readHbm
  dsimp only
  rw [State.countBlocks_mem]
  exact forAll_keeps (fun t => Memory.wf t.mem = true) _ _ _ (fun e t ht => t.lineErr_wf e _ ht) h

/-- The copy of a marked page in the outgoing area (R387) keeps the canonical form. -/
theorem State.keepPage_wf (s : State) (id : Nat) (o : Outgoing) (page : Nat) (h : Memory.wf s.mem = true) : Memory.wf (s.keepPage id o page).mem = true := by
  have hr := s.readHbm_wf [] (4096 * page) 4096 [] h
  unfold State.keepPage
  generalize s.readHbm [] (4096 * page) 4096 = r at hr ⊢
  generalize hn : 4096 = n
  obtain ⟨ok, u⟩ := r
  cases ok with
  | false => exact hr
  | true => exact State.pokeN_wf _ _ _ (by rw [State.countHbm_mem]; exact hr)

/-- What a write notes of pages (R385, R387) keeps the canonical form. -/
theorem State.notePages_wf (s : State) (a n : Nat) (h : Memory.wf s.mem = true) : Memory.wf (s.notePages a n).mem = true := by
  have hk : Memory.wf (forAll (s.twin.outgoing.map (·.1)) (fun id s => s.keepPages id a n) s).mem = true := by
    refine forAll_keeps (fun t => Memory.wf t.mem = true) _ _ _ (fun id t ht => ?_) h
    unfold State.keepPages
    split
    · refine forAll_keeps (fun t => Memory.wf t.mem = true) _ _ _ (fun p u hu => ?_) ht
      split
      · split
        · exact hu
        · exact u.keepPage_wf _ _ _ hu
      · exact hu
    · exact ht
  unfold State.notePages
  dsimp only
  split <;> exact hk

/-- A write of lines of HBM keeps the canonical form. -/
theorem State.writeLines_wf (s : State) (a : Nat) (bs : Bytes) (h : Memory.wf s.mem = true) : Memory.wf (s.writeLines a bs).2.mem = true := by
  have h1 : Memory.wf ((s.dropAhead false a bs.length).notePages a bs.length).mem = true := State.notePages_wf _ _ _ (by simpa using h)
  have h2 := State.pokeN_wf _ a bs h1
  unfold State.writeLines
  dsimp only
  generalize (s.dropAhead false a bs.length).notePages a bs.length = u at h2 ⊢
  refine forAll_keeps (fun t => Memory.wf t.mem = true) _ _ _ (fun k t ht => ?_) (by dsimp only; exact h2)
  rw [State.setReg_mem]
  exact t.pokeN_wf _ _ ht

/-- A write of HBM keeps the canonical form. -/
theorem State.writeHbm_wf (s : State) (a : Nat) (bs : Bytes) (h : Memory.wf s.mem = true) : Memory.wf (s.writeHbm a bs).2.mem = true :=
  State.writeLines_wf _ _ _ (by simpa using h)

/-- Writes of HBM one after another keep the canonical form. -/
theorem State.writes_wf {α : Type} (l : List α) (f : α → Nat) (g : α → Bytes) (s : State) (h : Memory.wf s.mem = true) :
    Memory.wf (forAll l (fun x s => (s.writeHbm (f x) (g x)).2) s).mem = true :=
  forAll_keeps (fun t => Memory.wf t.mem = true) _ _ _ (fun _ t ht => t.writeHbm_wf _ _ ht) h

/-- A change of the directory, with its bytes in HBM (R78), keeps the canonical form. -/
theorem State.setDir_wf (s : State) (dir : List DirEntry) (h : Memory.wf s.mem = true) : Memory.wf (s.setDir dir).mem = true :=
  State.writes_wf _ _ _ _ (State.writes_wf _ _ _ _ h)

/-- A packet's retained copy (R264) keeps the canonical form. -/
theorem State.retain_wf (s : State) (slot : Nat) (bs : Bytes) (h : Memory.wf s.mem = true) : Memory.wf (s.retain slot bs).mem = true :=
  State.pokeN_wf _ _ _ (by simpa using h)

/-- The parts of a run that a stream stores keep the canonical form. -/
theorem State.storeRun_wf (s u : State) (t : Stream) (p : Place) (bs : Bytes) (parts : List (Nat × Nat)) (h : Memory.wf s.mem = true)
    (hu : s.storeRun t p bs parts = some u) : Memory.wf u.mem = true := by
  cases p with
  | outside => simp only [State.storeRun, Option.some.injEq] at hu; exact hu ▸ h
  | hbm a =>
    simp only [State.storeRun, Option.some.injEq] at hu
    subst hu
    exact forAll_keeps (fun t => Memory.wf t.mem = true) _ _ _ (fun _ t ht => t.writeLines_wf _ _ ht) (by rw [State.countBlocks_mem]; exact h)
  | host a =>
    simp only [State.storeRun, Option.some.injEq] at hu
    subst hu
    exact forAll_keeps (fun t => Memory.wf t.mem = true) _ _ _ (fun _ t ht => t.pokeN_wf _ _ ht) h
  | spad k off =>
    simp only [State.storeRun, Option.map_eq_some_iff] at hu
    obtain ⟨k', -, rfl⟩ := hu
    simpa using h

/-- Memory without the bytes that a filter drops keeps the canonical form. -/
theorem Memory.wf_filter (m : List Host.Cell) (f : Host.Cell → Bool) (h : Memory.wf m = true) : Memory.wf (m.filter f) = true :=
  canonical_filter _ _ _ h

/-- Bring-up's zeroing of HBM (R436) keeps the canonical form. -/
theorem State.zeroed_wf (s : State) (h : Memory.wf s.mem = true) :
    Memory.wf ({ s with mem := s.mem.filter (fun c => decide (hbmEnd ≤ c.1)), bad := [] } : State).mem = true :=
  Memory.wf_filter _ _ h

/-- The loss of all power keeps the canonical form. -/
theorem State.powerless_wf (s : State) (h : Memory.wf s.mem = true) : Memory.wf s.powerless.mem = true :=
  Memory.wf_filter _ _ h

/-- A main reset keeps memory. -/
theorem State.mainReset_mem (s : State) (c : ResetCause) : (s.mainReset c).mem = s.mem := by
  unfold State.mainReset State.setLast
  rw [State.stateEvent_mem, State.setReg_mem]

end Sys2Proof.Machine
end

