-- ==== Sys2Proof/Laws/Cases.lean ====
section
/-! SUPPORT. The outcomes of the shared operations that decide whether a command has its effect. -/

namespace Sys2Proof.Machine

/-- The pop of QCTL: a queue against its direction faults, an empty one makes the engine wait, a fault that was put off is raised, and else
the body acts, with or without a pop (R141, R145, R220). -/
theorem withPop_cases (s : State) (c : Fin 16) (w : Insn) (body : State → State) :
    s.withPop c w body = s.queueProtocol c .exec w ∨ s.withPop c w body = s.wait c .exec .waitQueue ∨
      (∃ f pc u, f ≠ 0 ∧ s.withPop c w body = State.deferred u c w (fld w 8 3) f pc) ∨ (∃ u, s.withPop c w body = body u) := by
  unfold State.withPop
  dsimp only
  split
  · exact .inl rfl
  · split
    · split
      · split
        · rename_i hf
          exact .inr (.inr (.inl ⟨_, _, _, hf, rfl⟩))
        · exact .inr (.inr (.inr ⟨_, rfl⟩))
      · exact .inr (.inl rfl)
    · exact .inr (.inr (.inr ⟨s, rfl⟩))

/-- A sync instruction's object: outside its field it is an operand fault, outside the context a fault of range, of the wrong kind a fault of
kind, and else the body acts on it (R188, R198). -/
theorem syncInsn_cases (s : State) (c : Fin 16) (e : Eng) (w : Insn) (body : Nat → State → State) :
    s.syncInsn c e w body = s.insnOperand c e w ∨ s.syncInsn c e w body = s.syncFault (s.ctxOn c) 1 0x0203 ∨
      s.syncInsn c e w body = s.syncFault (s.ctxOn c) 2 0x0204 ∨
      ∃ p, s.translateOn c ((s.eng c e).sum w 16 14 30).toNat = some p ∧ s.syncInsn c e w body = body p s := by
  unfold State.syncInsn
  dsimp only
  split
  · exact .inl rfl
  · split
    · exact .inr (.inl rfl)
    · rename_i p hp
      split
      · exact .inr (.inr (.inr ⟨p, hp, rfl⟩))
      · exact .inr (.inr (.inl rfl))

/-- A command of the command interface either leaves the state, or stops the device at a failed check, or starts and has its body's effect. -/
theorem cmd_cases (s : State) (h : CmdHdr) (op : Nat) (args : List (Nat × Nat)) (body : Taken → State → State) :
    s.cmd h op args body = .next s ∨ (∃ blk cause, s.cmd h op args body = .next (s.stopDevice blk cause)) ∨
      ∃ t, t ∈ s.taken ∧ t.begun = false ∧ s.cmd h op args body = .next (body t { s with taken := startFirst t s.taken }) := by
  unfold State.cmd
  split
  · rename_i t ht
    have hm := List.mem_of_find?_eq_some ht
    have hb := List.find?_some ht
    simp only [Bool.and_eq_true, Bool.not_eq_true', decide_eq_true_eq] at hb
    split
    · split
      · exact .inr (.inr ⟨t, hm, hb.1.2, rfl⟩)
      · exact .inr (.inl ⟨_, _, rfl⟩)
      · split
        · exact .inr (.inl ⟨_, _, rfl⟩)
        · exact .inl rfl
      · exact .inl rfl
    · exact .inl rfl
  · exact .inl rfl

/-- A message on the management port is not answered before the port has its address; a long one is counted as bad; else it is counted and
has its body's effect, and the signal of a pending event ends (R419, R420). -/
theorem mgtMsg_cases (s : State) (len : Nat) (body : State → State) :
    s.mgtMsg len body = .next s ∨ s.mgtMsg len body = .next (State.mgtBad (State.count { s with mgt := { s.mgt with alert := false } } blkMGT 0x0210)) ∨
      s.mgtMsg len body = .next (body (State.count { s with mgt := { s.mgt with alert := false } } blkMGT 0x0210)) := by
  unfold State.mgtMsg
  dsimp only
  split
  · exact .inl rfl
  · split
    · exact .inr (.inl rfl)
    · exact .inr (.inr rfl)

end Sys2Proof.Machine
end

