-- ==== Sys2Proof/Laws/Crypto.lean ====
section
/-! SUPPORT. What sealing and opening under a key do: a sealed string opens to what was sealed (R83, R251). -/

namespace Sys2Proof.Machine

@[simp] theorem gcmCrypt_length (key nonce bs : Bytes) : (gcmCrypt key nonce bs).length = bs.length := by
  simp [gcmCrypt]

@[simp] theorem gcmTag_length (key nonce aad ct : Bytes) : (gcmTag key nonce aad ct).length = 16 := by
  simp [gcmTag]

/-- Sealed bytes are 16 longer, by their tag. -/
@[simp] theorem gcmSeal_length (key nonce aad bs : Bytes) : (gcmSeal key nonce aad bs).length = bs.length + 16 := by
  simp [gcmSeal]

/-- The key stream added twice cancels. -/
theorem gcmCrypt_twice (key nonce bs : Bytes) : gcmCrypt key nonce (gcmCrypt key nonce bs) = bs := by
  apply List.ext_getElem
  · simp
  · intro i h1 h2
    simp [gcmCrypt, BitVec.xor_assoc]

/-- What has been sealed opens to itself. -/
theorem gcmOpen_gcmSeal (key nonce aad bs : Bytes) : gcmOpen key nonce aad (gcmSeal key nonce aad bs) = some bs := by
  unfold gcmOpen
  dsimp only
  rw [gcmSeal_length, Nat.add_sub_cancel]
  have ht : (gcmSeal key nonce aad bs).take bs.length = gcmCrypt key nonce bs := by
    simp [gcmSeal]
  have hd : (gcmSeal key nonce aad bs).drop bs.length = gcmTag key nonce aad (gcmCrypt key nonce bs) := by
    simp [gcmSeal]
  rw [ht, hd, if_pos rfl, gcmCrypt_twice]

@[simp] theorem ecdsaWith_length (pub msg : Bytes) (n : Nat) : (ecdsaWith pub msg n).length = 132 := by simp [ecdsaWith]

@[simp] theorem p521Public_length (key : Bytes) : (p521Public key).length = 132 := by simp [p521Public]

@[simp] theorem aesWrap_length (kek key : Bytes) : (aesWrap kek key).length = 40 := by simp [aesWrap]

/-- A signature made with some number verifies. -/
theorem ecdsaOk_with (pub msg : Bytes) (n : Nat) (h : n < 2 ^ 521) : ecdsaOk pub msg (ecdsaWith pub msg n) = true :=
  decide_eq_true ⟨n, h, rfl⟩

/-- Nothing but 132 bytes verifies. -/
theorem ecdsaOk_length {pub msg sig : Bytes} (h : sig.length ≠ 132) : ecdsaOk pub msg sig = false :=
  decide_eq_false (fun ⟨_, _, e⟩ => h (by rw [e, ecdsaWith_length]))

/-- The public key of a private number is a point of the curve. -/
theorem onCurve_public (n : Nat) (h : n < 2 ^ 521) : onCurve (p521Public (be66 n)) = true :=
  decide_eq_true ⟨n, h, rfl⟩

/-- A search that succeeds at 0 finds 0. -/
theorem findBelow_zero (f : Nat → Bool) (h : f 0 = true) : ∀ n, 0 < n → findBelow f n = some 0
  | 1, _ => by simp [findBelow, h]
  | n + 2, _ => by rw [findBelow, findBelow_zero f h (n + 1) (Nat.succ_pos n)]

/-- The wrapped key of zeros unwraps. -/
theorem aesUnwrap_wrap (kek : Bytes) : aesUnwrap kek (aesWrap kek (toLe 32 0)) = some (toLe 32 0) := by
  rw [aesUnwrap, findBelow_zero _ (by simp) _ (by decide)]
  rfl

end Sys2Proof.Machine
end

