-- ==== Sys2Proof/Machine/Package.lean ====
section
/-! DEFINITION. The package (chapter 16): the supply rails (R426, R427), the signals' balls and levels (R438 to R442) and the thermal limits (R443). No
command acts on any of them: they are constants of the device. -/

namespace Sys2Proof.Machine

/-- The supply rails, in the order of Table 16.1. -/
inductive Rail
  | vddCore
  | vddSoc
  | vddSram
  | vddSds
  | vddaSds
  | vddHbm
  | vddqHbm
  | vppHbm
  | vddIo
  | vddStby
  | vddioStby
  deriving DecidableEq, Repr

/-- A row of Table 16.1: nominal voltage in mV, tolerance in percent, domain, greatest current in mA on the -S bin, and number of balls. -/
structure RailSpec where
  mV      : Nat
  percent : Nat
  standby : Bool
  mA      : Nat
  balls   : Nat
  deriving DecidableEq, Repr

/-- Table 16.1 (R426). -/
def railSpec : Rail → RailSpec
  | .vddCore   => ⟨750, 3, false, 560000, 722⟩
  | .vddSoc    => ⟨750, 3, false, 110000, 144⟩
  | .vddSram   => ⟨850, 3, false, 45000, 72⟩
  | .vddSds    => ⟨750, 2, false, 80000, 108⟩
  | .vddaSds   => ⟨1200, 2, false, 30000, 60⟩
  | .vddHbm    => ⟨1100, 3, false, 120000, 208⟩
  | .vddqHbm   => ⟨400, 3, false, 40000, 64⟩
  | .vppHbm    => ⟨1800, 5, false, 6000, 32⟩
  | .vddIo     => ⟨1800, 5, false, 1000, 24⟩
  | .vddStby   => ⟨800, 3, true, 2000, 12⟩
  | .vddioStby => ⟨1800, 5, true, 500, 12⟩

/-- A voltage in µV lies within a rail's tolerance (R426). -/
def railInTolerance (r : Rail) (uV : Nat) : Bool :=
  let n := (railSpec r).mV * 1000
  let d := (railSpec r).mV * 10 * (railSpec r).percent
  n - d ≤ uV && uV ≤ n + d

/-- The groups in which the rails rise; power-down runs in the reverse order (R427, Table 16.2). -/
def powerUpOrder : List (List Rail) :=
  [[.vddStby], [.vddioStby], [.vddIo, .vppHbm], [.vddaSds, .vddHbm], [.vddSram], [.vddCore, .vddSoc, .vddSds, .vddqHbm]]

/-- A ball by its column and row, 1 to 70 each (R438). -/
structure Ball where
  col : Nat
  row : Nat
  deriving DecidableEq, Repr

/-- The letters of the column codes (R438). -/
def columnLetters : List Char :=
  ['A', 'B', 'C', 'D', 'E', 'F', 'G', 'H', 'J', 'K', 'L', 'M', 'N', 'P', 'T', 'U', 'V', 'W', 'Y']

/-- A column's code (R438, Table 16.6). -/
def columnCode (c : Nat) : List Char :=
  let letter := fun i => columnLetters.getD i 'A'
  if c ≤ 19 then [letter (c - 1)] else [letter ((c - 20) / 19), letter ((c - 20) % 19)]

/-- The groups of high-speed lanes, with the link where the group has several (Table 16.7). -/
inductive LaneGroup
  | fab (link : Nat)
  | vcl
  | twn (link : Nat)
  deriving DecidableEq, Repr

/-- One direction of one lane. -/
structure LaneDir where
  group : LaneGroup
  lane  : Nat
  tx    : Bool
  deriving DecidableEq, Repr

/-- The lanes of a group count on along the south and north edges, and the balls of a pair along the columns there, along the rows on the other edges
(R439). -/
def LaneDir.alongColumns (d : LaneDir) : Bool :=
  match d.group with
  | .fab _ => false
  | _ => true

/-- The P ball of a lane direction (R439, Table 16.7). -/
def LaneDir.pBall (d : LaneDir) : Ball :=
  match d.group with
  | .fab n =>
    let m := 4 * (n % 9) + d.lane
    let col := (if d.tx then 2 else 6) + (if m < 18 then 0 else 2)
    ⟨if n < 9 then col else 71 - col, 9 + 3 * (m % 18)⟩
  | .vcl => ⟨12 + 3 * d.lane, if d.tx then 2 else 6⟩
  | .twn k => ⟨24 + 3 * (4 * k + d.lane), if d.tx then 69 else 65⟩

/-- The ball `k` further in a lane direction's own direction: the N ball for 1, the VSS ball after it for 2 (R439). -/
def LaneDir.ball (d : LaneDir) (k : Nat) : Ball :=
  if d.alongColumns then ⟨d.pBall.col + k, d.pBall.row⟩ else ⟨d.pBall.col, d.pBall.row + k⟩

/-- Every lane direction of the device (R439). -/
def laneDirs : List LaneDir :=
  let lanes := (List.range 18).flatMap (fun n => (List.range 4).map (fun j => (LaneGroup.fab n, j))) ++
    (List.range 16).map (fun i => (LaneGroup.vcl, i)) ++
    (List.range 2).flatMap (fun k => (List.range 4).map (fun j => (LaneGroup.twn k, j)))
  lanes.flatMap (fun l => [⟨l.1, l.2, true⟩, ⟨l.1, l.2, false⟩])

/-- The clock and low-speed signals (R440, Table 16.8). -/
inductive LowPin
  | refclkP
  | refclkN
  | i3cScl
  | i3cSda
  | smbAlertN
  | thermN
  | rstN
  | pwrOk
  | twinPresentN
  | tck
  | tms
  | tdi
  | tdo
  | trstN
  deriving DecidableEq, Repr

/-- The direction of a signal (Table 16.8). -/
inductive PinDir
  | input
  | output
  | inOut
  deriving DecidableEq, Repr

/-- What drives or pulls a pin inside the device (Table 16.8). -/
inductive PinType
  | clock
  | bus
  | openDrain
  | cmos
  | pullUp50k
  | jtag
  | jtagPullDown50k
  deriving DecidableEq, Repr

/-- Where a low-speed signal is and what it is. -/
structure PinSpec where
  ball    : Ball
  dir     : PinDir
  standby : Bool
  kind    : PinType
  deriving DecidableEq, Repr

/-- Table 16.8 (R440). -/
def lowPin : LowPin → PinSpec
  | .refclkP      => ⟨⟨34, 67⟩, .input, false, .clock⟩
  | .refclkN      => ⟨⟨35, 67⟩, .input, false, .clock⟩
  | .i3cScl       => ⟨⟨50, 67⟩, .input, true, .bus⟩
  | .i3cSda       => ⟨⟨51, 67⟩, .inOut, true, .bus⟩
  | .smbAlertN    => ⟨⟨52, 67⟩, .output, true, .openDrain⟩
  | .thermN       => ⟨⟨53, 67⟩, .output, true, .openDrain⟩
  | .rstN         => ⟨⟨54, 67⟩, .input, true, .cmos⟩
  | .pwrOk        => ⟨⟨55, 67⟩, .input, true, .cmos⟩
  | .twinPresentN => ⟨⟨56, 67⟩, .input, true, .pullUp50k⟩
  | .tck          => ⟨⟨50, 68⟩, .input, false, .jtag⟩
  | .tms          => ⟨⟨51, 68⟩, .input, false, .jtag⟩
  | .tdi          => ⟨⟨52, 68⟩, .input, false, .jtag⟩
  | .tdo          => ⟨⟨53, 68⟩, .output, false, .jtag⟩
  | .trstN        => ⟨⟨54, 68⟩, .input, false, .jtagPullDown50k⟩

/-- The low-speed signals, in the table's order. -/
def lowPins : List LowPin :=
  [.refclkP, .refclkN, .i3cScl, .i3cSda, .smbAlertN, .thermN, .rstN, .pwrOk, .twinPresentN, .tck, .tms, .tdi, .tdo, .trstN]

/-- What a ball carries. -/
inductive BallUse
  | laneP (d : LaneDir)
  | laneN (d : LaneDir)
  | pin (p : LowPin)
  | rail (r : Rail)
  | vss
  deriving DecidableEq, Repr

/-- The ball lies in the interior, columns and rows 9 to 62 (R441). -/
def Ball.interior (b : Ball) : Bool := 9 ≤ b.col && b.col ≤ 62 && 9 ≤ b.row && b.row ≤ 62

/-- The rail of an interior ball whose column plus row is odd (R441, Table 16.9). -/
def Ball.rail (b : Ball) : Rail :=
  if b.row ≤ 16 then (if b.col ≤ 44 then .vddSoc else .vddSram)
  else if b.row ≤ 54 then
    if 17 ≤ b.col && b.col ≤ 54 then .vddCore
    else if b.row ≤ 42 then .vddHbm
    else if b.row ≤ 50 then .vddqHbm
    else .vppHbm
  else if b.col ≤ 35 then .vddSds
  else if b.col ≤ 50 then .vddaSds
  else if b.col ≤ 56 then .vddIo
  else if b.col ≤ 59 then .vddStby
  else .vddioStby

/-- What each of the 4,900 balls carries (R439 to R441). -/
def ballUse (b : Ball) : BallUse :=
  if b.interior then (if (b.col + b.row) % 2 = 0 then .vss else .rail b.rail)
  else match laneDirs.find? (fun d => d.ball 0 = b), laneDirs.find? (fun d => d.ball 1 = b), lowPins.find? (fun p => (lowPin p).ball = b) with
    | some d, _, _ => .laneP d
    | none, some d, _ => .laneN d
    | none, none, some p => .pin p
    | none, none, none => .vss

/-- The level a CMOS input reads, from its voltage in mV: low up to 540, high from 1,260; between the two the levels give none (R442). -/
def cmosLevel (mV : Int) : Option Bool :=
  if mV ≤ 540 then some false else if 1260 ≤ mV then some true else none

/-- A low-speed pin's voltage keeps the absolute limit: no more than 180 mV over its I/O rail, no less than -300 mV (R442). -/
def pinVoltageOk (p : LowPin) (mV rail_mV : Int) (railOn : Bool) (driven : Bool) : Bool :=
  -300 ≤ mV && mV ≤ rail_mV + 180 && ((lowPin p).standby || railOn || !driven)

/-- The limits of R443: junction to lid in micro-degrees per watt, and per bin (true: -S) the package's power in W and the lid's temperature in degrees
at that power; then the lid in operation, the storage range, and the clamping force in N. -/
structure ThermalLimits where
  lidResistance : Nat
  power         : Bool → Nat
  lidAtPower    : Bool → Nat
  junction      : Nat
  lid           : Int × Int
  storage       : Int × Int
  clamp         : Nat × Nat

/-- The limits of R443. -/
def thermalLimits : ThermalLimits :=
  ⟨25000, fun s => if s then 850 else 650, fun s => if s then 70 else 75, 92, (10, 75), (-40, 125), (600, 1300)⟩

end Sys2Proof.Machine
end

