-- ==== Sys2Proof/WellFormed.lean ====
section
/-! DEFINITION. Well-formed commands: operands of the sizes that the structures they stand for have. Widths stand in the types. -/

namespace Sys2Proof

/-- A packet's payload is 64 to 4,096 B in steps of 64 B, as PAY_M1 of its FLAGS tells (R256). -/
def packetWf (p : Packet) : Bool := p.payload.length = 64 * ((p.flags.toNat % 64) + 1)

/-- A fabric flit carries 256 B (Table 9.3). -/
def flitWf (f : Flit) : Bool := f.payload.length = 256

/-- A VCL flit carries 15 slots of 16 B (Table 10.1). -/
def vclFlitWf (f : VclFlit) : Bool := f.slots.length = 240

/-- A plait has its 32-byte header (Table 3.1). -/
def plaitWf (b : Bytes) : Bool := decide (32 ≤ b.length)

/-- A rim frame has its 16-byte prefix and ends on a multiple of 16 B (R255). -/
def frameWf (b : Bytes) : Bool := decide (16 ≤ b.length) && b.length % 16 = 0

/-- The bytes of a routing bank's buffer that are not 0, in the order of their offsets (R322). -/
def routeWf (m : List (Nat × Byte)) : Bool :=
  m.all (fun e => decide (e.1 < 131168) && e.2 ≠ 0) && decide ((m.map (·.1)).Pairwise (· < ·))

/-- A pair record names the members of a rim and the regions of a context within their limits (R383). -/
def recordWf (r : PairRecord) : Bool :=
  match r with
  | .rim _ members .. => decide (members.length ≤ 64)
  | .ctx a => decide (a.buf.length ≤ 128)
  | .program .. | .rimGone _ | .ctxGone _ | .unpair | .handBack .. => true

/-- A check that fails is of a structure that the command reads (R375, Table 14.1). -/
def checkIn (l : List Check) (chk : Check) : Bool := chk = .ok || l.contains chk

/-- The checks that an instruction meets: those of its own word, and those of what it reads at issue. -/
def insnChecks (l : List Check) (chk : Check) : Bool := checkIn ([.reloaded, .imageLost] ++ l) chk

/-- The checks that a command of the command interface meets: control SRAM's, and the security unit's in the work of that unit. -/
def cmdChecks (security : Bool) (h : CmdHdr) : Bool := checkIn ([.control] ++ if security then [.security] else []) h.chk

/-- Whether a command's operands have the sizes that its rule gives them. -/
def Instr.wf : Instr → Bool
  | .nop _ _ _ chk => insnChecks [] chk
  | .halt _ _ _ chk => insnChecks [] chk
  | .loop _ _ _ chk => insnChecks [] chk
  | .branch _ _ _ chk => insnChecks [] chk
  | .set _ _ _ chk => insnChecks [] chk
  | .sadd _ _ _ chk => insnChecks [] chk
  | .sload _ _ _ chk => insnChecks [.spad] chk
  | .stream _ _ chk => insnChecks [.object, .owner] chk
  | .gather _ _ chk => insnChecks [.object, .owner] chk
  | .put _ _ chk => insnChecks [.spad] chk
  | .winOpen _ _ chk => insnChecks [] chk
  | .winClose _ _ chk => insnChecks [] chk
  | .weftBind _ _ chk => insnChecks [] chk
  | .hpush _ _ chk => insnChecks [] chk
  | .hpop _ _ chk => insnChecks [] chk
  | .fset _ _ _ chk => insnChecks [.object, .owner] chk
  | .fclr _ _ _ chk => insnChecks [.object, .owner] chk
  | .fwait _ _ _ chk => insnChecks [.object, .owner] chk
  | .cwait _ _ chk => insnChecks [.object, .owner] chk
  | .consume _ _ chk => insnChecks [.object, .owner] chk
  | .rsignal _ _ chk => insnChecks [] chk
  | .barrier _ _ chk => insnChecks [.object, .owner] chk
  | .mma _ _ chk => insnChecks [] chk
  | .mmaDiag _ _ chk => insnChecks [] chk
  | .accRead _ _ chk => insnChecks [] chk
  | .tload _ _ chk => insnChecks [] chk
  | .vop _ _ chk => insnChecks [] chk
  | .vred _ _ chk => insnChecks [] chk
  | .vfun _ _ chk => insnChecks [] chk
  | .vectorDone _ r => checkIn [.spad, .object, .owner] r.chk
  | .lullEntry _ _ => true
  | .runaheadPrefetch _ => true
  | .mmaStart _ _ chk => checkIn [.spad] chk
  | .arrayRampStep _ => true
  | .arrayHoldExpiry _ => true
  | .blockContribution _ _ _ _ chk => checkIn [.spad, .acc, .partials] chk
  | .mmaBankComplete _ _ _ _ r => checkIn [.object, .owner] r.chk
  | .readoutStart _ _ => true
  | .readoutEnd _ _ r => checkIn [.spad, .acc, .object, .owner] r.chk
  | .plaitInExpander _ plait m => checkIn [.landing] m.chk && plaitWf plait
  | .plaitDecodeDone _ chk => checkIn [.xbuf] chk
  | .streamComplete _ _ _ r => checkIn [.spad, .object, .owner] r.chk
  | .putPacketRx p => packetWf p
  | .putRetryTimer _ _ => true
  | .rsignalRx p => packetWf p.pkt
  | .rsigDoneRx p => packetWf p.pkt
  | .barArriveRx p => packetWf p.pkt
  | .barReleaseRx p => packetWf p.pkt
  | .barBreakRx p => packetWf p.pkt
  | .debugSyncForce h _ => cmdChecks false h
  | .syncForce _ => true
  | .linkLossOfSignal _ => true
  | .linkRetryTimer _ => true
  | .linkTrainDone _ => true
  | .linkStateTimeout _ => true
  | .hello _ _ => true
  | .helloSendTimer _ => true
  | .offer _ m => decide (m.pub.length ≤ 256) && decide (m.random.length = 32) && decide (m.chain.length ≤ 65536)
  | .proof _ m => decide (m.sig.length ≤ 256)
  | .flitRx _ f => flitWf f
  | .retry _ _ => true
  | .rekeyStart _ => true
  | .rekey _ _ => true
  | .timeReq _ _ _ _ _ => true
  | .timeReqTimer => true
  | .timeResp _ _ _ _ _ => true
  | .linkAdaptTick _ => true
  | .adapt _ _ => true
  | .adaptEvaluate _ _ _ => true
  | .packetAtRouter p _ => packetWf p
  | .packetOutputGrant _ _ _ chk => checkIn [.buffer] chk
  | .escapeTimeout _ => true
  | .e2eRetransmitTimer _ _ => true
  | .reasmEntryRelease _ => true
  | .gustTick _ _ samples => decide (samples.length ≤ 80)
  | .ack p => packetWf p.pkt
  | .rimRereq p => packetWf p
  | .rimAbort p => packetWf p
  | .rimCtrl _ _ => true
  | .hbmWrite p => packetWf p
  | .fabEpochFlipAtT => true
  | .bankRetire _ => true
  | .fabRouteLoad h a => cmdChecks false h && routeWf a
  | .fabEpochFlip h _ _ => cmdChecks false h
  | .discover h => cmdChecks false h
  | .rimForm h b => cmdChecks false h && decide (36 ≤ b.length) && decide (b.length ≤ 160) && b.length % 2 = 0
  | .rimHelloTimer _ => true
  | .rimHelloFrame _ frame => frameWf frame
  | .rimFormTimeout _ => true
  | .rimGoodbyeFrame _ frame => frameWf frame
  | .rimDissolve h _ => cmdChecks false h
  | .plaitFrame _ frame _ chk => checkIn [.landing] chk && frameWf frame
  | .forwardResume _ _ _ _ m => checkIn [.landing] m.chk
  | .plaitInject _ _ chk => checkIn [.cache] chk
  | .repairIngestDone _ _ => true
  | .gapTimerExpiry _ _ _ => true
  | .shardDeadlineExpiry _ _ _ => true
  | .combinedTableTimeout h => cmdChecks false h
  | .shardIngest h a => cmdChecks true h && a.man.length % 64 = 0
  | .ingestPass1End _ _ chk => checkIn [.security] chk
  | .ingestPass2End _ => true
  | .epochStage h a => cmdChecks true h && a.man.length % 64 = 0
  | .epochFlip h _ => cmdChecks false h
  | .shardEvict h _ _ _ => cmdChecks true h
  | .tierMoveDone _ => true
  | .slowerTierReadDone _ _ chk => checkIn [.security] chk
  | .sqDoorbell _ _ => true
  | .cqDoorbell _ _ => true
  | .ringEnable _ _ => true
  | .ringDrain _ _ => true
  | .entryTake _ _ _ _ => true
  | .coalesceTimer _ => true
  | .cmdNop h => cmdChecks false h
  | .query h => cmdChecks false h
  | .regionSet h b => cmdChecks false h && b.length = 144
  | .partConfig h _ => cmdChecks false h
  | .keyEnroll h a => cmdChecks true h && a.buf.length = 420
  | .modelEnroll h a => cmdChecks true h && a.buf.length = 368
  | .ctxCreate h a => cmdChecks false h && decide (a.buf.length ≤ 128)
  | .ctxDestroy h _ => cmdChecks false h
  | .ctxDestroyResume _ => true
  | .ctxReside h _ _ => cmdChecks false h
  | .ctxEvict h _ _ => cmdChecks false h
  | .ctxEvictResume _ _ => true
  | .programLoad h _ _ => cmdChecks false h
  | .stepSubmit h _ => cmdChecks false h
  | .taskSubmit h _ => cmdChecks false h
  | .schedTableLoad h _ b => cmdChecks false h && decide (24 ≤ b.length) && decide (b.length ≤ 2064) && b.length % 8 = 0
  | .schedMode h _ _ _ => cmdChecks false h
  | .schedModeEffect _ => true
  | .stepArm _ => true
  | .stepComplete _ => true
  | .switchTimeReached _ => true
  | .enginesStart _ => true
  | .schedSlotStart _ => true
  | .cyclicEngineStart _ => true
  | .blockedGraceExpiry _ => true
  | .autoSwapInstant _ _ => true
  | .taskStart _ => true
  | .twinPair h _ => cmdChecks false h
  | .pairingRequestRx _ => true
  | .twinPairTimeout => true
  | .twinDetach h _ => cmdChecks false h
  | .checkpointCfg h _ _ => cmdChecks false h
  | .pairRecordRx r => recordWf r
  | .shadowRx _ _ => true
  | .ckptCommit _ _ _ _ _ pages => pages.all (fun q => q % 4096 = 0)
  | .heartbeatTimer => true
  | .heartbeatRx _ => true
  | .heartbeatTimeout => true
  | .departureRx => true
  | .seatHoldNoticeRx _ _ => true
  | .seatHoldExpiry _ => true
  | .fwLoadHost _ _ => true
  | .fwVerifyDone _ => true
  | .spdmGo _ => true
  | .spdmMessage _ => true
  | .entropyHealthFail => true
  | .vclLossOfSignal => true
  | .vclRetryTimer => true
  | .vclTrainDone _ _ => true
  | .vclConfigDone _ => true
  | .vclStateTimeout => true
  | .vclFlitRx f => vclFlitWf f
  | .vclRetry _ => true
  | .mmioRd _ _ _ _ => true
  | .mmioWr _ _ log2 bytes => bytes.length = 2 ^ log2.val
  | .snpInv _ _ => true
  | .snpData _ _ => true
  | .data _ _ _ lines _ => lines.length % 64 = 0 && decide (1 ≤ lines.length / 64) && decide (lines.length / 64 ≤ 16)
  | .wrDone _ _ => true
  | .vclReqTimeout _ => true
  | .msiUnmask _ _ => true
  | .pwrCfgWrite _ => true
  | .powerSet _ _ => true
  | .registerWrite _ _ _ => true
  | .sensorSample x => x.temps.length = 34
  | .throttleFall => true
  | .barometerLatch _ temps => temps.length = 34 && temps.all (fun t => decide (-128 ≤ t) && decide (t ≤ 127))
  | .telemetryCfg h _ => cmdChecks false h
  | .ageingTick temps volts => temps.length = 28 && volts.length = 28
  | .almanacHourly => true
  | .almanacHoldExpiry => true
  | .almanacWriteDone _ => true
  | .almanacRead h => cmdChecks false h
  | .scrubBlock _ => true
  | .timeSet h _ _ => cmdChecks false h
  | .timeSetM _ => true
  | .getStatus => true
  | .fwBegin _ => true
  | .fwData _ bytes => decide (bytes.length ≤ 1024)
  | .fwEnd => true
  | .svnRaise _ _ _ => true
  | .almanacGet _ => true
  | .baroGet _ => true
  | .regRead _ _ => true
  | .pldmRequest _ _ => true
  | .mctpControl _ _ => true
  | .entdaa _ => true
  | .smbusFallbackTimer => true
  | .smbusArp _ => true
  | .standbyPowerOn => true
  | .pwrOkRise => true
  | .pwrOkFall => true
  | .rstNFall => true
  | .rstNRise _ => true
  | .trstN => true
  | .refclkLoss => true
  | .pwrReset _ => true
  | .mainResetEffect => true
  | .bringupStageEnd _ => true
  | .timeSyncTimeout => true
  | .standbyResetRelease => true
  | .refclkPresent => true
  | .mctpUnknownType _ => true
  | .standbyPowerOff => true

end Sys2Proof
end

