-- ==== Sys2Proof/Tests/Slice0.lean ====
section
/-! SUPPORT. The model's own tests: each check of WellFormed refuses an ill-formed term, steps on small states give what the spec says, and the hypotheses of every statement are met by a concrete state. -/

namespace Sys2Proof.Tests

set_option Elab.async false

open Sys2Proof Sys2Proof.Machine

/-! States to test on -/

/-- A device that is ready: firmware runs and the host link is in UP. -/
def live : State := { State.reset with
  pwr := { pwrOk := true, refclk := true, stbyHeld := false, stbyClock := true, held := false, stage := 10, vclDone := true, linksDone := true }
  sec := { boot := 4, result := 0 }, vcl := { st := .up, boot := false } }

/-- A context of partition 0 with a program that has sync objects and a handle queue. -/
def ctx7 : Ctx :=
  { st := .running, part := 0, be := false, model := 0xFFFF, epoch := 0, oldEpoch := none, pinUntil := 0, attr := 0, seed := 0, startStep := 0
    nextStep := 0, armed := none, regions := [(0x300000000, 4096)], prog := some ⟨[], [], [], 16, 16, [0x000F], 1, []⟩, queue := [], imgAt := .none
    img := none, cslot := 0, cflagBase := 0, ctrBase := 0, barBase := 0, ghqs := [63], interval := 0, since := 0, partner := none, replay := none
    pwrCfg := none, cause := 0 }

/-- The device with context 7 on core 0, whose contents are given. -/
def onCore (k : Core) : State := { live with
  cores := live.cores.set 0 { k with run := some ⟨7, none⟩ }, ctxs := [(7, ctx7)], parts := live.parts.set 0 { cores := 16, ringMib := 2048, running := some 7 } }

/-- The device with core 0's engine at an instruction. -/
def atInsn (e : Eng) (w : Insn) (k : Core := {}) : State :=
  match e with
  | .fetch => onCore { k with imemF := [(k.fet.pc.toNat, w)], fet := { k.fet with st := .running } }
  | .exec => onCore { k with imemE := [(k.exe.pc.toNat, w)], exe := { k.exe with st := .running } }

/-- An instruction word: its opcode, and fields as value and lowest bit. -/
def ins (op : Nat) (l : List (Nat × Nat)) : Insn := BitVec.ofNat 128 (op + (l.map (fun f => f.1 * 2 ^ f.2)).sum)

/-- An engine whose register 1 holds a value. -/
def withS1 (v : Word) : Engine := { sregs := (Vector.replicate 16 0).set 1 v }

/-- Whether an outcome is a next state. -/
def isNext : Host.Outcome State Fault Refusal → Bool
  | .next _ => true
  | _ => false

/-- Whether an instruction acts at a state and a test holds of the state in which it acts. -/
def acts (s : State) (e : Eng) (w : Insn) (op : Nat) (f : State → Bool := fun _ => true) : Bool := (s.actsAt 0 e w op .ok).any f

/-! Instructions -/

theorem test_meets_NoCommandStops : live.pending = [] ∧ State.reset.pending = [] := by decide +kernel

theorem test_meets_ScalarInstructionsComplete :
    (acts (atInsn .fetch (ins 1 [])) .fetch (ins 1 []) 1
      && acts (atInsn .exec (ins 5 [(15, 16), (2 ^ 64 - 1, 64)])) .exec (ins 5 [(15, 16), (2 ^ 64 - 1, 64)]) 5
      && acts (atInsn .exec (ins 6 [(3, 8), (1, 11)]) { queues := (Vector.replicate 8 {}).set 3 { slots := [.entry 5 0 0] } }) .exec
        (ins 6 [(3, 8), (1, 11)]) 6
      && acts (atInsn .fetch (ins 7 [(12287, 20)])) .fetch (ins 7 [(12287, 20)]) 7 (fun u =>
        decide ((u.eng 0 .fetch).sum (ins 7 [(12287, 20)]) 20 14 34 = 12287) && (u.cores[0].tagged 0 (64 * 12287) 8).isSome)
      && acts (atInsn .fetch (ins 7 [(12287, 20), (1, 41)])) .fetch (ins 7 [(12287, 20), (1, 41)]) 7 (fun u => !u.cores[0].isFull 12287)) = true := by decide +kernel

theorem test_meets_ScalarInstructionsFrame :
    (acts (atInsn .fetch (ins 7 [(12287, 20)])) .fetch (ins 7 [(12287, 20)]) 7 (fun u =>
      decide ((u.eng 0 .fetch).sum (ins 7 [(12287, 20)]) 20 14 34 = 12287))
      && isNext (exec (.sload 0 .fetch (ins 7 [(12287, 20)]) .ok) (atInsn .fetch (ins 7 [(12287, 20)])))) = true := by decide +kernel

theorem test_meets_EngineInstructionsLeaveMemory :
    (live.taken = [] ∧ live.heldOut = [] ∧ live.fab.waiting = [] ∧ live.twin.outgoing = [] ∧ (0 < retxBase ∧ live.ctxs = [])) ∧ isNext (exec (.set 0 .exec 0 .ok) live) = true := by decide +kernel

theorem test_meets_FlowInstructionsComplete :
    (let l3 := ins 3 [(4095, 16), (2 ^ 32 - 1, 36)]
     acts (atInsn .fetch l3 { fet := { loops := [⟨1, 4095, 2, 0, 0⟩, ⟨1, 4095, 2, 0, 0⟩, ⟨1, 4095, 2, 0, 0⟩] } }) .fetch l3 3 (fun u =>
        decide ((u.eng 0 .fetch).loops.length < 4) && decide ((u.eng 0 .fetch).sum l3 36 32 32 = 2 ^ 32 - 1) && decide ((u.eng 0 .fetch).pc.toNat < fld l3 16 12)
          && (u.eng 0 .fetch).loops.all (fun l => decide (fld l3 16 12 ≤ l.last)))
      && acts (atInsn .exec (ins 4 [])) .exec (ins 4 []) 4 (fun u => branchTaken 0 ((u.eng 0 .exec).rd 0))
      && acts (atInsn .exec (ins 4 [(2, 32)])) .exec (ins 4 [(2, 32)]) 4 (fun u => !branchTaken 2 ((u.eng 0 .exec).rd 0))
      && acts (atInsn .fetch (ins 4 [])) .fetch (ins 4 []) 4 (fun u => branchTaken 0 ((u.eng 0 .fetch).rd 0))
      && acts (atInsn .fetch (ins 4 [(2, 32)])) .fetch (ins 4 [(2, 32)]) 4 (fun u => !branchTaken 2 ((u.eng 0 .fetch).rd 0))
      && acts (atInsn .fetch (ins 2 [])) .fetch (ins 2 []) 2 (fun u => u.cores[0].streams.isEmpty && u.cores[0].puts.isEmpty)
      && acts (atInsn .exec (ins 2 [])) .exec (ins 2 []) 2 (fun u => u.cores[0].arrayQ.isEmpty && u.cores[0].readouts.isEmpty && u.cores[0].vecQ.isEmpty
          && u.cores[0].queues.toList.all (fun q => q.pushes.isEmpty))) = true := by decide +kernel

theorem test_meets_RegistersAndLoops :
    (let s := onCore { fet := { pc := 4094, loops := [⟨3, 4094, 2, 0, 5⟩] } }
     s.cores[0].run.isSome && decide ((s.eng 0 .fetch).pc.toNat < 4095) && (s.eng 0 .fetch).loops.all (fun l => decide (l.last = 4094) && decide (l.iter + 1 < l.count))
      && (s.eng 0 .exec).loops.isEmpty) = true := by decide +kernel

theorem test_meets_IllegalWordsAndFailedChecks :
    (let w := ins 0x30 [(1, 113)]
     (atInsn .exec w).ready 0 .exec w && !legalInsn .exec w
      && (atInsn .fetch (ins 0x99 [])).ready 0 .fetch (ins 0x99 []) && !legalInsn .fetch (ins 0x99 []) && (rowOf 0 .fetch (ins 0x99 []) .ok).isNone) = true := by
  decide +kernel

theorem test_meets_IllegalWordsAndFailedChecks_rows : [(ins 7 [], Eng.exec), (ins 0x12 [], .fetch), (ins 0x20 [], .exec), (ins 0x22 [], .fetch)].all
    (fun x => (atInsn x.2 x.1).ready 0 x.2 x.1 && ((atInsn x.2 x.1).ctxOn 0).isSome) = true := by decide +kernel

/-- A core at a PUT whose source slot fails its check, with queue 7 for its handle or none. -/
def badPut (l : List (Nat × Nat)) : State := atInsn .fetch (ins 0x12 ((12287, 64) :: (12287, 48) :: l))

theorem test_meets_IllegalWordsAndFailedChecks_put : [[], [(1, 111), (7, 112)]].all (fun l =>
    let w := ins 0x12 ((12287, 64) :: (12287, 48) :: l)
    let s := badPut l
    acts s .fetch w 0x12 && decide (s.cores[0].fet.sum w 64 14 88 = 12287) && decide (s.cores[0].fet.sum w 48 14 84 = 12287) && decide (12287 + (fld w 78 6 + 1) ≤ 12288)
      && (s.cores[0].slotRead (fld w 62 2) 12287).any (fun k => decide (64 ≤ (k.readOn 0 (64 * 12287) 64 (k.spadRd (64 * 12287) 64)).2.length))
      && bit w 111 == !l.isEmpty && !(s.cores[0].q 7).exeToFet && decide ((s.cores[0].q 7).owed < (s.cores[0].q 7).limit)
      && decide ((s.cores[0].q 7).slots.length < (s.cores[0].q 7).depth)) = true := by decide +kernel

theorem test_meets_IllegalWordsAndFailedChecks_same (w : Insn) : (atInsn .fetch w).passes 0 .ok = some (atInsn .fetch w) := rfl

/-- A PUT bound to queue 7 one of whose slots failed its check. -/
def lostPut : PutJob := { id := 4, dst := 8, win := 0, queue := some 7, flag := none, slot := 0, lines := 2, code := 0, pc := 9, fault := 3 }

theorem test_meets_IllegalWordsAndFailedChecks_end :
    (let v := onCore { puts := [lostPut] }
     decide (pull (fun (g : PutJob) => g.id = lostPut.id) v.cores[0].puts = some (lostPut, [])) && decide (lostPut.queue = some 7)
      && !v.fab.outst.any (fun o => decide (o.agent = .put 0 lostPut.id)) && !v.fab.waiting.any (fun p => decide (p.2.1 = .put 0 lostPut.id))) = true := by decide +kernel

theorem test_meets_InstructionFaultTearsTheContextDown :
    ((onCore {}).ctxOn 0 = some 7 ∧ (onCore {}).ctx? 7 = some ctx7 ∧ ctx7.st ≠ .faulted) := by decide +kernel

/-- A descriptor of one run of 64 B from HBM to slot 0, by descriptor number, with further bits. -/
def desc (bits : List (Nat × Nat)) : BitVec 512 :=
  BitVec.ofNat 512 (([(0x300000000, 0), (0x100000000000, 64), (64, 128)] ++ bits).map (fun (f : Nat × Nat) => f.1 * 2 ^ f.2)).sum

theorem test_meets_StreamInstructionsComplete :
    (let w := ins 0x10 [(255, 16)]
     let d := desc [(1, 160), (1, 176), (1, 192), (7, 216), (1, 219)]
     acts (atInsn .fetch w { desc := [(255, d)] }) .fetch w 0x10 (fun u =>
        descOk (u.cores[0].descAt 255) (replacedBy u.cores[0].fet w d) (u.cores[0].q 7).exeToFet && !(parseDesc d).idxEn && (parseDesc d).qen
          && decide ((u.cores[0].q 7).owed < (u.cores[0].q 7).limit) && decide ((u.cores[0].q 7).slots.length < (u.cores[0].q 7).depth)
          && decide (u.cores[0].streams.length < 64))
      && (let w := ins 0x11 [(0, 16)]
          let d := desc [(1, 160), (1, 176), (1, 192), (1, 245), (1, 480)]
          acts (atInsn .fetch w { desc := [(0, d), (1, desc [(1, 160), (1, 176), (1, 192), (2, 208)])] }) .fetch w 0x11 (fun u =>
            descOk (u.cores[0].descAt 0) (replacedBy u.cores[0].fet w d) false && (parseDesc d).idxEn
              && idxDescOk (u.cores[0].descAt 1) (fld (u.cores[0].descAt 1) 0 64)))) = true := by decide +kernel

/-- A stream of the descriptor above whose one run is moved. -/
def stream1 (d : Desc) : Stream :=
  { id := 3, num := 0, d := d, idx := none, pc := 0, due := none, moved := 1, bytes := 64 }

theorem test_meets_StreamsComeAndGo :
    (let d := parseDesc (desc [(1, 160), (1, 176), (1, 192), (0, 216), (1, 219)])
     let s := onCore { streams := [stream1 d] }
     s.cores[0].run.isSome && decide (s.cores[0].streams.length < 64) && decide (d.runs ≠ 0) && d.qen && decide ((s.cores[0].q d.queue).owed < (s.cores[0].q d.queue).limit)
      && decide ((s.cores[0].q d.queue).slots.length < (s.cores[0].q d.queue).depth)
      && decide (s.cores[0].streams.find? (fun u => decide (u.id = (stream1 d).id)) = some (stream1 d)) && decide (d.runs ≤ (stream1 d).moved)
      && !s.vcl.reqs.any (fun q => decide (q.who = .stream 0 3)) && (allCores.all (fun c => s.cores[c].streams.all (fun u => u.todo.isEmpty)))) = true := by
  decide +kernel

theorem test_meets_WindowInstructionsComplete :
    (let w := ins 0x12 [(12287, 64), (12287, 48), (1, 111), (7, 112)]
     let q : LQueue := {}
     acts (atInsn .fetch w { queues := (Vector.replicate 8 {}).set 7 q }) .fetch w 0x12 (fun u =>
        decide (u.cores[0].fet.sum w 64 14 88 = 12287) && decide (u.cores[0].fet.sum w 48 14 84 = 12287) && decide (fld w 78 6 = 0)
          && !(u.cores[0].q 7).exeToFet && decide ((u.cores[0].q 7).owed < (u.cores[0].q 7).limit) && decide ((u.cores[0].q 7).slots.length < (u.cores[0].q 7).depth)
          && decide (64 ≤ (u.cores[0].readOn (fld w 62 2) (64 * 12287) (64 * (fld w 78 6 + 1)) u.cores[0].fet.got).2.length))
      && (let w := ins 0x13 [(15, 16), (12287, 20), (1, 38)]
          acts (atInsn .fetch w) .fetch w 0x13 (fun u =>
            decide (u.cores[0].fet.sum w 20 14 34 = 12287) && decide (u.cores[0].fet.sum w 38 14 52 = 1) && !(u.cores[0].win 15).opened
              && u.cores[0].wins.toList.all (fun v => !v.opened)))
      && (let w := ins 0x14 [(15, 16)]
          acts (atInsn .fetch w { wins := (Vector.replicate 16 {}).set 15 { opened := true } }) .fetch w 0x14 (fun u => (u.cores[0].win 15).opened))
      && (let w := ins 0x15 [(4094, 16), (4080, 32)]
          acts (atInsn .fetch w { bindQ := [⟨0, 0, false, 0⟩, ⟨0, 0, false, 0⟩, ⟨0, 0, false, 0⟩] }) .fetch w 0x15 (fun u =>
            decide (u.cores[0].fet.sum w 16 12 28 = 4094) && decide (u.cores[0].fet.sum w 32 12 44 = 4080) && decide (4080 % (u.seatOf 0).2 = (u.seatOf 0).1)
              && decide (((u.cores[0].run.map (·.task)).join) = none) && decide (u.cores[0].bindQ.length < 4)))) = true := by decide +kernel

theorem test_meets_HandleQueueInstructionsComplete :
    (let w := ins 0x18 [(1, 20)]
     acts (atInsn .fetch w) .fetch w 0x18 (fun u => decide (u.ghqOf 0 0 = some 63) && decide ((u.ghq 63).entries.length < 32))
      && (let w := ins 0x18 [(7, 21)]
          acts (atInsn .fetch w) .fetch w 0x18 (fun u => !(u.cores[0].q 7).exeToFet && decide ((u.cores[0].q 7).slots.length < (u.cores[0].q 7).depth)))
      && (let w := ins 0x19 [(1, 20)]
          let s := (atInsn .fetch w).setGhq 63 { owner := some 7, entries := [9] }
          acts s .fetch w 0x19 (fun u => decide (u.ghqOf 0 0 = some 63) && decide ((u.ghq 63).entries = [9])))
      && (let w := ins 0x19 [(7, 21)]
          acts (atInsn .fetch w { queues := (Vector.replicate 8 {}).set 7 { exeToFet := true, slots := [.entry 9 0 0] } }) .fetch w 0x19 (fun u =>
            (u.cores[0].q 7).exeToFet && decide ((u.cores[0].q 7).slots = [.entry 9 0 0])))) = true := by decide +kernel

/-- The word of a sync instruction on an object by program index. -/
def syn (op i : Nat) (l : List (Nat × Nat) := []) : Insn := ins op ((i, 16) :: l)

theorem test_meets_SyncInstructionsComplete :
    (acts (atInsn .fetch (syn 0x20 783)) .fetch (syn 0x20 783) 0x20 (fun u => decide (u.translateOn 0 783 = some 783) && decide (objKind 783 = .flag))
      && acts (atInsn .exec (syn 0x21 8975)) .exec (syn 0x21 8975) 0x21 (fun u => decide (u.translateOn 0 8975 = some 8975) && decide (objKind 8975 = .counter))
      && acts (atInsn .exec (syn 0x22 767)) .exec (syn 0x22 767) 0x22 (fun u => decide (u.translateOn 0 767 = some 767) && decide (objKind 767 = .pipe)
        && u.cores[0].posted.isEmpty)
      && acts (atInsn .fetch (syn 0x23 8960)) .fetch (syn 0x23 8960) 0x23 (fun u => decide (u.translateOn 0 8960 = some 8960) && decide (objKind 8960 = .counter))
      && acts (atInsn .fetch (syn 0x23 15 [(1, 34)])) .fetch (syn 0x23 15 [(1, 34)]) 0x23
        (fun u => decide ((u.eng 0 .fetch).sum (syn 0x23 15 [(1, 34)]) 16 14 30 = 15))
      && acts ((atInsn .fetch (syn 0x24 8960 [(3, 64)])).setObj 8960 3) .fetch (syn 0x24 8960 [(3, 64)]) 0x24 (fun u => decide (fld (u.obj 8960) 0 32 = 3))
      && acts (atInsn .fetch (syn 0x26 16128)) .fetch (syn 0x26 16128) 0x26 (fun u => decide (u.translateOn 0 16128 = some 16128) && decide (objKind 16128 = .barrier))
      && acts (atInsn .fetch (syn 0x26 16128 [(1, 34)])) .fetch (syn 0x26 16128 [(1, 34)]) 0x26 (fun u =>
        ((u.barArrive 16128 (u.ctxOn 0)).cores[0].run).isSome)
      && acts (atInsn .fetch (ins 0x25 [])) .fetch (ins 0x25 []) 0x25) = true := by decide +kernel

theorem test_meets_SyncInstructionsComplete_indices :
    ([(0x20, 784), (0x21, 8976), (0x22, 784), (0x23, 8976), (0x24, 16129), (0x26, 16383)].all (fun q =>
        acts (atInsn .fetch (syn q.1 q.2)) .fetch (syn q.1 q.2) q.1 (fun u =>
          decide ((u.eng 0 .fetch).sum (syn q.1 q.2) 16 14 30 = q.2) && decide (u.translateOn 0 q.2 = none)))
      && acts (atInsn .exec (syn 0x20 784)) .exec (syn 0x20 784) 0x20 (fun u => decide (u.translateOn 0 784 = none))
      && decide (translate ctx7 4 2 95 = some (48 * 5 + 47)) && decide (translate ctx7 4 2 96 = none) && decide (translate ctx7 15 1 47 = some 767)
      && decide ((translate { ctx7 with ctrBase := 100 } 0 16 8975) = some 9075)
      && (let s : State := { onCore {} with cores := live.cores.set 3 { run := some ⟨7, some 1⟩ } }
          decide (s.translateOn 3 47 = some 191) && decide (s.translateOn 3 48 = none) && decide (s.ctxOn 3 = some 7))) = true := by decide +kernel

theorem test_meets_SetAndArrive :
    (live.syn.waits.isEmpty && !bit (live.obj 8959) 0 && decide (objKind 8959 = .flag) && decide (objKind 16127 = .counter) && decide (objKind 0 = .pipe)
      && bit ((live.setObj 0 1).obj 0) 0 && !(live.setObj 0 1).strictSync ((live.setObj 0 1).ownerOf ((live.setObj 0 1).obj 0))) = true := by decide +kernel

theorem test_meets_MatrixInstructionsComplete :
    ((let w := ins 0x30 [(1, 19), (1, 45), (256, 36), (12024, 73)]
      acts (atInsn .exec w { bindQ := [⟨0, 0, false, 0⟩] }) .exec w 0x30 (fun u => decide (u.cores[0].exe.sum w 73 14 87 = 12024) && slotsIn 12024 (64 * fld w 45 9 / 32 * actSlots (fld w 21 2))
            && decide (u.cores[0].exe.sum w 54 15 69 = 0) && decide (u.cores[0].exe.repl w 36 9 109 = 256) && decide (u.cores[0].exe.sum w 91 14 105 = 0)
            && !u.cores[0].bindQ.isEmpty))
      && (let w := ins 0x30 [(1, 20), (1, 45), (1, 36)]
          acts (atInsn .exec w { bind := some ⟨0, 0, false, 0⟩, staging := some ⟨0, 1, 0, 0, false⟩ }) .exec w 0x30 (fun u => bit w 20 && !bit w 19 && u.cores[0].bind.isSome && decide (u.cores[0].staging = some ⟨0, 1, 0, 0, false⟩)))
      && (let w := ins 0x30 [(1, 45), (1, 36)]
          acts (atInsn .exec w { bind := some ⟨0, 0, false, 0⟩ }) .exec w 0x30 (fun u => !bit w 20 && !bit w 19 && u.cores[0].bind.isSome))
      && (let w := ins 0x31 [(1, 45), (256, 36), (6, 23), (12156, 73), (12156, 54)]
          acts (atInsn .exec w) .exec w 0x31 (fun u => decide (32 * fld w 45 9 ≤ 8192) && decide (u.cores[0].exe.repl w 36 9 109 = 256) && decide (4 ≤ fld w 23 3)
            && decide (fld w 23 3 ≤ 6) && slotsIn (u.cores[0].exe.sum w 73 14 87) (32 * fld w 45 9 / 32 * actSlots (fld w 21 2))
            && slotsIn (u.cores[0].exe.sum w 54 14 69) (32 * fld w 45 9 / 32 * 132)))
      && (let w := ins 0x33 [(46, 34), (6, 43)]
          acts (atInsn .exec w) .exec w 0x33 (fun u => decide (u.cores[0].exe.sum w 16 14 30 = 0) && slotsIn 0 (fld w 34 9 * (blockBytes (fld w 43 3) / 64))
            && u.cores[0].staging.isNone))
      && (let w := ins 0x32 [(1, 25), (255, 110), (1, 23)]
          acts (atInsn .exec w { banks := (Vector.replicate 2 {}).set 0 { st := .held } }) .exec w 0x32 (fun u => decide (u.cores[0].exe.repl w 25 9 34 = 1)
            && decide (u.cores[0].exe.sum w 38 14 52 = 0) && decide (u.cores[0].exe.sum w 56 14 70 = 0) && decide (u.cores[0].banks[0].st ≠ .idle)))) = true := by
  decide +kernel

theorem test_meets_VectorInstructionsComplete :
    (acts (atInsn .exec (ins 0x40 [(16, 88), (12287, 32)])) .exec (ins 0x40 [(16, 88), (12287, 32)]) 0x40 (fun u =>
        (vecOperands u.cores[0] (ins 0x40 [(16, 88), (12287, 32)]) .vop).isSome && !bit (u.reg (blkCore 0) 0x0A00) 0 && decide (u.cores[0].vecQ.length < 4))
      && acts (atInsn .exec (ins 0x41 [(1, 88), (1, 60)])) .exec (ins 0x41 [(1, 88), (1, 60)]) 0x41 (fun u => (vecOperands u.cores[0] (ins 0x41 [(1, 88), (1, 60)]) .vred).isSome)
      && acts (atInsn .exec (ins 0x42 [(16, 88)])) .exec (ins 0x42 [(16, 88)]) 0x42 (fun u => (vecOperands u.cores[0] (ins 0x42 [(16, 88)]) .vfun).isSome)) = true := by
  decide +kernel


theorem test_meets_CoreWaitsAndCompletions :
    ((match vecOperands {} (ins 0x40 [(16, 88), (12287, 32)]) .vop with
      | some j =>
        let s := onCore { vecQ := [j] }
        !s.stopped && decide (s.cores[0].vecQ = [j]) && decide ((s.cores[0].vecOn j).2.1.left = some [])
          && (let u := onCore { vecQ := [{ j with fill := true }], full := [(12287, true)] }
              decide ((u.cores[0].vecOn { j with fill := true }).2.1.left ≠ some []))
      | none => false)
      && (let s := onCore { exe := { st := .waitQueue } }
          s.cores[0].run.isSome && decide ((s.eng 0 .exec).st = .waitQueue))
      && (let s := onCore { fet := { st := .waitQueue } }
          !s.bindWait 0 .fetch && decide ((s.eng 0 .fetch).st = .waitQueue))
      && (let s := atInsn .fetch (ins 0x19 [(7, 21)]) { fet := { st := .runAhead } }
          let t := s.modEng 0 .fetch (fun g => { g with st := .runAhead })
          !t.bindWait 0 .fetch && decide ((t.eng 0 .fetch).st = .runAhead) && !t.queueServes 0 .fetch)
      && (let s := (atInsn .exec (ins 0x30 [(1, 19)])).modEng 0 .exec (fun g => { g with st := .waitQueue })
          s.bindWait 0 .exec && decide ((s.eng 0 .exec).st = .waitQueue) && s.syn.waits.isEmpty && !s.cores[0].tagHolds .exec)
      && ((atInsn .fetch (ins 0x12 [(1, 62)])).cores[0].tagHolds .fetch && (atInsn .exec (ins 7 [(1, 41)])).cores[0].tagHolds .exec)
      && (let u : State := { onCore {} with syn := { live.syn with waits := [⟨0, .fetch, .flagTest 783⟩] } }
          u.syn.waits.any (fun x => x.core = 0 && x.eng = .fetch))
      && (onCore { fet := { st := .waitQueue } }).mayRunAhead 0
      && (let d := parseDesc (desc [(1, 160), (1, 176), (1, 192)])
          decide ((onCore { streams := [stream1 d] }).cores[0].streams.find? (fun t => decide (t.id = 3)) = some (stream1 d)))) = true := by decide +kernel

/-- A matrix instruction on diagonal blocks of 32 rows that has started. -/
def job (started : Bool) : Job :=
  { id := 4, diag := true, bank := 1, clear := true, biasEn := false, biasSlot := 0, actSlot := 12156, ySlot := 0, k0 := 0, k := 32, m := 1, anchor := 0, wfmt := 0
    afmt := 0, staged := false, bind := none, popped := none, push := none, pc := 0, started := started, fed := [], halves := [], done := [], finished := [] }

theorem test_meets_ArrayStartsAndRamps :
    (let s := onCore { arrayQ := [job false], gate := .enabled }
     s.cores[0].run.isSome && !s.saving 0 && decide (s.cores[0].arrayQ.find? (fun e => !e.started) = some (job false)) && s.cores[0].mayStart (job false)
      && s.cores[0].biasReady (job false) && s.cores[0].wantsArray && (s.cores[0].arrayQ.filter (·.started)).all Job.allFed
      && decide ((onCore { gate := .rampUp, groups := 6 }).cores[0].groups < 7) && decide (7 ≤ (onCore { gate := .rampUp, groups := 7 }).cores[0].groups)
      && decide ((onCore { arrayQ := [job false], gate := .rampDown, groups := 7 }).cores[0].groups < 8)
      && decide (1 < (onCore { gate := .rampDown, groups := 2 }).cores[0].groups) && decide ((onCore { gate := .rampDown, groups := 1 }).cores[0].groups ≤ 1)
      && !(onCore { gate := .enabled }).cores[0].wantsArray
      && (let k : Core := { arrayQ := [{ job false with clear := false }], gate := .enabled, banks := (Vector.replicate 2 {}).set 1 { st := .held } }
          k.mayStart { job false with clear := false } && decide (k.banks[1].st ≠ .idle) && decide (k.banks[1].anchor = 0))) = true := by decide +kernel

/-- Slots of the scratchpad marked full. -/
def fullAt (a n : Nat) : SMap Bool := (List.range n).map (fun i => (a + i, true))

theorem test_meets_ContributionsAndReadoutsComplete :
    (let k : Core := { arrayQ := [job true], gate := .enabled, full := fullAt 0 132 ++ fullAt 12156 132, banks := (Vector.replicate 2 {}).set 1 { st := .accumulating, count := 131071 } }
     decide (k.arrayQ.find? (fun j => j.started && j.bank = 1 && j.feeds) = some (job true)) && decide ((0 : Fin 2).val < (job true).passes) && decide (0 < (job true).k / 32)
      && !(job true).done.contains (0, 0) && (actSlotsOf 0 12156 0 1).all k.isFull && decide (k.banks[1].count < 131072) && (job true).diag && (actSlotsOf 0 0 0 1).all k.isFull
      && (let j := { job true with done := [(0, 0), (0, 1)] }
          decide (({ arrayQ := [j] } : Core).arrayQ.find? (fun j => j.started && j.bank = 1) = some j) && j.complete)) = true := by decide +kernel

/-- The same on a staged weight block. -/
def stagedJob : Job := { job true with diag := false, staged := true, wfmt := 0, actSlot := 0 }

/-- A core whose staging is read under a tag mode. -/
def staging (mode : Nat) : Core := { arrayQ := [stagedJob], staging := some ⟨0, 1, 1000, mode, true⟩, full := fullAt 0 132 }

theorem test_meets_ContributionsAndReadoutsComplete_staged :
    ((actSlotsOf 0 0 0 1).all (staging 0).isFull && (((staging 0).feedHalf stagedJob 0).2.weights 0).isSome
      && (((staging 1).feedHalf stagedJob 0).2.weights 0).isNone) = true := by decide +kernel

theorem test_meets_ContributionsAndReadoutsComplete_readouts :
    ((let r : Readout := { id := 5, bank := 0, row0 := 0, m := 0, site := 0, base := 0, rkey := 0, dst := 0, fill := false, diag := false, alayout := false, keep := false,
                               sr := false, ofmt := 0, push := none, pc := 0, started := false, left := none }
          let k : Core := { readouts := [r, { r with bank := 1, m := 256 }], banks := (Vector.replicate 2 {}).set 1 { st := .held } |>.set 0 { st := .accumulating } }
          decide (k.readouts.find? (fun r => r.bank = 0) = some r) && decide (k.readouts.find? (fun r => r.bank = 1) = some { r with bank := 1, m := 256 })
            && !k.arrayQ.any (fun j => j.bank = 0 && j.id < r.id) && decide (k.banks[0].st ≠ .idle) && decide (k.banks[1].st ≠ .idle)
            && (let q := { r with started := true, m := 1, sr := true, rkey := 12287 }
                let k : Core := { readouts := [q], full := fullAt 12287 1 }
                let v := { q with sr := false, diag := true }
                decide (k.readouts.find? (fun r => r.bank = 0 && r.started) = some q)
                  && decide (((onCore { readouts := [v] }).readOut 0 v).2 = [])
                  && decide (((onCore { readouts := [{ v with fill := true }], full := fullAt 0 1 }).readOut 0 { v with fill := true }).2 ≠ [])
                  && (slotsOf (64 * q.rkey + 4 * q.row0) (4 * q.m)).all k.isFull))) = true := by decide +kernel

/-- A stored plait of 64 K-rows of zeros: owner 1's, layer 2, strand 3, index 0, of model 9, epoch 1, for step 5. -/
def plait0 : Bytes :=
  stamped (withCheck (storedHdr 9 2 0 3 0 0 1 1 0 544 2 ++ List.replicate 544 0)) 5 0 0 false 1 false

/-- A header alone, of a plait in another format. -/
def plaitHdr : Bytes := stamped (withCheck (storedHdr 9 2 0 3 1 0 1 1 0 544 0)) 5 0 0 false 1 false

/-- It landed: kept, in the landing buffer, for this device's own seat. -/
def landed0 : Landed := { bytes := plaitHdr, forward := false, ccw := false, kept := true, refs := false, inRing := false }

/-- A rim of two members in partition 0, of which this device is member 0. -/
def rim2 : Rim := { phase := .formed, n := 2, own := 0, lead := 0, members := [7, 8], cw := 1, ccw := 2, digest := 0x55, landed := [landed0] }

/-- The model of the tests: 4 layers of two formats, by publisher 0. -/
def model9 : Model := ⟨9, 0, 4, 3, List.replicate 32 0⟩

/-- A unit of work of the command that the device numbers 9. -/
def work (task : Bool) (st : WState) : Work :=
  { cmd := 9, task := task, step := 5, rows := 1, pinned := 0, client := 0, argblk := 0, st := st, core := 0, late := false
    lost := false, swapped := false, expired := false }

/-- Context 7's step 5 runs on core 0 against the rim. -/
def onRim (k : Core := {}) (r : Rim := rim2) : State :=
  let x : Ctx := { ctx7 with model := 9, epoch := 1, armed := some 5, startStep := 5, nextStep := 6
                             queue := [work false .running] }
  let s : State := onCore k
  { s with ctxs := [(7, x)], rims := s.rims.set 0 r, enc := { s.enc with models := [model9], shards := [⟨9, 1, 2, 0, none, false⟩] } }

/-- The matrix instruction that consumes the plait above. -/
def fedJob : Job := { job true with diag := false, k := 64, bind := some ⟨2, 3, false, 0⟩ }

theorem test_meets_ExpanderTakesAndDelivers :
    (let s := onRim { arrayQ := [fedJob], gate := .enabled }
     decide (s.cores[0].feeding = some (fedJob, ⟨2, 3, false, 0⟩))
      && (match s.plaitsFor 0 with
          | some (id, x, t) =>
            decide ((s.cores[0].xbuf.map (fun u => u.bytes.length)).sum + plaitHdr.length ≤ 40960) && decide (plaitHdr.length ≤ 16992) && checkPasses plaitHdr
              && decide ((hdrOf plaitHdr).kind = 0 ∧ (hdrOf plaitHdr).model = x.model ∧ (hdrOf plaitHdr).layer = 2 ∧ (hdrOf plaitHdr).strand = 3)
              && decide ((hdrOf plaitHdr).epoch = (s.epochsAt id x t).headD x.epoch) && fedJob.needs.contains (hdrOf plaitHdr).p && !fedJob.finished.contains (hdrOf plaitHdr).p
              && decide ((hdrOf plaitHdr).format ≠ 7 ∧ (hdrOf plaitHdr).owner ≠ s.rims[s.partOf 0].own)
              && decide (s.rims[s.partOf 0].landed.find? (fun d => s.landedFor 0 d && samePlait d.bytes plaitHdr) = some landed0)
              && decide ((hdrOf plaitHdr).step16 = fld t 0 16) && (s.readLanded (s.partOf 0) [] landed0).1
              && s.cores[0].xbuf.isEmpty
              && !(s.decodable (s.partOf 0) (hdrOf plaitHdr) && (decodePlait (s.lensOf (s.partOf 0) (hdrOf plaitHdr)) plaitHdr).isNone)
          | none => false)) = true := by decide +kernel

/-- The matrix instruction's plait in the expander's buffer. -/
def buffered : State := onRim { arrayQ := [fedJob], gate := .enabled, xbuf := [⟨plait0, false, none⟩] }

theorem test_meets_ExpanderTakesAndDelivers_decode :
    !buffered.saving 0 ∧ buffered.decodable (buffered.partOf 0) (hdrOf plait0) = true ∧ (hdrOf plait0).format = fedJob.wfmt ∧ fedJob.feeds = true
      ∧ fedJob.started = true ∧ buffered.cores[0].gate = .enabled := by decide +kernel

theorem test_meets_ExpanderTakesAndDelivers_decodes : (decodePlait (buffered.lensOf (buffered.partOf 0) (hdrOf plait0)) plait0).isSome = true := by decide +kernel

/-- A stored plait's header alone: this device's own, of layer 2 and strand 2, in another format than the matrix instruction's. -/
def ownHdr2 : Bytes := withCheck (storedHdr 9 2 0 2 1 0 0 1 0 0 0)

theorem test_meets_ExpanderTakesAndDelivers_own :
    (let key := dirKey 9 2 2 0 1
     let j : Job := { fedJob with bind := some ⟨2, 2, false, 0⟩ }
     let s : State := { onRim { arrayQ := [j], gate := .enabled } with
       enc := { live.enc with models := [model9], dir := [⟨setA key, 0, key, 0, 1, false, 32, storeBase, segCheck [ownHdr2], 0⟩] }, mem := setBytes [] storeBase ownHdr2 }
     decide (s.cores[0].feeding = some (j, ⟨2, 2, false, 0⟩)) && decide ((s.ownPlait [] (hdrOf ownHdr2)).1 = some ownHdr2)
      && !(s.decodable (s.partOf 0) (hdrOf ownHdr2) && (decodePlait (s.lensOf (s.partOf 0) (hdrOf ownHdr2)) ownHdr2).isNone) && checkPasses ownHdr2
      && decide ((hdrOf ownHdr2).owner = s.rims[s.partOf 0].own ∧ (hdrOf ownHdr2).kind = 0 ∧ (hdrOf ownHdr2).format ≠ 7 ∧ (hdrOf ownHdr2).format ≠ j.wfmt)
      && decide (dirKey 9 2 2 (hdrOf ownHdr2).segment (hdrOf ownHdr2).epoch = key) && s.enc.dir.any (fun d => d.key = key && decide ((hdrOf ownHdr2).part ≤ d.countM1))
      && !s.rims[s.partOf 0].failed.contains key && !s.rims[s.partOf 0].fixing.contains key && s.cores[0].xbuf.isEmpty
      && (match s.plaitsFor 0 with
          | some (id, x, t) => decide ((hdrOf ownHdr2).model = x.model ∧ (hdrOf ownHdr2).epoch = (s.epochsAt id x t).headD x.epoch) && j.needs.contains (hdrOf ownHdr2).p
          | none => false)) = true := by decide +kernel

/-- A packet of 64 B. -/
def pkt (typ : BitVec 8) (word : BitVec 32) (bytes : Bytes := List.replicate 64 0) : Packet := ⟨7, 8, 0, 0, typ, 0, 0, word, bytes⟩

/-- A packet that awaits its answer. -/
def sent (sends : Nat) (retry : Bool) : OutPkt := ⟨pkt 0x0B 0, sends, 0, .sync, none, retry, 0⟩

/-- A core whose bank 1 has taken some contributions and whose next one is ready. -/
def counting (n : Nat) : Core :=
  { arrayQ := [job true], gate := .enabled, full := fullAt 0 132 ++ fullAt 12156 132, banks := (Vector.replicate 2 {}).set 1 { st := .accumulating, count := n } }

theorem test_meets_AccumulationIsOrderFree :
    ([131071, 131072].all (fun n =>
        let s := onCore (counting n)
        !s.stopped && !s.saving 0 && decide (s.cores[0].arrayQ.find? (fun j => j.started && j.bank = 1 && j.feeds) = some (job true)) && decide (s.cores[0].gate = .enabled)
          && decide ((0 : Fin 2).val < (job true).passes) && decide (0 < (job true).k / 32) && !(job true).done.contains (0, 0)
          && (actSlotsOf 0 12156 0 1).all s.cores[0].isFull && (job true).diag && (actSlotsOf 0 0 0 1).all s.cores[0].isFull
          && decide (s.cores[0].banks[1].count = n))
      && (let l : List (Int × Int × Bool) := [(1, 0, false), (2 ^ 47 - 1, 63, false), (-1, 200, false), (0, 0, true)]
          let w := (l.take 1).foldl (fun w k => contribute w k.1 k.2.1 (-1) k.2.2) 0
          decide (l.length ≤ 131072) && decide (excursion (anchored 1 0 (-1)) = 0) && decide (w = 2)
            && decide (l.foldl (fun w k => contribute w k.1 k.2.1 (-1) k.2.2) 0 = l.reverse.foldl (fun w k => contribute w k.1 k.2.1 (-1) k.2.2) 0))) = true := by
  decide +kernel

theorem test_meets_PacketsAndTheirTimersComplete :
    ((pkt 0x0B 0).typ = 0x0B ∧ live.stopped = false ∧ (live.objFails none).stopped = false ∧ (live.objFails (some (5, false))).stopped = false
      ∧ (let s : State := { live with fab := { live.fab with outst := [sent 7 false] } }; s.outPkt? 7 0 = some (sent 7 false))
      ∧ (let s : State := { live with fab := { live.fab with outst := [sent 8 false] } }; s.outPkt? 7 0 = some (sent 8 false))
      ∧ (let s : State := { live with fab := { live.fab with outst := [sent 8 true] } }; s.outPkt? 7 0 = some (sent 8 true))
      ∧ (let s : State := { live with fab := { live.fab with outst := [sent 0 false], inject := [pkt 0x0B 0] } }; s.outPkt? 7 0 = some (sent 0 false) ∧ s.toInject (sent 0 false) = true)
      ∧ State.toInject { live with fab := { live.fab with outst := [sent 7 false] } } (sent 7 false) = false) := by decide +kernel

theorem test_meets_PacketsAreKeptAndAnsweredOnce :
    (let s : State := { live with fab := { live.fab with reasm := [⟨8, 1, [(1, 0)], 0⟩] } }
     s.fab.reasm.find? (fun e => e.src = (pkt 1 0).src) = some ⟨8, 1, [(1, 0)], 0⟩ ∧ 32768 ≤ ((pkt 1 0).pseq - 1).toNat
      ∧ (({ pkt 1 0 with pseq := 1 }).pseq - 1).toNat < 512 ∧ State.mayInject { live with fab := { live.fab with banks := live.fab.banks.set 0 { ownEp := 7 } } } (pkt 1 0) = true ∧ live.fab.waiting = []
      ∧ (let s : State := { live with fab := { live.fab with outst := [sent 0 false] } }
         s.fab.outst.find? (fun o => o.pkt.dst = (pkt 0x0B 0).dst && o.pkt.pseq = (pkt 0x0B 0).pseq && o.pkt.typ = (pkt 0x0B 0).typ) = some (sent 0 false))) := by decide +kernel

theorem test_meets_PutStoresInItsWindow :
    (let s := onCore { wins := (Vector.replicate 16 {}).set 15 { opened := true, base := 12287, len := 1, gen := 200 } }
     let p := pkt 1 (BitVec.ofNat 32 (15 * 16 + 200 * 256))
     s.winAt 0 15 200 = .live 7 ∧ 0 + p.payload.length / 64 ≤ (s.cores[0].win 15).len.toNat ∧ s.winAt 0 15 199 = .closed
      ∧ (s.cores[0].win 15).len.toNat < 1 + p.payload.length / 64 ∧ s.syn.waits = [] ∧ s.syn.held = []
      ∧ s.ctxOn 0 = some 7 ∧ (s.cores[0].win 15).opened = true ∧ (s.cores[0].win 15).gen = 200 ∧ s.syn.parked = []) := by decide +kernel

/-- The device with links in a state. -/
def linked (st : LinkSt) (f : Link → Link := id) : State := { live with links := live.links.map (fun k => f { k with st := st }) }

theorem test_meets_LinkHandshakeCompletes :
    ((linked .down).links[19].st = .down ∧ 6 ≤ live.pwr.stage ∧ (linked .train).links[0].st = .train ∧ (linked .hello).links[0].st = .hello
      ∧ (linked .hello).stopped = false ∧ (linked .hello).sec.chainBad = false ∧ ({ linked .hello with stopped := true } : State).links[19].st = .hello
      ∧ (linked .keyx (fun k => { k with peer := some ⟨[], [], []⟩ })).links[0].peer.isSome = true
      ∧ (let m : HelloMsg := ⟨0, 0, 0, 5, 0, 0, 0⟩
         ((linked .up (fun k => { k with partner := some m })).links[19].partner.map (·.serial)) = some m.serial
           ∧ ((linked .up (fun k => { k with partner := some { m with serial := 6 } })).links[19].partner.map (·.serial)) ≠ some m.serial)) := by decide +kernel

/-- Whatever the partner's OFFER was, some signature verifies, and a short one does not. -/
theorem test_meets_LinkHandshakeCompletes_proof (k : Link) (lower : Bool) (o : Offer) :
    (∃ sig, ecdsaOk (Config.chainSubject o.chain) (k.both lower (fun o => o.pub ++ o.random ++ o.chain)) sig = true)
      ∧ ecdsaOk (Config.chainSubject o.chain) (k.both lower (fun o => o.pub ++ o.random ++ o.chain)) [] = false :=
  ⟨⟨_, ecdsaOk_with _ _ 0 (Nat.two_pow_pos _)⟩, ecdsaOk_length (by decide)⟩

theorem test_meets_FlitsAndRekeysComplete :
    (let f : Flit := ⟨0, [], 0, 0⟩
     let g : Flit := { f with crc := flitCrc f }
     flitCrcOk f = false ∧ flitCrcOk g = true ∧ flitSeq g ≠ (linked .up (fun k => { k with rxSeq := 511 })).links[0].rxSeq
       ∧ (linked .up (fun k => { k with replay := [(f, 0)], resends := 14 })).links[0].replay.any (fun f => flitSeq f.1 = 0) = true
       ∧ (linked .up).links[0].tx.next = none ∧ (linked .up).links[0].ctlQ = [] ∧ (linked .up).links[0].nextKind false = none ∧ (linked .up).links[0].replay.length < 256) := by decide +kernel

/-- A flit without payload whose CRC holds, with a tag made from the one that its link expects. -/
def tagged (k : Link) (t : BitVec 64 → BitVec 64) : Flit :=
  let d := k.rx.at_ k.rxFlits
  let f : Flit := ⟨0, [], t (flitTag d.1 (flitNonce d.2 k.rxFlits) (flitAad 0) []), 0⟩
  { f with crc := flitCrc f }

theorem flitCrcOk_tagged (k : Link) (t : BitVec 64 → BitVec 64) : flitCrcOk (tagged k t) = true := beq_self_eq_true _

theorem ne_not (x : BitVec 64) : x ≠ ~~~ x := fun h => by simpa using congrArg (·.getLsbD 0) h

theorem test_meets_FlitsAndRekeysComplete_tags :
    (let k := (linked .up).links[19]
     k.st = .up ∧ k.rxSeq = 0 ∧ k.tagFails.length < 3 ∧ flitCrcOk (tagged k id) = true ∧ flitKind (tagged k id) = 0 ∧ flitSeq (tagged k id) = 0
       ∧ k.tagOk (tagged k id) = true ∧ flitCrcOk (tagged k (~~~ ·)) = true ∧ flitSeq (tagged k (~~~ ·)) = 0 ∧ k.tagOk (tagged k (~~~ ·)) = false ∧ flitKind (tagged k (~~~ ·)) ≠ 7) :=
  ⟨by decide +kernel, by decide +kernel, by decide +kernel, flitCrcOk_tagged _ _, rfl, rfl, beq_self_eq_true _, flitCrcOk_tagged _ _, rfl,
    beq_eq_false_iff_ne.mpr (ne_not _), by show (0 : Nat) ≠ 7; decide⟩

theorem test_meets_LinkTimeAndAdaptationComplete :
    ((linked .up).links[0].st = .up ∧ live.stopped = false ∧ 8 ≤ live.pwr.stage
      ∧ (let s : State := { linked .up with time := { parent := some 19, locked := true, bad := 15 } }; s.time.parent = some 19 ∧ s.time.locked = true)
      ∧ (let s : State := { linked .up with time := { parent := some 19, good := 15 } }; s.time.parent = some 19 ∧ s.time.locked = false ∧ s.time.stepped = false)
      ∧ (linked .up).mayAdapt 0 = true ∧ live.mayAdapt 20 = true
      ∧ (let s : State := { live with tune := { trial := [(20, -1)] } }; look s.tune.trial 20 = some (-1))) := by decide +kernel

theorem test_meets_RouterCompletes :
    (let p := pkt 0x0B 0
     let r : Routed := ⟨p, some 15, 1⟩
     let s : State := { linked .up (fun k => { k with fcIn := 31 }) with fab := { live.fab with
       inject := [p], queue := [r], banks := live.fab.banks.set 0 { live.fab.banks[0] with table := [(7, 8)] } } }
     pull (fun (q : Packet) => q = p) s.fab.inject = some (p, []) ∧ s.isGeneral 17 = true ∧ s.fab.queue[0]? = some r
       ∧ (s.portsFor r).any (fun i => (((s.bankOf r.pkt).ports[i]?).map (fun e => bit e.links 17)).getD false) = true
       ∧ (List.range 8).any (fun i => !(s.fab.banks[s.fab.inj].linksAt i).isEmpty) = true ∧ (s.pickOutput r).isSome = true ∧ s.isStale p = false ∧ ({ s with podTime := 600000 } : State).isStale p = true
       ∧ bit p.flags 8 = false ∧ bit p.flags 11 = false ∧ s.atHead 0 r = true ∧ kindOf p = 0 ∧ kindOf (pkt 2 0) ≠ 0
       ∧ s.tune.turns % 2 ^ s.tune.gust = 0 ∧ ({ s with tune := { turns := 1, gust := 1 } } : State).tune.turns % 2 ^ 1 ≠ 0
       ∧ s.injectBytes ≤ 65536 ∧ 4 ≤ ({ s with tune := { quiet := 4 } } : State).tune.quiet
       ∧ (let f : FabFlip := ⟨1, 0, 1⟩
          let t : State := { live with fab := { live.fab with flip := some f } }
          let w : State := { live with fab := { live.fab with flip := some { f with at_ := 1 } } }
          t.stopped = false ∧ t.fab.flip = some f ∧ t.isTime f.at_ = true ∧ w.isTime 1 = false)
       ∧ (let t : State := { live with fab := { live.fab with inj := 1 }, podTime := 20000 }
          t.fab.banks[0].live = true ∧ t.fab.banks[0].used = true ∧ (0 : Fin 2) ≠ t.fab.inj ∧ t.drain 0 = 0
            ∧ 20000 ≤ (t.podTime - t.fab.flippedAt).toNat ∧ 20000 ≤ (t.podTime - t.fab.busyAt[0]).toNat)) := by decide +kernel

/-- The device with credits of every class on its host link. -/
def credited (s : State) : State := { s with vcl := { s.vcl with credits := #v[8, 8, 8] } }

/-- The device with ring 0 in a state. -/
def ringAt (st : RingSt) (f : Ring → Ring := id) : State :=
  State.setReg { live with rings := live.rings.set 0 (f { st := st }) } blkCTL 0x0418 (BitVec.ofNat 64 (16 + 16 * 2 ^ 13)) 0

/-- A word that enables a ring with queues of 16 and 4,096 entries. -/
def enable : Word := BitVec.ofNat 64 (16 + 4096 * 2 ^ 13 + 2 ^ 63)

theorem test_meets_RingOperationsComplete :
    ((ringAt .active).stopped = false ∧ (ringAt .active).sqSize 0 = 16 ∧ (ringAt .active).cqSize 0 = 16 ∧ (15#64).toNat < 16 ∧ 16 ≤ (16#64).toNat
      ∧ (ringAt .disabled).rings[0].st = .disabled ∧ bit enable 63 = true ∧ ringSize (fld enable 0 13) = true ∧ ringSize (fld enable 13 13) = true
      ∧ (ringAt .active).taken.any (fun t => t.ring = 0) = false
      ∧ (let s := (ringAt .active (fun g => { g with unsent := 1 })).setReg blkCTL 0x0418 (BitVec.ofNat 64 (2 ^ 40)) 0; s.coalesce 0 ≠ 0 ∧ s.rings[0].unsent ≠ 0)
      ∧ (let s := ringAt .active (fun g => { g with sqTail := 1 })
         s.obinhaOn = true ∧ s.vcl.st = .up ∧ s.nextRing = some 0 ∧ fld (0x7F : BitVec 512) 0 8 ≠ 0x40 ∧ fld (0x40 : BitVec 512) 0 8 = 0x40 ∧ s.queueFull 0 = false)) := by decide +kernel

theorem test_meets_EntryTakeCompletes :
    (let s := ringAt .active (fun g => { g with sqTail := 1 })
     let e : BitVec 512 := BitVec.ofNat 512 (1 + 3 * 2 ^ 8)
     s.obinhaOn = true ∧ s.vcl.st = .up ∧ s.nextRing = some 0
       ∧ entryStatus (fld e 0 8) (fld e 8 8) (BitVec.ofNat 64 (fld e 64 64)) (BitVec.ofNat 32 (fld e 32 32)) (BitVec.ofNat 384 (fld e 128 384)) true = stOk
       ∧ (let t : State := { s with ctxs := [(7, { ctx7 with queue := List.replicate 16 (work true .queued) })] }
          t.nextRing = some 0 ∧ t.queueFull 7 = true)
       ∧ 0x2F ∉ opcodes ∧ 0x7F ∈ opcodes) := by decide +kernel

theorem test_meets_CompletionIsWritten :
    (let t : Taken := ⟨0, 1, 1, false, false, true, 0, 0, 0, 0, 5⟩
     let s : State := { credited (ringAt .active) with taken := [t] }
     pull (fun e : Taken => e.id = t.id && e.begun) s.taken = some (t, []) ∧ s.rings[t.ring].st = .active ∧ s.linkIdle = true
       ∧ stOk ≠ stBadOpcode ∧ stOk ≠ stInvalid) := by decide +kernel

/-- A device with one command taken. -/
def asked (s : State) (op : Nat) (args : List (Nat × Nat)) (buf : Word := 0) (len : Nat := 0) : State :=
  { s with taken := [⟨0, 1, BitVec.ofNat 8 op, false, false, false, buf, BitVec.ofNat 32 len, packArgs args, 0, 5⟩] }

/-- Whether a taken command starts and a test holds of it and of the state in which it has started. -/
def begins (s : State) (op : Nat) (args : List (Nat × Nat)) (f : Taken → State → Bool := fun _ _ => true) : Bool :=
  (s.started ⟨0, 1, .ok⟩ op args).any (fun q => f q.1 q.2)

theorem test_meets_IllegalWordsAndFailedChecks_command : begins (asked live 0x01 []) 0x01 [] = true := by decide +kernel

theorem test_meets_ReportCommandsComplete :
    (begins (asked live 0x01 []) 0x01 [] && begins (asked live 0x02 [] 4096 64) 0x02 [] && begins (asked live 0x52 []) 0x52 []
      && begins (asked live 0x71 []) 0x71 []
      && begins (asked live 0x70 [(16, 0)]) 0x70 [(16, 0)] (fun t u => decide (((0 : BitVec 16) = 0) = (t.bufLen = 0)) && u.hkp.ring.isNone && !u.replies.any (fun o => o.1 = t.id) && decide (u.vcl.st = .up)
        && decide ((u.taken.find? (fun x => x.id = t.id)).map (·.buf) = some t.buf))
      && begins (asked live 0x70 [(16, 1000)] 4096 8192) 0x70 [(16, 1000)] (fun t u => decide (t.bufLen ≠ 0) && u.hkp.ring.isNone && !u.replies.any (fun o => o.1 = t.id) && decide (u.vcl.st = .up)
        && decide ((u.taken.find? (fun x => x.id = t.id)).map (·.buf) = some t.buf))) = true := by decide +kernel

/-- A buffer of REGION_SET with two ranges open. -/
def regionBuf : Bytes :=
  toLe 8 4096 ++ toLe 8 8192 ++ toLe 8 (hostUseBase / 2 ^ 20 + 2 ^ 32 + 2 ^ 62) ++ toLe 8 ((hostUseBase + hostUseSize) / 2 ^ 20 - 1 + 2 ^ 32 + 2 ^ 63)
    ++ List.replicate 112 0

/-- A buffer of FAB_ROUTE_LOAD for bank 1, by its bytes that are not 0: endpoint 7, extents 64, 64 and 1, one port on link 0, and endpoint 8 in direction 1. -/
def routeBuf : List (Nat × Byte) := [(0, 1), (2, 7), (6, 64), (7, 64), (8, 1), (9, 63), (16, 1), (18, 0x80), (112, 1)]

theorem test_meets_DeviceCommandsComplete :
    (begins (asked live 0x03 [] 4096 144) 0x03 [] (fun _ u =>
        let a := regionArgs regionBuf
        !a.rsvd && decide (a.ranges.length = 16 ∧ a.slowerBase = 4096 ∧ a.slowerSize = 8192) && !u.enc.dir.any (·.slower)
          && a.ranges.all (fun r => r.access = 0 || aptInUse r && decide (r.access ≠ 3))
          && disjoint overlaps ((a.ranges.filter (fun r => r.access ≠ 0)).map (fun r => (r.base.toNat, r.size.toNat))))
      && begins (asked live 0x10 [(16, 3), (24, 7104), (26, 64), (28, 0), (30, 0)]) 0x10 [(16, 3), (24, 7104), (26, 64), (28, 0), (30, 0)] (fun _ u =>
        decide ((ringsOf 3 [7104, 64, 0, 0]).sum ≤ 8192) && u.ctxs.isEmpty && decide (u.twin.st = .unpaired) && (List.finRange 4).all (fun p => decide (u.rims[p].phase = .none)))
      && begins (asked live 0x50 [] 4096 64) 0x50 [] (fun _ u =>
        let a := routeArgs routeBuf
        decide (a.bank = 1 ∧ a.ownEp = 7 ∧ a.table = [(8, 1)]) && !u.fab.banks[1].live && routeOk a && u.portsOk a.ports)
      && (let s : State := { live with fab := { live.fab with banks := live.fab.banks.set 1 { live := true } } }
          begins (asked s 0x51 [(16, 1), (24, 10000)]) 0x51 [(16, 1), (24, 10000)] (fun _ u =>
            decide ((1 : Fin 2) ≠ u.fab.inj) && u.fab.banks[1].live && !u.fab.banks[1].used && u.fab.flip.isNone && decide (10000 ≤ ((10000 : Word) - u.podTime).toInt)))
      && begins (asked live 0x72 [(24, 1), (32, 1000000000)]) 0x72 [(24, 1), (32, 1000000000)] (fun _ u =>
        decide (((1000000000 : Word) - u.podTime).toInt.natAbs ≤ 1000000000))
      && begins (asked live 0x7F [(16, 783), (18, 0), (20, 0)]) 0x7F [(16, 783), (18, 0), (20, 0)]) = true := by decide +kernel

/-- The middle of three parts of given lengths. -/
theorem slice_mid (a b c : Bytes) (n m : Nat) (ha : a.length = n) (hb : b.length = m) : ((a ++ b ++ c).drop n).take m = b := by
  rw [List.append_assoc, List.drop_left' ha, List.take_left' hb]

/-- What the signature of a record of KEY_ENROLL for slot 63 covers, and the record. -/
def keyBody (action : BitVec 8) (pub : Bytes) : Bytes := toLe 2 1 ++ [action, 63] ++ List.replicate 20 0 ++ operatorKey ++ pub
def keyBuf (action : BitVec 8) (pub : Bytes) : Bytes := keyBody action pub ++ ecdsaWith operatorKey (keyBody action pub) 0
def keyRec (action : BitVec 8) (pub : Bytes) : KeyArgs := keyArgs 63 (keyBuf action pub)

/-- A point of the curve. -/
def point : Bytes := p521Public (be66 0)

theorem keyBody_length (action : BitVec 8) (pub : Bytes) (h : pub.length = 132) : (keyBody action pub).length = 288 := by
  simp [keyBody, toLe, operatorKey, h]

theorem test_meets_EnrolmentCommandsComplete_root (action : BitVec 8) (pub : Bytes) (hp : pub.length = 132) :
    (keyRec action pub).rootOk = true ∧ (keyRec action pub).sigOk = true ∧ (keyRec action pub).publisher = pub := by
  have h1 : ((keyBuf action pub).drop 24).take 132 = operatorKey := by
    have h := slice_mid (toLe 2 1 ++ [action, 63] ++ List.replicate 20 0) operatorKey (pub ++ ecdsaWith operatorKey (keyBody action pub) 0) 24 132
      (by simp [toLe]) (by simp [operatorKey])
    simpa only [keyBuf, keyBody, List.append_assoc] using h
  have h2 : ((keyBuf action pub).drop 156).take 132 = pub := by
    have h := slice_mid (toLe 2 1 ++ [action, 63] ++ List.replicate 20 0 ++ operatorKey) pub (ecdsaWith operatorKey (keyBody action pub) 0) 156 132
      (by simp [toLe, operatorKey]) hp
    simpa only [keyBuf, keyBody, List.append_assoc] using h
  have h3 : (keyBuf action pub).take 288 = keyBody action pub := List.take_left' (keyBody_length action pub hp)
  have h4 : ((keyBuf action pub).drop 288).take 132 = ecdsaWith operatorKey (keyBody action pub) 0 := by
    rw [keyBuf, List.drop_left' (keyBody_length action pub hp), List.take_of_length_le (by simp)]
  refine ⟨?_, ?_, h2⟩
  · simp only [keyRec, keyArgs, h1, rootHash, decide_true]
  · simp only [keyRec, keyArgs, h1, h3, h4]
    exact ecdsaOk_with _ _ 0 (Nat.two_pow_pos _)

theorem test_meets_EnrolmentCommandsComplete_curve : (keyRec 0 point).onCurve = true := by
  have h := (test_meets_EnrolmentCommandsComplete_root 0 point (p521Public_length _)).2.2
  simp only [keyRec, keyArgs] at h ⊢
  rw [h]
  exact onCurve_public 0 (Nat.two_pow_pos _)

/-- The key under which a device unwraps model 9's content key, and the wrapped key of zeros. -/
def kek9 (u : State) : Bytes :=
  let dka := derivedKey u.fuses.secret [] "vpz-dka"
  hkdf (point ++ p521Public dka) (p521Dh dka point) (ascii "vpz-ck" ++ toLe 2 9 ++ toLe 8 u.fuses.serial.toNat) 32
def wrapped9 (u : State) : Bytes := aesWrap (kek9 u) (toLe 32 0)

/-- What the signature of model 9's manifest covers, and the manifest, signed by the key of one byte 4. -/
def modelBody : Bytes := toLe 2 1 ++ toLe 2 9 ++ toLe 2 4 ++ [3] ++ List.replicate 9 0 ++ keyCommit (toLe 32 0)
def manifest (u : State) : Bytes :=
  modelBody ++ ecdsaWith [4] modelBody 0 ++ List.replicate 4 0 ++ point ++ wrapped9 u ++ List.replicate 12 0
def model9Args (u : State) : ModelArgs := u.modelArgs 9 63 (manifest u)

theorem modelBody_length : modelBody.length = 48 := by simp [modelBody, keyCommit, sha512, toLe]

theorem manifest_parts (u : State) : ((manifest u).drop 16).take 32 = keyCommit (toLe 32 0) ∧ (manifest u).take 48 = modelBody
    ∧ ((manifest u).drop 48).take 132 = ecdsaWith [4] modelBody 0 ∧ ((manifest u).drop 184).take 132 = point ∧ ((manifest u).drop 316).take 40 = wrapped9 u := by
  have hc : (keyCommit (toLe 32 0)).length = 32 := by simp [keyCommit, sha512]
  have hp : point.length = 132 := p521Public_length _
  have hs : (ecdsaWith [4] modelBody 0).length = 132 := ecdsaWith_length _ _ _
  have hw : (wrapped9 u).length = 40 := aesWrap_length _ _
  refine ⟨?_, ?_, ?_, ?_, ?_⟩
  · have h := slice_mid (toLe 2 1 ++ toLe 2 9 ++ toLe 2 4 ++ [3] ++ List.replicate 9 0) (keyCommit (toLe 32 0))
      (ecdsaWith [4] modelBody 0 ++ List.replicate 4 0 ++ point ++ wrapped9 u ++ List.replicate 12 0) 16 32 (by simp [toLe]) hc
    simpa only [manifest, modelBody, List.append_assoc] using h
  · rw [manifest]
    simp only [List.append_assoc]
    exact List.take_left' modelBody_length
  · have h := slice_mid modelBody (ecdsaWith [4] modelBody 0) (List.replicate 4 0 ++ point ++ wrapped9 u ++ List.replicate 12 0) 48 132 modelBody_length hs
    simpa only [manifest, List.append_assoc] using h
  · have h := slice_mid (modelBody ++ ecdsaWith [4] modelBody 0 ++ List.replicate 4 0) point (wrapped9 u ++ List.replicate 12 0) 184 132
      (by simp only [List.length_append, modelBody_length, hs, List.length_replicate]) hp
    simpa only [manifest, List.append_assoc] using h
  · have h := slice_mid (modelBody ++ ecdsaWith [4] modelBody 0 ++ List.replicate 4 0 ++ point) (wrapped9 u) (List.replicate 12 0) 316 40
      (by simp only [List.length_append, modelBody_length, hs, hp, List.length_replicate]) hw
    simpa only [manifest, List.append_assoc] using h

theorem test_meets_EnrolmentCommandsComplete_unwrap (u : State) : contentKey u.fuses.secret 9 u.fuses.serial (model9Args u).ephPub (model9Args u).wrapped = some (toLe 32 0) := by
  obtain ⟨-, -, -, h4, h5⟩ := manifest_parts u
  simp only [model9Args, State.modelArgs, h4, h5]
  exact aesUnwrap_wrap _

theorem test_meets_EnrolmentCommandsComplete_model (u : State) (hp : look u.sec.publishers 63 = some [4]) :
    (model9Args u).sigOk = true ∧ (model9Args u).unwrapOk = true ∧ keyCommit (toLe 32 0) = (model9Args u).commit := by
  obtain ⟨h1, h2, h3, h4, h5⟩ := manifest_parts u
  refine ⟨?_, ?_, ?_⟩
  · simp only [model9Args, State.modelArgs, h2, h3]
    rw [show (BitVec.toNat (63 : BitVec 8)) = 63 from rfl, hp]
    exact ecdsaOk_with _ _ 0 (Nat.two_pow_pos _)
  · have h := test_meets_EnrolmentCommandsComplete_unwrap u
    simp only [model9Args, State.modelArgs, h4, h5] at h ⊢
    rw [show (BitVec.toNat (9 : BitVec 16)) = 9 from rfl, h]
    simp [point, onCurve_public 0 (Nat.two_pow_pos _)]
  · simp only [model9Args, State.modelArgs, h1]

/-- The device with slot 63's key enrolled. -/
def keyed : State := { live with fuses := { live.fuses with rootSet := true }, sec := { live.sec with publishers := [(63, [4])] } }

theorem test_meets_EnrolmentCommandsComplete_fields : (model9Args keyed).rsvd = false ∧ (model9Args keyed).format = 1 ∧ (model9Args keyed).recModel = 9
    ∧ (model9Args keyed).layers = 4 ∧ (model9Args keyed).formats = 3 := ⟨rfl, rfl, rfl, rfl, rfl⟩

theorem test_meets_EnrolmentCommandsComplete :
    (let s : State := { live with fuses := { live.fuses with rootSet := true } }
     begins (asked s 0x20 [(16, 63)]) 0x20 [(16, 63)] (fun _ u =>
        let a := keyRec 0 point
        decide (a.format = 1 ∧ a.recSlot = a.slot ∧ a.slot.toNat ≤ 63 ∧ a.rsvd = 0 ∧ a.serial = 0 ∧ a.action = 0) && !u.expired a.expiry && u.fuses.rootSet && (look u.sec.publishers 63).isNone
          && u.sec.publishers.isEmpty)
      && begins (asked keyed 0x20 [(16, 63)]) 0x20 [(16, 63)] (fun _ u => decide (look u.sec.publishers 63 = some [4]) && (u.modelsOf 63).isEmpty
            && decide ((keyRec 1 (List.replicate 132 0)).action = 1))
      && begins (asked keyed 0x21 [(16, 9), (18, 63)]) 0x21 [(16, 9), (18, 63)] (fun _ u =>
            decide (u.fuses.serial = keyed.fuses.serial) && (u.model? 9).isNone && decide (look u.sec.publishers 63 = some [4]) && decide (u.enc.models.length < 4096))) = true := by
  decide +kernel

/-- An epoch manifest of model 9, epoch 1, with two shards and one check value: the first shard's ciphertext has `n` bytes. It is signed by the empty key. -/
def epochBody (n : Nat) (nonce digest check : Bytes) : Bytes :=
  toLe 2 1 ++ toLe 2 9 ++ [1, 2, 0, 0] ++ toLe 4 384 ++ toLe 4 1 ++ (toLe 8 n ++ nonce ++ toLe 4 0 ++ toLe 4 1 ++ toLe 4 0 ++ digest) ++ List.replicate 96 0
    ++ check
def epochMan (n : Nat) (nonce digest check : Bytes) : Bytes :=
  epochBody n nonce digest check ++ ecdsaWith [] (epochBody n nonce digest check) 0 ++ List.replicate 40 0

/-- Arguments of SHARD_INGEST for model 9, epoch 1, owner 0 of 2, whose manifest agrees. -/
def cmd9 : IngestCmd := ⟨9, 1, 0, 2, 0, epochMan 80 (List.replicate 12 0) (List.replicate 64 0) [0, 0, 0, 0]⟩
def ingest9 : IngestArgs := ingestArgs [] 9 1 0 2 0 cmd9.man

theorem epochMan_signed (n : Nat) (nonce digest check : Bytes) (hn : nonce.length = 12) (hd : digest.length = 64) (hc : check.length = 4) :
    (ingestArgs [] 9 1 0 2 0 (epochMan n nonce digest check)).sigOk = true := by
  have hb : (epochBody n nonce digest check).length = 212 := by simp [epochBody, toLe, hn, hd, hc]
  have ht : (epochMan n nonce digest check).take 212 = epochBody n nonce digest check := by
    rw [epochMan, List.append_assoc]
    exact List.take_left' hb
  have hs : ((epochMan n nonce digest check).drop 212).take 132 = ecdsaWith [] (epochBody n nonce digest check) 0 :=
    slice_mid _ _ _ 212 132 hb (ecdsaWith_length _ _ _)
  have h4 : ((epochMan n nonce digest check).drop 12).take 4 = toLe 4 1 := by
    have h := slice_mid (toLe 2 1 ++ toLe 2 9 ++ [1, 2, 0, 0] ++ toLe 4 384) (toLe 4 1)
      (toLe 8 n ++ nonce ++ toLe 4 0 ++ toLe 4 1 ++ toLe 4 0 ++ digest ++ List.replicate 96 0 ++ check ++ ecdsaWith [] (epochBody n nonce digest check) 0
        ++ List.replicate 40 0) 12 4 (by decide) (by decide)
    simpa only [epochMan, epochBody, List.append_assoc] using h
  have hl : 148 + 96 * (2 : BitVec 8).toNat + 4 * leAt (epochMan n nonce digest check) 12 4 - 132 = 212 := by
    rw [leAt, h4]
    decide
  simp only [ingestArgs]
  rw [hl, ht, hs]
  exact ecdsaOk_with _ _ 0 (Nat.two_pow_pos _)

theorem test_meets_WeightCommandsComplete_signed : ingest9.sigOk = true := by
  rw [ingest9, cmd9]
  exact epochMan_signed 80 (List.replicate 12 0) (List.replicate 64 0) [0, 0, 0, 0] (List.length_replicate ..) (List.length_replicate ..) rfl

/-- The directory entry of a segment of 64 B. -/
def entry9 (slower : Bool) : DirEntry := ⟨0, 0, dirKey 9 2 3 0 1, 0, 0, slower, 64, storeBase, 0, 0⟩

/-- The device with the model enrolled. -/
def modelled (f : Enc → Enc := id) : State := { live with enc := f { live.enc with models := [model9] } }

/-- The encoder's operation in a phase. -/
def encOp (ph : EncPhase) (n : Nat) (l : List StrandRec) : EncOp :=
  { phase := ph, cmd := 5, opcode := 0x22, model := 9, epoch := 1, n := 2, k := 0, retain := none, ctLen := n, checks := [], nonce := [], digest := sha512 [], records := l }

theorem test_meets_WeightCommandsComplete :
    (begins (asked modelled 0x22 (ingestFields cmd9) 4096 464) 0x22 (ingestFields cmd9) (fun t u =>
        decide (u.heldOut = []) && decide (u.publisherOf 9 = []) && (u.model? 9).isSome && !u.enc.dir.any (fun e => e.model = 9) && !manifestBad ingest9 t.bufLen.toNat && decide (ingest9.ctLen.toNat ≤ stagingSize + 16))
      && begins (asked (modelled (fun e => { e with shards := [⟨9, 1, 2, 0, none, false⟩] })) 0x23 [(16, 9), (18, 1), (19, 0)]) 0x23 [(16, 9), (18, 1), (19, 0)] (fun _ u =>
        (u.shardOf 9 1).isSome && u.ctxs.isEmpty)
      && (let s := modelled (fun e => { e with shards := [⟨9, 1, 2, 0, none, false⟩] })
          begins (asked { s with slowerSize := 4096 } 0x23 [(16, 9), (18, 1), (19, 1)]) 0x23 [(16, 9), (18, 1), (19, 1)] (fun _ u => (u.shardOf 9 1).isSome && decide (u.slowerSize ≠ 0)))
      && (let s := modelled (fun e => { e with ops := [encOp .copyIn 0 []] })
          decide (s.vcl.st = .up) && s.enc.ops.any (fun o => o.phase = .copyIn) && (s.entriesOf 9 1).isEmpty && decide (movePlan fitStore 0 (storeUsed s.enc.dir) [] = some [])
            && (moveAll State.copyIn [] s).1 && s.ctxs.isEmpty && decide (movePlan s.fitSlower 16 s.slowerUsed [entry9 false] = none)
            && decide (s.enc.salt.toNat + 1 ≤ 0xFFFFFFFF))
      && (let o := encOp .pass2 16 []
          (placeItems (storeUsed []) (tableItems o ++ segmentItems o)).isSome && decide ((tableItems o ++ segmentItems o).map (·.check) = o.checks))) = true := by decide +kernel

theorem count_stopped_blocks (s : State) (w : Bool) (l : List Nat) : (s.countBlocks w l).stopped = s.stopped := by
  unfold State.countBlocks forAll
  induction l generalizing s with
  | nil => rfl
  | cons b r ih => rw [List.foldl_cons, ih]; simp
theorem lineErr_goes_on (s : State) (a : Nat) (h : ¬ a < dirBase) : (s.lineErr ⟨a, .uncorrectable⟩).stopped = s.stopped := by
  simp [State.lineErr, h]
/-- A read that meets only uncorrectable lines outside Obinha's own area stops nothing. -/
theorem readHbm_goes_on (s : State) (errs : List LineErr) (a n : Nat) (h : ∀ e ∈ s.errsAt errs a n, e.kind = .uncorrectable ∧ ¬ e.dpa < dirBase) : (s.readHbm errs a n).2.stopped = s.stopped := by
  unfold State.readHbm
  dsimp only
  rw [count_stopped_blocks]
  unfold forAll
  generalize s.errsAt errs a n = l at h
  induction l generalizing s with
  | nil => rfl
  | cons e r ih =>
    obtain ⟨d, k⟩ := e
    have he := h ⟨d, k⟩ (by simp)
    simp only at he
    obtain ⟨rfl, hd⟩ := he
    rw [List.foldl_cons, ih _ (fun x hx => h x (by simp [hx])), lineErr_goes_on s d hd]

/-- The device in the second pass of a shard of 64 B. -/
def pass2 : State := modelled (fun e => { e with ops := [encOp .pass2 80 []] })

theorem pass2_reads : pass2.errsAt [] stagingBase 64 = [] ∧ pass2.stopped = false ∧
    pass2.errsAt [⟨stagingBase, .uncorrectable⟩] stagingBase 64 = [⟨stagingBase, .uncorrectable⟩] := by decide +kernel

theorem test_meets_WeightCommandsComplete_staging : (pass2.readHbm [] stagingBase 64).1 = true ∧ (pass2.readHbm [] stagingBase 64).2.stopped = false ∧
    (pass2.readHbm [⟨stagingBase, .uncorrectable⟩] stagingBase 64).1 = false ∧ (pass2.readHbm [⟨stagingBase, .uncorrectable⟩] stagingBase 64).2.stopped = false := by
  have h := pass2_reads
  have hn := readHbm_goes_on pass2 [] stagingBase 64 (by rw [h.1]; simp)
  have hu := readHbm_goes_on pass2 [⟨stagingBase, .uncorrectable⟩] stagingBase 64 (by rw [h.2.2]; simp only [List.mem_singleton, forall_eq]; decide +kernel)
  rw [h.2.1] at hn hu
  exact ⟨by unfold State.readHbm; rw [h.1]; rfl, hn, by unfold State.readHbm; rw [h.2.2]; rfl, hu⟩

/-- A shard without records, encrypted, in the first pass. -/
def shard0 : Bytes := gcmSeal [] [] (toLe 2 9 ++ toLe 1 1 ++ toLe 1 2 ++ toLe 1 0 ++ [0, 0, 0]) []

theorem test_meets_WeightCommandsComplete_pass1 :
    (let s := modelled (fun e => { e with ops := [encOp .pass1 16 []] })
     s.stopped = false ∧ s.vcl.st = .up ∧ s.model? 9 = some model9 ∧ shard0.length = 16 ∧ s.openShard 9 1 2 0 [] (sha512 []) shard0 = ([], true) ∧ parseShard 2 0 [] = some []
       ∧ recordsFit model9 [] = true) := by
  refine ⟨by decide +kernel, rfl, by decide +kernel, by simp [shard0], ?_, by decide +kernel, by decide +kernel⟩
  show (match gcmOpen [] [] _ shard0 with
    | some bs => (bs, decide (sha512 bs = sha512 []))
    | none => _) = _
  rw [shard0, gcmOpen_gcmSeal]
  simp

/-- A stored plait's header alone: this device's own, layer 0, strand 0, index 0, of model 9, epoch 1. -/
def own0 : Bytes := withCheck (storedHdr 9 0 0 0 1 0 0 1 0 0 2)

/-- The directory entry of the segment that holds it. -/
def ownEntry (slower : Bool) : DirEntry := ⟨setA (dirKey 9 0 0 0 1), 0, dirKey 9 0 0 0 1, 0, 1, slower, 32, if slower then 0 else storeBase, segCheck [own0], 0⟩

/-- The rim with its run in force, its links in UP, and a segment to inject. -/
def onRun (slower : Bool := false) (f : Rim → Rim := id) : State :=
  let s := onRim {} (f { rim2 with counts := [⟨9, 1, 1, 2, 1⟩], run := some ⟨7, 1, false, [0, 0], true, true, 5⟩ })
  { s with links := s.links.map (fun k => { k with st := .up, fcIn := 31 })
           enc := { s.enc with dir := [ownEntry slower] }
           mem := setBytes [] storeBase own0 }

/-- A frame on a link: a hello to partition 0's member 1 or goodbye. -/
def ctlFrame (typ idx : Nat) (digest : BitVec 32) : Bytes := rimFrame typ (helloBody idx 0 digest)

theorem test_meets_RimFormationCompletes :
    (let a := rimFormArgs ([0, 2, 0, 0] ++ toLe 4 1 ++ toLe 4 2 ++ toLe 4 100 ++ toLe 2 1000 ++ List.replicate 14 0 ++ toLe 2 7 ++ toLe 2 8)
     let s : State := asked { live with fab := { live.fab with banks := live.fab.banks.set 0 { ownEp := 7 } } } 0x11 [] 4096 36
     begins s 0x11 [] (fun t u => !u.rimBad 0 a t (u.rimOf 0 t a) && decide (u.rims[0].phase = .none) && u.ctxs.isEmpty)
      && (let s := onRun false (fun r => { r with phase := .forming })
          decide (s.rims[0].phase = .forming) && s.twin.hold.isEmpty && decide (s.rimPort 0 = some (0, false)) && decide (s.rimPort 1 = some (0, true)) && decide (s.links[0].st = .up)
            && decide ((0 : Fin 20) ∈ s.rims[0].outLinks false) && decide ((1 : Fin 20) ∈ s.rims[0].outLinks true) && decide ((1 : Fin 20) ∉ s.rims[0].outLinks false) && s.linkFree 0 5
            && !frameOk [] && frameOk (ctlFrame 2 1 0x55) && decide (frameType (ctlFrame 2 1 0x55) = 2)
            && decide (leAt (frameBody (ctlFrame 2 1 0x55)) 0 1 = (s.portIndex 0 false).2) && decide (leAt (frameBody (ctlFrame 2 1 0x55)) 4 4 = s.rims[0].digest.toNat)
            && decide (leAt (frameBody (ctlFrame 2 0 0x55)) 0 1 ≠ (s.portIndex 0 false).2)
            && frameOk (ctlFrame 3 1 0x55) && decide (frameType (ctlFrame 3 1 0x55) = 3) && decide (onRun.rims[0].phase = .formed))
      && begins (asked { live with rims := live.rims.set 0 rim2 } 0x12 [(16, 0)]) 0x12 [(16, 0)] (fun _ u =>
        u.partIs 0 && decide (u.rims[0].phase ≠ .none) && u.ctxs.isEmpty)) = true := by decide +kernel

theorem test_meets_PlaitsAreLandedAndSent :
    (let s := onRun
     decide (s.rimPort 1 = some (0, true)) && decide (s.links[1].st = .up) && !frameOk [] && frameOk (rimFrame 1 plaitHdr) && decide (frameType (rimFrame 1 plaitHdr) = 1)
      && decide (s.landRoom 0 plaitHdr.length = some false)) = true
      ∧ (let t := onRun false (fun r => { r with landed := [{ landed0 with forward := true }] })
         decide (t.rims[0].landed[0]? = some { landed0 with forward := true }) && decide ((0 : Fin 20) ∈ t.rims[0].outLinks false)
           && t.rimLinkOn 0 && (t.readLanded 0 [] { landed0 with forward := true }).1) = true := by decide +kernel

theorem test_meets_PlaitsAreLandedAndSent_landing : (onRun.judge 0 plaitHdr false (true, false)).1.1 = true := by decide +kernel

theorem test_meets_PlaitsAreLandedAndSent_check : checkPasses plaitHdr = true := by decide +kernel

theorem test_meets_PlaitsAreLandedAndSent_injection :
    (let s := onRun
     s.rims[0].phase = .formed ∧ s.rims[0].repairs = [] ∧ (s.nextSeg 0).map (fun q => (q.1, q.2.1, q.2.2.2.1, q.2.2.2.2)) = some (7, 5, 0, (ownEntry false).key)
      ∧ (List.range 16).find? (fun i => !s.rims[0].injected.contains (itemIdent 5 0 (ownEntry false).key i)) = some 0)
      ∧ (match onRun.fetch 0 [] 0 (ownEntry false).key 0 with
          | (.got b, u) => decide ((hdrOf b).kind ≠ 1) && (u.injectOut 0 b 5 1 0 false (1, 0)).isSome
          | _ => false) = true := by decide +kernel

/-- The rim's segment sealed in the slower tier, its tag changed by a function. -/
def onTier (f : Bytes → Bytes) : State :=
  let s := onRun true
  let ct := gcmCrypt s.sec.storageKey (tierNonce (ownEntry true).key 0) own0
  s.pokeN (s.tierAddr 0) (ct ++ f (gcmTag s.sec.storageKey (tierNonce (ownEntry true).key 0) (toLe 8 (ownEntry true).key) ct))

theorem test_meets_PlaitsAreLandedAndSent_reads :
    (List.all [onTier id, onTier (List.map (~~~ ·))] (fun s => decide (s.slowWanted 0 = some (0, (ownEntry true).key)) && decide (s.vcl.st = .up) && decide (s.heldOut = []) && !s.stopped
      && s.enc.dir.all (fun d => decide (segCheck (splitSeg (d.countM1 + 1) own0) = d.check))
      && decide (s.slowPlace 0 0 (ownEntry true).key = some (0, 32, 0)))) = true := by decide +kernel

theorem own0_length : own0.length = 32 := by decide +kernel

/-- What the slower tier opens is what the function on tags leaves of the sealed segment. -/
theorem onTier_open (f : Bytes → Bytes) (hf : ∀ b : Bytes, (f b).length = b.length) : (onTier f).tierOpen (ownEntry true).key 0 0 32 =
    gcmOpen (onRun true).sec.storageKey (tierNonce (ownEntry true).key 0) (toLe 8 (ownEntry true).key)
      (gcmCrypt (onRun true).sec.storageKey (tierNonce (ownEntry true).key 0) own0 ++ f (gcmTag (onRun true).sec.storageKey
        (tierNonce (ownEntry true).key 0) (toLe 8 (ownEntry true).key) (gcmCrypt (onRun true).sec.storageKey (tierNonce (ownEntry true).key 0) own0))) := by
  have h := State.pokeN_peekN (s := onRun true) ((onRun true).tierAddr 0) (gcmCrypt (onRun true).sec.storageKey (tierNonce (ownEntry true).key 0) own0 ++
    f (gcmTag (onRun true).sec.storageKey (tierNonce (ownEntry true).key 0) (toLe 8 (ownEntry true).key)
      (gcmCrypt (onRun true).sec.storageKey (tierNonce (ownEntry true).key 0) own0)))
  rw [List.length_append, gcmCrypt_length, hf, gcmTag_length, own0_length] at h
  have h1 : (onTier f).sec.storageKey = (onRun true).sec.storageKey := by simp [onTier]
  have h2 : (onTier f).tierAddr 0 = (onRun true).tierAddr 0 := by simp [onTier, State.tierAddr]
  unfold State.tierOpen
  rw [h1, h2]
  unfold onTier
  dsimp only
  rw [h]

theorem test_meets_PlaitsAreLandedAndSent_sealed : (onTier id).tierOpen (ownEntry true).key 0 0 32 = some own0 := by
  rw [onTier_open id (fun _ => rfl)]
  exact gcmOpen_gcmSeal ..

theorem test_meets_PlaitsAreLandedAndSent_tampered : (onTier (List.map (~~~ ·))).tierOpen (ownEntry true).key 0 0 32 = none := by
  rw [onTier_open _ (fun b => List.length_map ..)]
  generalize (onRun true).sec.storageKey = k
  generalize tierNonce (ownEntry true).key 0 = n
  generalize toLe 8 (ownEntry true).key = aad
  generalize hc : gcmCrypt k n own0 = ct
  have hl : ct.length = 32 := by rw [← hc, gcmCrypt_length, own0_length]
  unfold gcmOpen
  dsimp only
  rw [List.length_append, List.length_map, gcmTag_length, hl, List.take_left' hl, List.drop_left' hl, if_neg]
  intro h
  have := congrArg (fun l => l.head?) h
  simp [gcmTag, List.range, List.range.loop] at this

/-- A shard of one block of zeros: its plaintext, its ciphertext with the tag, and the manifest that describes it. -/
def block0 : Bytes := List.replicate (blockBytes 0) 0
def plain1 : Bytes := toLe 2 0 ++ toLe 2 0 ++ [0, 0] ++ toLe 2 1 ++ List.replicate 24 0 ++ block0
def shard1 : Bytes := gcmSeal [] (List.replicate 12 0) (toLe 2 9 ++ toLe 1 1 ++ toLe 1 2 ++ toLe 1 0 ++ [0, 0, 0]) plain1
def man1 : Bytes := epochMan 8752 (List.replicate 12 0) (sha512 plain1) [0, 0, 0, 0]

/-- The records of that shard with a block, as its ingest lists them. -/
def rec1 (b : Bytes) : EncOp :=
  { phase := .pass2, cmd := 0, opcode := 0, model := 9, epoch := 1, n := 2, k := 0, retain := none, ctLen := 0, checks := []
    nonce := [], digest := [], records := [⟨0, 0, 0, [b]⟩] }

theorem sha512_length (bs : Bytes) : (sha512 bs).length = 64 := by simp [sha512]

theorem man1_length : man1.length = 384 := by
  simp only [man1, epochMan, epochBody, List.length_append, sha512_length, ecdsaWith_length, List.length_replicate]
  decide +kernel

theorem man1_nonce : (man1.drop 24).take 12 = List.replicate 12 0 := by
  have h := slice_mid (toLe 2 1 ++ toLe 2 9 ++ [1, 2, 0, 0] ++ toLe 4 384 ++ toLe 4 1 ++ toLe 8 8752) (List.replicate 12 0)
    (toLe 4 0 ++ toLe 4 1 ++ toLe 4 0 ++ sha512 plain1 ++ List.replicate 96 0 ++ [0, 0, 0, 0]
      ++ ecdsaWith [] (epochBody 8752 (List.replicate 12 0) (sha512 plain1) [0, 0, 0, 0]) 0 ++ List.replicate 40 0) 24 12 (by decide) (by decide)
  simpa only [man1, epochMan, epochBody, List.append_assoc] using h

theorem man1_digest : (man1.drop 48).take 64 = sha512 plain1 := by
  have h := slice_mid (toLe 2 1 ++ toLe 2 9 ++ [1, 2, 0, 0] ++ toLe 4 384 ++ toLe 4 1 ++ toLe 8 8752 ++ List.replicate 12 0 ++ toLe 4 0 ++ toLe 4 1 ++ toLe 4 0)
    (sha512 plain1) (List.replicate 96 0 ++ [0, 0, 0, 0]
      ++ ecdsaWith [] (epochBody 8752 (List.replicate 12 0) (sha512 plain1) [0, 0, 0, 0]) 0 ++ List.replicate 40 0) 48 64 (by decide) (sha512_length _)
  simpa only [man1, epochMan, epochBody, List.append_assoc] using h

theorem plain1_length : plain1.length = 8736 := by decide +kernel
theorem plain1_parse : ∃ b, parseShard 2 0 plain1 = some [⟨0, 0, 0, [b]⟩] := by
  have h : (parseShard 2 0 plain1).map (fun l => l.map (fun r => (r.layer, r.strand, r.format, r.blocks.length))) = some [(0, 0, 0, 1)] := by decide +kernel
  match e : parseShard 2 0 plain1, h with
  | some [⟨_, _, _, [b]⟩], h =>
    simp only [Option.map_some, List.map_cons, List.map_nil, Option.some.injEq, List.cons.injEq, Prod.mk.injEq, and_true] at h
    obtain ⟨rfl, rfl, rfl, _⟩ := h
    exact ⟨b, rfl⟩
theorem man1_ok : manifestBad (ingestArgs [] 9 1 0 2 0 man1) 9136 = false := by decide +kernel
theorem man1_head : leAt (man1 ++ shard1) 8 4 = 384 := by decide +kernel

theorem toLe_length (n v : Nat) : (toLe n v).length = n := by
  induction n generalizing v with
  | zero => rfl
  | succ k ih => simp [toLe, ih]

theorem encodeSub_length (fmt : Nat) (tbl : List (Nat × Nat × Nat)) (syms : List Nat) (h : syms.length = 1024) :
    (encodeSub fmt tbl syms).1.length ≤ rawSize fmt := by
  unfold encodeSub
  split
  · simp
  · dsimp only
    split
    · simp only [packElems, toLe_length, h, rawSize]; omega
    · simp only; omega

theorem flatten_length_le (l : List Bytes) (n : Nat) (h : ∀ b ∈ l, b.length ≤ n) : l.flatten.length ≤ n * l.length := by
  induction l with
  | nil => simp
  | cons b r ih =>
    have h1 := h b (by simp)
    have h2 := ih (fun c hc => h c (by simp [hc]))
    simp only [List.flatten_cons, List.length_append, List.length_cons, Nat.mul_add, Nat.mul_one]
    omega

theorem encodePlait_length_le (model layer strand owner epoch p : Nat) (last : Bool) (lens : List Nat) (blk : Bytes) :
    (encodePlait model layer strand 0 owner epoch p last lens blk).length ≤ 8772 := by
  unfold encodePlait
  dsimp only
  generalize hs : (List.range 16).map (fun g => encodeSub 0 (canonCodes lens) (subSyms (blockSyms 0 blk) g)) = subs
  have hl : subs.length = 16 := by simp [← hs]
  have ha := flatten_length_le (subs.map (·.1)) 512 (by
    intro b hb
    rw [← hs] at hb
    simp only [List.mem_map] at hb
    obtain ⟨_, ⟨g, -, rfl⟩, rfl⟩ := hb
    exact encodeSub_length 0 _ _ (by simp [subSyms]))
  generalize ho : List.zipWith (fun e (s : Bytes × Bool) => toLe 2 (e + if s.2 then 2 ^ 15 else 0)) _ subs = offs
  have hb := flatten_length_le offs 2 (by
    intro b hb
    rw [← ho] at hb
    obtain ⟨i, hi, rfl⟩ := List.getElem_of_mem hb
    simp [toLe_length])
  have hc : offs.length ≤ 16 := by rw [← ho, List.length_zipWith, hl]; omega
  simp only [List.length_map, hl] at ha
  simp only [withCheck, List.length_append, toLe_length, List.length_drop, storedHdr, List.length_take, List.length_cons, List.length_nil,
    List.length_replicate]
  omega

theorem item1 (b : Bytes) : ∃ i, (tableItems (rec1 b) ++ segmentItems (rec1 b)).find? (fun i => i.key = dirKey 9 0 0 0 1) = some i ∧ i.bytes.length ≤ storeSize := by
  have h1 : (tableItems (rec1 b)).find? (fun i => i.key = dirKey 9 0 0 0 1) = none := by
    simp only [List.find?_eq_none, tableItems, List.mem_filterMap, List.mem_range]
    rintro i ⟨f, hf, hi⟩
    split at hi
    · cases hi
    · simp only [Option.some.injEq] at hi
      subst hi
      have : ∀ f : Fin 7, dirKey (rec1 []).model 0xFFF f.val 0 (rec1 []).epoch ≠ dirKey 9 0 0 0 1 := by decide +kernel
      exact fun hh => this ⟨f, hf⟩ (of_decide_eq_true hh)
  rw [List.find?_append, h1]
  have h2 : segmentItems (rec1 b) = [⟨dirKey 9 0 0 0 1, 1, 0,
      encodePlait 9 0 0 0 0 1 0 true (((List.range 7).map (fun f => codeLengths (groupHist f (rec1 b).records))).getD 0 []) b,
      segCheck [encodePlait 9 0 0 0 0 1 0 true (((List.range 7).map (fun f => codeLengths (groupHist f (rec1 b).records))).getD 0 []) b]⟩] := by
    simp [segmentItems, rec1, by16, segBytes, List.zipIdx]
  rw [h2, Option.none_or]
  refine ⟨_, List.find?_cons_of_pos (decide_eq_true rfl), ?_⟩
  exact Nat.le_trans (encodePlait_length_le ..) (by decide)
/-- The device with one segment to mend, of a shard whose package is retained. -/
def mending (d : DirEntry) : State :=
  let s := modelled (fun e => { e with shards := [⟨9, 1, 2, 0, some (0, 9136), false⟩], dir := [d] })
  { s with rims := s.rims.set 0 { rim2 with fixing := [dirKey 9 0 0 0 1] } }

theorem mending_remake (d : DirEntry) (b : Bytes) (i : StoreItem) (hb : parseShard 2 0 plain1 = some [⟨0, 0, 0, [b]⟩])
    (hi : (tableItems (rec1 b) ++ segmentItems (rec1 b)).find? (fun i => i.key = dirKey 9 0 0 0 1) = some i) :
    (mending d).remake ⟨9, 1, 2, 0, some (0, 9136), false⟩ (dirKey 9 0 0 0 1) (man1 ++ shard1) = some i := by
  have hl : (man1 ++ shard1).length = 9136 := by
    rw [List.length_append, man1_length, shard1, gcmSeal_length, plain1_length]
  have hn : (ingestArgs [] 9 1 0 2 0 man1).nonce = List.replicate 12 0 := man1_nonce
  have hd : (ingestArgs [] 9 1 0 2 0 man1).digest = sha512 plain1 := man1_digest
  have ho : (mending d).openShard 9 1 2 0 (List.replicate 12 0) (sha512 plain1) shard1 = (plain1, true) := by
    have hk : (look (mending d).sec.contentKeys 9).getD [] = [] := rfl
    have hs : gcmOpen [] (List.replicate 12 0) (toLe 2 9 ++ toLe 1 1 ++ toLe 1 2 ++ toLe 1 0 ++ [0, 0, 0]) shard1 = some plain1 := gcmOpen_gcmSeal ..
    unfold State.openShard
    rw [hk]
    dsimp only
    rw [hs]
    simp
  have hm : (mending d).model? 9 = some model9 := rfl
  have hf : recordsFit model9 [⟨0, 0, 0, [b]⟩] = true := by
    simp [recordsFit, model9, bit]
  unfold State.remake
  dsimp only
  rw [man1_head, List.take_left' man1_length, List.drop_left' rfl, hl]
  have hg : (ingestArgs [] 9 1 0 2 0 man1).sigOk = true := epochMan_signed _ _ _ _ rfl (sha512_length _) rfl
  have e : ingestArgs ((mending d).publisherOf 9) (BitVec.ofNat 16 9) (BitVec.ofNat 8 1) 0 (BitVec.ofNat 8 2) (BitVec.ofNat 8 0) man1 = ingestArgs [] 9 1 0 2 0 man1 := rfl
  rw [e, hn, hd, ho]
  dsimp only
  rw [man1_ok, hg, hm]
  simp only [Bool.not_true, Bool.or_self, Bool.false_eq_true, if_false, Option.bind_some, hb, Option.filter_some, hf, if_true]
  exact hi

theorem test_meets_PlaitsAreLandedAndSent_repair : ∃ (d : DirEntry) (i : StoreItem) (a : Nat) (buf : Bytes) (sh : Shard) (s : State),
    s.stopped = false ∧ s.rims[0].fixing = [dirKey 9 0 0 0 1] ∧ s.enc.dir.find? (fun e => e.key = dirKey 9 0 0 0 1) = some d ∧
      s.shardOf (dirKey 9 0 0 0 1 % 2 ^ 16) (dirKey 9 0 0 0 1 / 2 ^ 50 % 2 ^ 8) = some sh ∧ s.remake sh (dirKey 9 0 0 0 1) buf = some i ∧
      freePlace storeBase storeSize 512 (storeUsed s.enc.dir) d.length = some a ∧ i.check = d.check ∧ i.bytes.length = d.length := by
  obtain ⟨b, hb⟩ := plain1_parse
  obtain ⟨i, hi, hn⟩ := item1 b
  refine ⟨⟨0, 0, dirKey 9 0 0 0 1, 0, 1, true, i.bytes.length, 0, i.check, 0⟩, i, storeBase, man1 ++ shard1, ⟨9, 1, 2, 0, some (0, 9136), false⟩,
    mending _, rfl, rfl, List.find?_cons_of_pos (decide_eq_true rfl), rfl, mending_remake _ b i hb hi, ?_, rfl, rfl⟩
  show minBy (fun c => c) (([storeBase] : List Nat).filter (fun c => decide (c + i.bytes.length ≤ storeBase + storeSize) && true)) = some storeBase
  rw [List.filter_cons_of_pos (by simpa using hn)]
  rfl

theorem test_meets_RimTimersAndMessagesComplete :
    (let s := onRun false (fun r => { r with timers := [(1, 2)] })
     (s.rimStep 0).map (fun q => (q.1, q.2.2)) = some (7, 4, 5) ∧ s.timersRun 0 = true ∧ s.rims[0].timers.contains (1, 2) = true ∧ s.rims[0].gapSent = []
      ∧ ((s.ctx? 7).any (fun x => !s.pairDone 7 x 5 1 2)) = true)
    ∧ (let s := onRun false (fun r => { r with waiting := [(5, true)] })
       s.rims.toList.any (fun r => r.waiting.any (fun w => w.1 = 5)) = true)
    ∧ (let f : Flip := ⟨7, 2, 9, 8, 1, none, []⟩
       let r : Rim := { rim2 with flips := [f] }
       let s : State := State.modPart { onRun with rims := onRun.rims.set 0 r } 0 (fun q => { q with switch := .awaiting none [] })
       s.stopped = false ∧ r.phase = .formed ∧ r.toLead 1 = true ∧ r.flipOf 7 = some f ∧ f.verdict = none ∧ s.parts[0].switch = .awaiting none [] ∧ s.parts[0].running = some 7)
    ∧ (let r : Rim := { rim2 with lead := 1, run := some ⟨7, 1, false, [0, 0], true, false, 5⟩ }
       let s : State := { onRun with rims := onRun.rims.set 0 r }
       r.leads = false ∧ r.run = some ⟨7, 1, false, [0, 0], true, false, 5⟩ ∧ r.duals = [] ∧ s.rims[0] = r)
    ∧ (onRun.rims[0].toLead 1 = true ∧ onRun.rims[0].flipOf 7 = none ∧ onRun.rims[0].phase = .formed
      ∧ (onRun.ctx? 7).any (fun x => stepLe (1 - 1) x.highest && !stepLe (100 - 1) x.highest) = true)
    ∧ (let s : State := { live with ctxs := [(7, { ctx7 with st := .created, ghqs := [], queue := [work true .queued] })], rims := live.rims.set 0 { rim2 with lead := 1 } }
       s.rims[0].leads = false ∧ s.rims[0].phase = .formed ∧ (s.swapPlan 7 none).isSome = true) ∧ live.rims[0].phase = .none := by decide +kernel

/-- Context 7 as it stands right after its creation, with its program. -/
def idle7 : Ctx := { ctx7 with st := .created, ghqs := [] }

/-- The device with context 7 in a state, and no core running it. -/
def withCtx (x : Ctx) : State := { live with ctxs := [(7, x)] }

/-- A program image of one execute instruction. -/
def image0 : Bytes := toLe 4 80 ++ toLe 2 0 ++ toLe 2 1 ++ toLe 2 0 ++ toLe 2 8192 ++ toLe 2 7168 ++ toLe 2 0 ++ [64, 1] ++ List.replicate 14 0 ++ List.replicate 16 0 ++ List.replicate 32 0

/-- CTX_CREATE's arguments for side-task context 1023 with one region. -/
def ctx1023 : CtxArgs := ⟨1023, 0, 1, 0xFFFF, 0, 0, 0, 0, toLe 8 hostUseBase ++ toLe 8 4096⟩

theorem test_meets_ContextCommandsComplete :
    (let f := [(16, 1023), (18, 0), (19, 1), (20, 0xFFFF), (22, 0), (24, 0), (32, 0), (40, 0)]
     begins (asked live 0x30 f 4096 16) 0x30 f (fun t u => (u.ctx? 1023).isNone && decide (u.parts[0].cores ≠ 0) && decide (ctx1023.buf.length = t.bufLen.toNat)
        && !(ctxRegions ctx1023).isEmpty && (ctxRegions ctx1023).all regionOk && !u.paired && decide (u.rims[0].phase = .none))
      && begins (asked (withCtx idle7) 0x31 [(16, 7)]) 0x31 [(16, 7)] (fun _ u => (u.ctx? 7).any (fun x => !x.working))
      && begins (asked (withCtx { idle7 with armed := some 1 }) 0x31 [(16, 7)]) 0x31 [(16, 7)] (fun _ u => (u.ctx? 7).any Ctx.working)
      && (let s : State := { withCtx idle7 with taken := [⟨0, 1, 0x31, false, false, true, 0, 0, packArgs [(16, 7)], 0, 5⟩] }
          (s.waitingCmd 0x31 7).isSome && (s.ctx? 7).any (fun x => !x.working))
      && begins (asked (withCtx idle7) 0x32 [(16, 7)]) 0x32 [(16, 7)] (fun _ u => (u.ctx? 7).any (fun x => decide (x.st = .created) && x.prog.isSome && decide (x.model = 0xFFFF)
        && !u.podClash x && (u.resideTables 7 x).isEmpty && (u.residePlan 7 x).isSome && decide (x.imgAt ≠ .host)))
      && begins (asked (withCtx { idle7 with st := .resident }) 0x33 [(16, 7), (18, 0)]) 0x33 [(16, 7), (18, 0)] (fun t u => decide (t.bufLen = 0) && (u.ctx? 7).any (fun x => x.isRes && !x.working))
      && begins (asked (withCtx { idle7 with st := .resident }) 0x33 [(16, 7), (18, 1)] 4096 (imageSize 16)) 0x33 [(16, 7), (18, 1)] (fun t u =>
        decide (imageSize u.parts[0].cores ≤ t.bufLen.toNat))
      && (let s : State := { withCtx { idle7 with st := .resident } with taken := [⟨0, 1, 0x33, false, false, true, 0, 0, packArgs [(16, 7)], 0, 5⟩] }
          (s.waitingCmd 0x33 7).isSome && (s.ctx? 7).any (fun x => x.isRes && !x.working))
      && begins (asked (withCtx idle7) 0x34 [(16, 7)] 4096 80) 0x34 [(16, 7)] (fun t u => (parseProgram image0).any (fun g => decide (g.ghqs ≤ u.freeGhqs.length))
        && decide (image0.length = t.bufLen.toNat))
      && (let s : State := { withCtx idle7 with twin := { live.twin with st := .paired } }
          begins (asked s 0x62 [(16, 7), (18, 1)]) 0x62 [(16, 7), (18, 1)] (fun _ u => u.paired && decide (ckptBytes idle7.regions ≤ ckptSize)))) = true := by decide +kernel

theorem test_meets_WorkCommandsComplete :
    (let fl := [(16, 7), (18, 2), (19, 0), (24, 7)]
     let x : Ctx := { idle7 with model := 9, epoch := 1, startStep := 5, nextStep := 5 }
     let s : State := { withCtx x with enc := { live.enc with models := [model9], shards := [⟨9, 1, 2, 0, none, false⟩, ⟨9, 2, 2, 0, none, false⟩] } }
     begins (asked s 0x25 fl) 0x25 fl (fun _ u => !flipTooEarly x 7 && (u.shardOf 9 2).isSome && (u.rims[0].flipOf 7).isNone && !u.circulates x)
      && (let w : List (Nat × List Nat) := [(9, [2, 1])]
          let r : Rim := { rim2 with tabReps := [⟨9, 1, 0, [(0, 0, 1)]⟩, ⟨9, 1, 1, [(0, 0, 1)]⟩, ⟨9, 2, 0, [(0, 0, 1)]⟩, ⟨9, 2, 1, [(0, 0, 1)]⟩] }
          begins (asked { s with rims := live.rims.set 0 r } 0x25 fl) 0x25 fl (fun _ u => u.circulates x && decide (((2 : Nat) :: u.epochsHeld 7 x).eraseDups = [2, 1])
            && (u.tablesMissing 0 (w ++ u.residentWeights 0 7)).isEmpty && u.landingFits 0 7 (9, [2, 1]) false))
      && (let a := [(16, 7), (18, 256), (20, 256), (22, 0), (24, 4095), (32, 5), (40, 0), (48, 0)]
          begins (asked { s with rims := live.rims.set 0 rim2 } 0x40 a) 0x40 a (fun _ u => (u.ctx? 7).any (fun x => decide (x.st ≠ .faulted) && decide ((5 : Word) = x.nextStep)
            && decide (x.model ≠ 0xFFFF)) && decide (u.rims[0].phase = .formed))
            && begins (asked (withCtx { x with st := .faulted }) 0x40 a) 0x40 a (fun _ u => (u.ctx? 7).any (fun x => decide (x.st = .faulted))))
      && (let a := [(16, 7), (24, 4095), (40, 0)]
          begins (asked (withCtx idle7) 0x41 a) 0x41 a (fun _ u => (u.ctx? 7).any (fun x => decide (x.model = 0xFFFF) && x.prog.isSome)))) = true := by decide +kernel

theorem test_meets_SchedulesComplete :
    (let tab : SchedTable := schedTableOf (toLe 4 100 ++ toLe 2 2 ++ List.replicate 10 0 ++ toLe 4 0 ++ toLe 2 0xFFFF ++ toLe 2 0 ++ toLe 4 50 ++ toLe 2 0xFFFF ++ toLe 2 0)
     begins (asked live 0x42 [(16, 0)] 4096 32) 0x42 [(16, 0)] (fun t u => u.partIs 0 && decide (t.bufLen.toNat = 16 + 8 * tab.slots.toNat) && u.tableOk 0 tab
        && decide (u.parts[0].mode = .demand) && u.parts[0].change.isNone)
      && begins (asked (live.modPart 0 (fun q => { q with table := some tab })) 0x43 [(16, 0), (17, 1), (24, 10000)]) 0x43 [(16, 0), (17, 1), (24, 10000)]
        (fun _ u => u.partIs 0 && decide (10000 ≤ ((10000 : Word) - u.podTime).toInt) && u.parts[0].table.isSome)
      && (let s : State := (live.modPart 0 (fun q => { q with change := some ⟨true, 0, 1⟩ }))
          decide (s.parts[0].change = some ⟨true, 0, 1⟩) && s.isTime 0)
      && (let s : State := { live.modPart 0 (fun q => { q with mode := .cyclic, table := some tab, slot := 1 }) with podTime := 100000 }
          decide (tab.tab.length ≤ s.parts[0].slot + 1) && s.isTime (s.parts[0].period0 + BitVec.ofNat 64 (1000 * tab.period.toNat)))
      && (let s : State := { live.modPart 0 (fun q => { q with mode := .cyclic, table := some tab }) with podTime := 50000 }
          decide (tab.tab[s.parts[0].slot + 1]? = some ⟨50, 0xFFFF, 0⟩) && s.isTime (s.parts[0].period0 + BitVec.ofNat 64 (1000 * 50)))) = true := by decide +kernel

theorem test_meets_StepsAndTasksComplete :
    (let x : Ctx := { ctx7 with model := 9, epoch := 1, startStep := 5, nextStep := 6, queue := [work false .queued] }
     let s : State := { onRim with ctxs := [(7, x)] }
     s.pwr.entering.isNone && decide (s.parts[0].running = some 7) && decide (x.oldest = some (work false .queued)) && decide (s.rims[0].phase = .formed) && s.mayArm 0 7 5 && s.verdictsIn 7 x 5
      && decide (x.st = .running) && x.armed.isNone && (s.undrained (s.coresOf 0)).isEmpty && decide ((work false .queued).rows ≠ 0)
      && (let t : State := s.modCore 3 (fun k => { k with run := some ⟨8, some 9⟩, puts := [⟨0, 0, 0, none, none, 0, 1, 0, 0, 0⟩] })
          decide (t.parts[0].running = some 7) && decide ((t.ctx? 7) = some x) && t.mayArm 0 7 5 && t.verdictsIn 7 x 5 && !(t.undrained (t.coresOf 0)).isEmpty)
      && (let t := onRim {} { rim2 with consLayer := 4 }
          (t.ctx? 7).any (fun x => decide (x.armed = some 5) && decide (x.queue.find? (fun (w : Work) => !w.task && some w.step = x.armed) = some (work false .running)))
            && t.coresHalted 0 && t.layersDone 0 && t.twin.seated.isEmpty && (((t.ctx? 7).map (fun x => ((t.clearPipes 0).finishStep 7 x (work false .running)).ctxs.all
              (fun z => decide (z.2.partner ≠ some 7)))).getD false))
      && (let s := fun (st : WState) => ({ live with
            ctxs := [(7, { idle7 with st := .resident, queue := [work true st] })], taken := [⟨0, 9, 0x41, false, false, true, 0, 0, 0, 0, 9⟩] } : State)
          let free := fun (s : State) => ((s.coresOf 0).filter (fun c => !s.stepUses 0 c)).filter (fun c => (s.cores[c].run.bind (·.task)).isNone)
          ((s .preempted).tasksIn 0 .preempted).any (fun k => (free (s .preempted)).any (fun c => c.val = k.2.2.core))
            && ((s .queued).tasksIn 0 .preempted).isEmpty && !((s .queued).tasksIn 0 .queued).isEmpty && !(free (s .queued)).isEmpty)) = true := by decide +kernel

theorem test_meets_SwitchesAndSwapsComplete :
    (live.twin.detach.isNone
      && (let s := fun (m : PMode) (now : Word) => ({ live.modPart 0 (fun q => { q with switch := .moving none, mode := m }) with podTime := now } : State)
          decide ((s .demand 0).parts[0].switch = .moving none) && (s .demand 0).drained 0 && (s .cyclic 20001).isTime ((s .cyclic 20001).parts[0].engineTime + 1)
            && decide ((s .cyclic 20000).podTime = (s .cyclic 20000).parts[0].engineTime))
      && (let s : State := { live with ctxs := [(7, { idle7 with queue := [work true .queued] })] }
          let t : State := { s with rims := live.rims.set 0 rim2 }
          decide (fld (s.reg blkCTL 0x0510 0) 0 20 ≠ 0) && s.parts[0].swapAt.isNone && !(s.runnables 0).isEmpty && (s.residents 0).all (fun x => s.ctxBlocked x.1 x.2)
            && decide (s.rims[0].phase ≠ .formed) && decide (t.rims[0].phase = .formed) && t.rims[0].leads && !({ rim2 with lead := 1 } : Rim).leads)
      && (let s := State.modPart { live with ctxs := [(7, { idle7 with queue := [work true .queued] })] } 0 (fun q => { q with swapAt := some (7, none, 0) })
          decide (s.parts[0].swapAt = some (7, none, 0)) && s.isTime 0 && (s.swapPlan 7 none).any (fun q => decide (q.2.1.imgAt ≠ .host)))) = true := by decide +kernel

/-- The device with its twin links in UP to serial 5, the twin in a state. -/
def twinned (st : TwinSt) : State :=
  { linked .up (fun k => { k with partner := some ⟨18, 3, 0x11, 5, 1, 0, 0⟩ }) with twin := { live.twin with st := st, partner := 5, target := 5 } }

theorem test_meets_PairingAndDepartureComplete :
    (begins (asked (twinned .unpaired) 0x60 [(24, 5)]) 0x60 [(24, 5)] (fun _ u => decide ((5 : Word) ≠ u.fuses.serial) && u.twinUp 1
        && (List.finRange 2).all (fun l => decide ((u.links[18 + l.val].partner.map (·.serial)) = some (5 : BitVec 64))) && decide (u.twin.st = .unpaired) && u.twin.request.isNone)
      && (twinned .pairing).anyTwinUp && !(twinned .pairing).stopped && decide ((twinned .unpaired).twin.st ≠ .pairing) && (twinned .unpaired).anyTwinUp
      && (let q : PairRequest := ⟨5, 1, 0, [], []⟩
          let s := twinned .pairing
          decide (s.twin.st = .pairing) && decide (q.serial = s.twin.target) && decide (q.named = s.fuses.serial) && decide (q.shape.toNat = s.shape.toNat) && s.ctxs.isEmpty
            && decide (147456 * q.ctxs.length + (((natRegions q.regions).filter (fun g => inHbm g.1 g.2)).map (·.2)).sum ≤ ckptSize)
            && decide (({ q with shape := 3 } : PairRequest).shape.toNat ≠ s.shape.toNat) && s.twin.seated.isEmpty)
      && begins (asked (twinned .paired) 0x61 [(16, 0)]) 0x61 [(16, 0)] (fun _ u => u.paired && u.twin.sending.isEmpty && (List.finRange 4).all (fun p => !u.rimBusy p))
      && begins (asked { onRim with twin := (twinned .paired).twin } 0x61 [(16, 0)]) 0x61 [(16, 0)] (fun _ u => u.paired && u.twin.sending.isEmpty && u.rimBusy 0)
      && begins (asked (twinned .departed) 0x61 [(16, 1)]) 0x61 [(16, 1)] (fun _ u => decide (u.twin.st ≠ .unpaired) && u.twin.seated.isEmpty)
      && (let s := twinned .paired
          begins (asked { s with twin := { s.twin with seated := [(0, 1)] } } 0x61 [(16, 2)]) 0x61 [(16, 2)] (fun _ u => u.paired && !u.twin.seated.isEmpty && !u.rimBusy 0)
            && begins (asked { onRim with twin := { s.twin with seated := [(0, 1)] } } 0x61 [(16, 2)]) 0x61 [(16, 2)] (fun _ u =>
              u.paired && u.twin.seated.any (fun q => u.rimBusy q.1)))
      && (twinned .paired).paired && (twinned .paired).twinUp 0 && (List.finRange 4).all (fun p => decide ((twinned .paired).coveredSeat p = none))) = true := by
  decide +kernel

theorem test_meets_PairingAndDepartureComplete_holds :
    (decide (onRim.rims[0].phase = .formed) && decide ((1 : BitVec 8).toNat < onRim.rims[0].n) && onRim.twin.notices.isEmpty
      && (let s : State := { onRim with twin := { live.twin with notices := [(0, 1, 5)], hold := [(0, 1, 5)] } }
          s.twin.notices.any (fun t => t.1 = 0 && t.2.1 = 1 && !s.isTime t.2.2) && s.twin.detach.isNone && s.twin.hold.any (fun t => t.1 = 0) && decide (s.rims[0].phase ≠ .forming)
            && decide (s.rims[0].lead ≠ 1) && s.ctxs.any (fun x => x.2.part = 0 && x.2.st ≠ .faulted && s.isRimCtx x.2)
            && (let t : State := { s with ctxs := [], rims := s.rims.set 0 { rim2 with lead := 1 } }
                decide (t.rims[0].lead = 1) && decide (t.rims[0].members.idxOf 7 < t.rims[0].n) && t.ctxs.isEmpty))) = true := by decide +kernel

theorem test_meets_TwinRecordsComplete :
    (let s : State := { twinned .paired with slowerSize := 4096 }
     !s.stopped && s.paired && s.anyTwinUp && decide (s.vcl.st = .up) && decide (s.enc.salt ≠ 0xFFFFFFFF) && decide (s.twin.shadow.length < 2 ^ 20)
      && decide (freePlace 0 s.slowerSize.toNat 64 s.slowerUsed (64 + 16) = some 0)
      && decide (s.heldOut = [])
      && (let a : CtxArgs := { ctx1023 with ctx := 7 }
          let t : State := { s with twin := { s.twin with ctxs := [(7, a)] } }
          decide (look t.twin.ctxs 7 = some a) && (t.ctx? 7).isNone && !t.twin.sending.contains (7, 5) && pagesFit (natRegions (ctxRegions a)) [hostUseBase] && (t.readHbm [] ckptBase 4096).1)
      && (let o : Outgoing := { marked := [(hostUseBase / 4096, 1)] }
          let t : State := { s with ctxs := [(7, ctx7)], twin := { s.twin with sending := [(7, 5)], outgoing := [(7, o)] } }
          t.twin.sending.contains (7, 5) && decide (look t.twin.outgoing 7 = some o) && !o.bad && decide (o.pages = [hostUseBase]) && (t.errsAt [] hostUseBase 4096).isEmpty)
      && inHbm 0x10000000 4096) = true := by decide +kernel

/-- An image of the least length with nothing amiss, of key 0. -/
def goodHead : Bytes :=
  toLe 4 0x4F424E48 ++ toLe 2 1 ++ toLe 2 3 ++ toLe 4 2 ++ toLe 4 3 ++ toLe 4 0 ++ [0] ++ List.replicate 11 0
def goodBody : Bytes := goodHead ++ sha512 [] ++ firmwareKey 0
def goodImage : Bytes := goodBody ++ ecdsaWith (firmwareKey 0) goodBody 0 ++ List.replicate 152 0

theorem goodBody_length : goodBody.length = 228 := by simp [goodBody, goodHead, toLe, sha512, firmwareKey]

theorem test_meets_SecurityCompletes_image (f : Fuses) (h1 : f.stepping = 0x00B0) (h2 : f.revoked = 0) (h3 : f.minSvn = 0) (r : Bool) :
    fwCode f 512 goodImage r = if r then 0 else 9 := by
  have d : (goodImage.drop 32).take 64 = sha512 [] := by
    have h := slice_mid goodHead (sha512 []) (firmwareKey 0 ++ ecdsaWith (firmwareKey 0) goodBody 0 ++ List.replicate 152 0) 32 64 (by decide) (by simp [sha512])
    simpa only [goodImage, goodBody, List.append_assoc] using h
  have k : (goodImage.drop 96).take 132 = firmwareKey 0 := by
    have h := slice_mid (goodHead ++ sha512 []) (firmwareKey 0) (ecdsaWith (firmwareKey 0) goodBody 0 ++ List.replicate 152 0) 96 132 (by simp [sha512, goodHead, toLe])
      (by simp [firmwareKey])
    simpa only [goodImage, goodBody, List.append_assoc] using h
  have b : goodImage.take 228 = goodBody := by
    rw [goodImage, List.append_assoc]
    exact List.take_left' goodBody_length
  have g : (goodImage.drop 228).take 132 = ecdsaWith (firmwareKey 0) goodBody 0 := slice_mid _ _ _ 228 132 goodBody_length (ecdsaWith_length _ _ _)
  have v : ecdsaOk (firmwareKey 0) goodBody (ecdsaWith (firmwareKey 0) goodBody 0) = true := ecdsaOk_with _ _ 0 (Nat.two_pow_pos _)
  have a : leAt goodImage 16 4 = 0 ∧ leAt goodImage 0 4 = 0x4F424E48 ∧ leAt goodImage 4 2 = 1 ∧ leAt goodImage 6 2 = 3 ∧ zeroAt goodImage 21 11 = true
      ∧ zeroAt goodImage 360 152 = true ∧ leAt goodImage 20 1 = 0 ∧ leAt goodImage 12 4 = 3 := by decide +kernel
  obtain ⟨a1, a2, a3, a4, a5, a6, a7, a8⟩ := a
  cases r <;> simp [fwCode, h1, h2, h3, d, k, b, g, v, a1, a2, a3, a4, a5, a6, a7, a8, romHash, bit] <;> decide

/-- The device with a whole image from the management controller to verify. -/
def verifying : State := { live with fwLoad := some ⟨true, 512, goodImage, true, false⟩, sec := { boot := 3 } }

theorem test_meets_SecurityCompletes_load : verifying.fwLoad = some ⟨true, 512, goodImage, true, false⟩ ∧ verifying.stopped = false ∧ verifying.sec.boot = 3
    ∧ verifying.fuses.stepping = 0x00B0 ∧ verifying.fuses.revoked = 0 ∧ verifying.fuses.minSvn = 0 ∧ verifying.vcl.reqs = [] ∧ verifying.vcl.obReqs = []
    ∧ verifying.vcl.bulkQ = [] := ⟨rfl, rfl, rfl, rfl, rfl, rfl, rfl, rfl, rfl⟩

theorem test_meets_SecurityCompletes :
    (let s : State := { live with pwr := { live.pwr with stage := 3 }, sec := {}, vcl := { live.vcl with boot := true } }
     decide (s.sec.boot = 0) && decide (s.vcl.st = .up) && s.vcl.boot && !s.stopped && s.pwr.entering.isNone && decide (3 ≤ s.pwr.stage) && decide (s.heldOut = [])
      && decide (fld (512 : Word) 0 22 ≠ 0)
      && decide ((4096 : BitVec 13).toNat ≤ 4096) && decide (4096 < (4097 : BitVec 13).toNat) && !live.pwr.held) = true := by decide +kernel

theorem test_meets_HostLinkCompletes :
    (let down : State := { live with vcl := { st := .down } }
     let f : VclFlit := ⟨0, [], 0, 0⟩
     let good : VclFlit := { f with crc := crc32c (toLe 4 0 ++ [] ++ toLe 8 0) }
     let last : VclFlit := { f with header := BitVec.ofNat 32 (1023 * 4) }
     let s : State := { live with vcl := { live.vcl with replay := [last, f], resends := 14 } }
     live.vcl.st = .up ∧ down.vcl.st = .down ∧ 3 ≤ down.pwr.stage ∧ down.sec.recovery = false ∧ live.vcl.retryDue = false ∧ vclCrcOk f = false ∧ vclCrcOk good = true ∧ vclKind good < 2
       ∧ vclSeq good = live.vcl.rxSeq ∧ (let t : State := { live with vcl := { live.vcl with rxSeq := 1023 } }; vclSeq good ≠ t.vcl.rxSeq)
       ∧ s.vcl.replay.dropWhile (fun g => vclSeq g ≠ 1023) = [last, f] ∧ s.vcl.resends + 1 < 16 ∧ s.vcl.replay.dropWhile (fun g => vclSeq g ≠ 0) = [f]
       ∧ (let t : State := { live with vcl := { live.vcl with replay := [last], resends := 15 } }; t.vcl.replay.dropWhile (fun g => vclSeq g ≠ 1023) = [last] ∧ 16 ≤ t.vcl.resends + 1)
       ∧ vclKind { f with header := 2 } = 2 ∧ 2 < vclKind { f with header := 3 } ∧ live.vcl.badRun = false ∧ live.vcl.replay.length < 512) := by decide +kernel

/-- A request of 64 B that awaits its answer. -/
def vreq (write : Bool) : VclReq := ⟨4095, write, false, .snapHead, hostBase, 64, true, true, []⟩

theorem test_meets_HostAnswersComplete :
    (let s := fun (w : Bool) => ({ live with vcl := { live.vcl with reqs := [vreq w] } } : State)
     (s true).vcl.st = .up ∧ pull (fun (q : VclReq) => q.tag = 4095 && q.write && q.sent) (s true).vcl.reqs = some (vreq true, [])
       ∧ pull (fun (q : VclReq) => q.tag = 4095 && q.write = false && q.sent) (s false).vcl.reqs = some (vreq false, [])
       ∧ (List.replicate 64 (0 : Byte)).length = 64 * 1 ∧ 64 * (0 + 1) ≤ (vreq false).len ∧ (vreq false).retried = true
       ∧ pull (fun (q : VclReq) => q.tag = 4095) (s false).vcl.reqs = some (vreq false, []) ∧ live.vcl.reqs = []
       ∧ (credited live).linkIdle = true ∧ 2 ≤ (credited live).vcl.credits[1]) := by decide +kernel

theorem test_meets_HostAccessesComplete :
    (live.denied 0 4 3 false = some .form ∧ live.denied 2 0 3 true = some .filter ∧ live.denied 0 0x1FFFF8 3 false = none ∧ live.denied 1 0 3 true = none
      ∧ (let s : State := { live with vcl := { live.vcl with apt := live.vcl.apt.set 0 (aptWord ⟨BitVec.ofNat 18 (hostUseBase / 2 ^ 20), 1, 2⟩) } }
         s.denied 2 hostUseBase 6 true = none ∧ s.denied 2 hostUseBase 6 false = none)
      ∧ live.readsOut < 256 ∧ 0x1FFFF8 < 0x200000 ∧ live.answers (0x1FFFF8 / 65536) = true ∧ live.bad = []) := by decide +kernel

theorem test_meets_RegisterWritesComplete :
    (rwMask blkPWR 0x0200 ||| w1cMask blkPWR 0x0210 ≠ 0 ∧ rwMask blkCTL 0x0510 ||| w1cMask blkCTL 0x0510 ≠ 0 ∧ rwMask blkFAB 0x02D0 ||| w1cMask blkFAB 0x02D0 = 0
      ∧ bit ((live.setReg blkVCL 0x0228 (BitVec.ofNat 64 (2 ^ 33 + 2 ^ 32)) 127).reg blkVCL 0x0228 127) 33 = true ∧ bit (live.reg blkVCL 0x0228 127) 33 = false
      ∧ 400 ≤ fld (BitVec.ofNat 64 (850 + 800 * 2 ^ 16) : Word) 0 16 ∧ fld (BitVec.ofNat 64 (850 + 800 * 2 ^ 16) : Word) 0 16 ≤ live.binCap
      ∧ fld (BitVec.ofNat 64 (850 + 800 * 2 ^ 16) : Word) 16 16 ≤ live.binMHz ∧ fld (BitVec.ofNat 64 (850 + 800 * 2 ^ 16) : Word) 16 16 % 25 = 0
      ∧ live.binCap < fld (851 : Word) 0 16 ∧ fld (399 : Word) 0 16 < 400) := by decide +kernel

theorem test_meets_RegisterWritesComplete_vectors :
    (let s := live.setReg blkVCL 0x0228 0x12345678 127
     bit (s.reg blkVCL 0x0228 127) 32 = false ∧ s.vcl.st = .up ∧ s.heldOut = [] ∧ s.writesOut = false ∧ bit (live.reg blkVCL 0x0228 127) 32 = true) := by
  decide +kernel

theorem test_meets_HousekeepingCompletes :
    (let hot : State := { live with hkp := { live.hkp with level := 7, calm := 100, almHot := true, almHeld := some 2, temps := List.replicate 34 1050 } }
     let w : AlmWrite := ⟨1, List.replicate 256 0, 511, 2, [510]⟩
     live.stbyOn = true ∧ hot.hkp.almNow = false ∧ live.hkp.nW = 0 ∧ ({ live with hkp := { live.hkp with nW := 2, sumW := 900, maxT := [401] } } : State).hkp.nW ≠ 0 ∧ hot.hkp.level ≠ 0 ∧ 100 ≤ hot.hkp.calm ∧ 2 ≤ live.pwr.stage ∧ hot.hkp.almHot = true ∧ hot.hkp.almHeld = some 2 ∧ hot.hkp.almWrite = none
       ∧ (let s : State := { live with hkp := { live.hkp with almWrite := some w } }; s.hkp.almWrite = some w ∧ s.hkp.almHeld = none ∧ s.hkp.almNow = false ∧ w.fails = 2)
       ∧ (let s : State := { live with hkp := { live.hkp with almWrite := some { w with fails := 1 } } }; s.hkp.almWrite = some { w with fails := 1 })
       ∧ ((([(1050, true)] : List (Int × Bool)).map (·.1)).zip hot.hkp.temps).any (fun v => decide (1050 ≤ v.1) && decide (1050 ≤ v.2)) = true
       ∧ bit (hot.reg blkPWR 0x0210) 1 = false ∧ 6 ≤ live.pwr.stage ∧ live.bad = []) := by decide +kernel

/-- The addressed device, in each column of Table 15.7. -/
def managed : State := { live with mgt := { addressed := true } }
def waiting : State := { managed with sec := {}, pwr := { live.pwr with stage := 3 } }
def standby : State := { managed with pwr := { live.pwr with held := true, stage := 0 } }

theorem test_meets_ManagementCompletes :
    (managed.mgtPhase = .running ∧ waiting.mgtPhase = .waiting ∧ standby.mgtPhase = .standby ∧ managed.stbyOn = true ∧ waiting.stbyOn = true ∧ standby.stbyOn = true
       ∧ managed.mgt.addressed = true ∧ waiting.mgt.addressed = true ∧ standby.mgt.addressed = true
       ∧ waiting.fwLoad = none ∧ waiting.stopped = false ∧ waiting.sec.boot = 0 ∧ 3 ≤ waiting.pwr.stage
       ∧ (let s : State := { waiting with sec := { boot := 5, recovery := true } }; s.mgtPhase = .waiting ∧ s.fwLoad = none ∧ s.stopped = false ∧ s.sec.boot = 5)
       ∧ (let s : State := { waiting with fwLoad := some ⟨true, 1024, [], false, false⟩, sec := { boot := 2 } }
          s.mgtPhase = .waiting ∧ s.fwLoad = some ⟨true, 1024, [], false, false⟩ ∧ ([] : Bytes).length + 1024 ≤ 1024)
       ∧ (let s : State := { waiting with fwLoad := some ⟨true, 2, [1, 2], false, false⟩, sec := { boot := 2 } }
          s.mgtPhase = .waiting ∧ s.fwLoad = some ⟨true, 2, [1, 2], false, false⟩ ∧ ([1, 2] : Bytes).length = 2)
       ∧ managed.fuses.minSvn.toNat < (255 : BitVec 32).toNat ∧ 255 < (256 : BitVec 32).toNat ∧ managed.hkp.snaps[0]? = none ∧ managed.almLatest[0]? = none
       ∧ (let s : State := { managed with hkp := { managed.hkp with snaps := [[1]] } }; s.mgtPhase = .running ∧ s.hkp.snaps[0]? = some [1])
       ∧ live.mgt.smbus = false ∧ live.mgt.addressed = false ∧ (0x02 : BitVec 8) ∉ [0x00#8, 0x01#8, 0x05#8, 0x7E#8] ∧ 2 ≤ managed.pwr.stage) := by decide +kernel

/-- A record that the almanac's reader finds valid. -/
def recordBody : Bytes := toLe 2 0x414D ++ List.replicate 250 0
def record1 : Bytes := recordBody ++ toLe 4 (crc32c recordBody).toNat

theorem leNat_toLe (n v : Nat) (h : v < 256 ^ n) : leNat (toLe n v) = v := by
  induction n generalizing v with
  | zero => simp only [Nat.pow_zero, Nat.lt_one_iff] at h; simp [toLe, leNat, h]
  | succ k ih =>
    have h2 : v / 256 < 256 ^ k := by rw [Nat.div_lt_iff_lt_mul (by decide)]; rw [Nat.pow_succ] at h; exact h
    simp only [toLe, leNat, ih _ h2, BitVec.toNat_ofNat]
    omega

/-- A body of 252 bytes with the mark of a record, with its own CRC after it, is a valid record. -/
theorem almValid_sealed (rest : Bytes) (h : rest.length = 250) : almValid ((toLe 2 0x414D ++ rest) ++ toLe 4 (crc32c (toLe 2 0x414D ++ rest)).toNat) = true := by
  have hb : (toLe 2 0x414D ++ rest).length = 252 := by rw [List.length_append, toLe_length, h]
  have h2 : (toLe 2 0x414D).length = 2 := toLe_length ..
  have hm : ∀ e : Bytes, leAt ((toLe 2 0x414D ++ rest) ++ e) 0 2 = 0x414D := by
    intro e
    rw [leAt, List.drop_zero, List.append_assoc, List.take_left' h2, leNat_toLe _ _ (by decide)]
  revert hm hb
  generalize toLe 2 0x414D ++ rest = body
  intro hb hm
  have ht : ∀ e : Bytes, (body ++ e).take 252 = body := fun e => List.take_left' hb
  generalize hk : crc32c body = c
  have hc : c.toNat < 256 ^ 4 := c.isLt
  have hd : leAt (body ++ toLe 4 c.toNat) 252 4 = c.toNat := by
    rw [leAt, List.drop_left' hb, List.take_of_length_le (by simp [toLe_length]), leNat_toLe _ _ hc]
  have hl : (body ++ toLe 4 c.toNat).length = 256 := by rw [List.length_append, hb, toLe_length]
  simp only [almValid, hl, hm, hd, ht, hk, beq_self_eq_true, decide_true, Bool.and_self]

theorem record1_valid : almValid record1 = true := by
  rw [record1, recordBody]
  exact almValid_sealed _ (by rw [List.length_replicate])

theorem almLatest_one (s : State) (r : Bytes) (hv : almValid r = true) : ({ s with hkp := { s.hkp with alm := [(3, r)] } } : State).almLatest[0]? = some r := by
  have h : [r].filter almValid = [r] := by simp [hv]
  simp [State.almLatest, h, State.almLatest.go, minBy]

theorem test_meets_ManagementCompletes_almanac : ∃ s : State, s.mgtPhase = .running ∧ s.almLatest[0]? = some record1 :=
  ⟨{ managed with hkp := { managed.hkp with alm := [(3, record1)] } }, by decide, almLatest_one managed record1 record1_valid⟩

theorem test_meets_ManagementCompletes_signed (msg : Bytes) : managed.firmwareSigned msg (ecdsaWith (firmwareKey 0) msg 0) = true
    ∧ managed.firmwareSigned msg [] = false := by
  have h : ∀ i, ecdsaOk (firmwareKey i) msg [] = false := fun i => ecdsaOk_length (by decide)
  refine ⟨?_, by simp [State.firmwareSigned, h]⟩
  have h0 : bit managed.fuses.revoked 0 = false := by decide +kernel
  simp [State.firmwareSigned, List.range, List.range.loop, h0, ecdsaOk_with _ _ 0 (Nat.two_pow_pos 521)]

theorem test_meets_PowerAndResetComplete :
    (State.reset.pwr.stby = true ∧ State.reset.pwr.stbyHeld = true ∧ State.reset.pwr.pwrOk = false ∧ live.pwr.pwrOk = true ∧ live.pwr.rstN = true ∧ live.pwr.held = false
      ∧ live.pwr.entering = none ∧ State.reset.powerless.pwr.stby = false
      ∧ (let s : State := { live with pwr := { live.pwr with rstN := false, entering := some (.rstN, 0) } }; s.pwr.rstN = false ∧ s.pwr.entering = some (.rstN, 0))
      ∧ fld (BitVec.ofNat 64 (0x9624 * 2 ^ 48 + 1) : Word) 48 16 = 0x9624 ∧ bit (BitVec.ofNat 64 (0x9624 * 2 ^ 48 + 1) : Word) 0 = true ∧ fld (0 : Word) 48 16 ≠ 0x9624) := by
  decide +kernel

theorem test_meets_BringUpCompletes :
    (let s := fun (n : Nat) => ({ live with pwr := { live.pwr with stage := n, linksDone := false } } : State)
     (s 2).bringing = true ∧ (s 2).pwr.refclk = true ∧ (s 5).bringing = true ∧ (s 5).vcl.reqs = [] ∧ (s 5).vcl.obReqs = [] ∧ (s 5).vcl.bulkQ = [] ∧ (s 7).pwr.linksDone = false
       ∧ (∀ l : Fin 20, (s 7).links[l].st = .up ∨ (s 7).links[l].st = .down ∨ (s 7).links[l].st = .disabled) ∧ (s 9).time.locked = false ∧ (s 9).time.root = false
       ∧ (let t : State := { s 9 with time := { locked := true } }; t.bringing = true ∧ t.time.locked = true)) := by decide +kernel

theorem test_meets_MemoryStaysCanonical : Memory.wf live.mem = true ∧ isNext (step { live with pending := [.linkLossOfSignal 0] }) = true := by decide +kernel

theorem test_meets_FusesOnlyRise : isNext (step { live with pending := [.timeSetM 0] }) = true := by decide +kernel

theorem test_meets_StoppedStaysStopped :
    (let s : State := { live with stopped := true, pending := [.entropyHealthFail] }; s.stopped = true ∧ isNext (step s) = true ∧ s.taken = []) := by decide +kernel

/-! An ill-formed term that each check of WellFormed refuses, beside a well-formed one. -/

theorem test_wf_packet : (Instr.putPacketRx (pkt 1 0 [])).wf = false ∧ (Instr.putPacketRx (pkt 1 0)).wf = true ∧ (Instr.packetAtRouter (pkt 1 0 [0]) none).wf = false
    ∧ (Instr.rsignalRx ⟨pkt 3 0 [], none⟩).wf = false ∧ (Instr.rsigDoneRx ⟨pkt 4 0 [], none⟩).wf = false ∧ (Instr.barArriveRx ⟨pkt 5 0 [], none⟩).wf = false
    ∧ (Instr.barReleaseRx ⟨pkt 7 0 [], none⟩).wf = false ∧ (Instr.barBreakRx ⟨pkt 6 0 [], none⟩).wf = false ∧ (Instr.ack ⟨pkt 2 0 [], none⟩).wf = false
    ∧ (Instr.rimRereq (pkt 8 0 [])).wf = false ∧ (Instr.rimAbort (pkt 9 0 [])).wf = false ∧ (Instr.hbmWrite (pkt 0x0B 0 [])).wf = false := by decide +kernel

theorem test_wf_flits : (Instr.flitRx 0 ⟨0, [], 0, 0⟩).wf = false ∧ (Instr.flitRx 0 ⟨0, List.replicate 256 0, 0, 0⟩).wf = true
    ∧ (Instr.vclFlitRx ⟨0, [], 0, 0⟩).wf = false ∧ (Instr.vclFlitRx ⟨0, List.replicate 240 0, 0, 0⟩).wf = true := by decide +kernel

theorem test_wf_checks : (Instr.sadd 0 .exec 0 .spad).wf = false ∧ (Instr.sload 0 .exec 0 .spad).wf = true ∧ (Instr.vectorDone 0 ⟨0, .buffer⟩).wf = false
    ∧ (Instr.cmdNop ⟨0, 1, .security⟩).wf = false ∧ (Instr.cmdNop ⟨0, 1, .control⟩).wf = true := by decide +kernel

theorem test_wf_frames : (Instr.plaitInExpander 0 [] ⟨.ok, []⟩).wf = false ∧ (Instr.plaitInExpander 0 plaitHdr ⟨.ok, []⟩).wf = true ∧ (Instr.plaitFrame 0 (List.replicate 17 0) 0 .ok).wf = false
    ∧ (Instr.rimHelloFrame 0 []).wf = false ∧ (Instr.rimGoodbyeFrame 0 (List.replicate 15 0)).wf = false ∧ (Instr.rimHelloFrame 0 (List.replicate 16 0)).wf = true := by decide +kernel

theorem test_wf_records :
    (Instr.fabRouteLoad ⟨0, 1, .ok⟩ [(131168, 1)]).wf = false ∧ (Instr.fabRouteLoad ⟨0, 1, .ok⟩ [(1, 1), (0, 1)]).wf = false ∧ (Instr.fabRouteLoad ⟨0, 1, .ok⟩ [(0, 0)]).wf = false
    ∧ (Instr.fabRouteLoad ⟨0, 1, .ok⟩ routeBuf).wf = true
    ∧ (Instr.pairRecordRx (.rim 0 (List.replicate 65 0) 0 0 0 0)).wf = false
    ∧ (Instr.pairRecordRx (.ctx ⟨0, 0, 0, 0, 0, 0, 0, 0, List.replicate 144 0⟩)).wf = false
    ∧ (Instr.rimForm ⟨0, 1, .ok⟩ (List.replicate 35 0)).wf = false ∧ (Instr.rimForm ⟨0, 1, .ok⟩ (List.replicate 36 0)).wf = true
    ∧ (Instr.regionSet ⟨0, 1, .ok⟩ []).wf = false ∧ (Instr.regionSet ⟨0, 1, .ok⟩ regionBuf).wf = true
    ∧ (Instr.keyEnroll ⟨0, 1, .ok⟩ ⟨63, []⟩).wf = false ∧ (Instr.keyEnroll ⟨0, 1, .ok⟩ ⟨63, keyBuf 0 point⟩).wf = true
    ∧ (Instr.modelEnroll ⟨0, 1, .ok⟩ ⟨9, 63, []⟩).wf = false ∧ (Instr.modelEnroll ⟨0, 1, .ok⟩ ⟨9, 63, manifest live⟩).wf = true
    ∧ (Instr.ingestPass1End [] true .spad).wf = false ∧ (Instr.slowerTierReadDone 0 true .spad).wf = false ∧ (Instr.slowerTierReadDone 0 true .security).wf = true
    ∧ (Instr.shardIngest ⟨0, 1, .ok⟩ ⟨9, 1, 0, 2, 0, [0]⟩).wf = false
    ∧ (Instr.ctxCreate ⟨0, 1, .ok⟩ ⟨0, 0, 0, 0, 0, 0, 0, 0, List.replicate 144 0⟩).wf = false
    ∧ (Instr.schedTableLoad ⟨0, 1, .ok⟩ 0 []).wf = false ∧ (Instr.schedTableLoad ⟨0, 1, .ok⟩ 0 (List.replicate 24 0)).wf = true
    ∧ (Instr.ckptCommit 0 0 false [] [] [4097]).wf = false := by decide +kernel

theorem test_wf_lengths : (Instr.mmioWr 0 0 3 []).wf = false ∧ (Instr.data 0 0 0 [] false).wf = false ∧ (Instr.data 0 0 0 (List.replicate 64 0) false).wf = true
    ∧ (Instr.sensorSample ⟨[], 0, 0⟩).wf = false ∧ (Instr.barometerLatch 0 []).wf = false ∧ (Instr.barometerLatch 0 (List.replicate 34 200)).wf = false
    ∧ (Instr.ageingTick [] []).wf = false ∧ (Instr.fwData 0 (List.replicate 1025 0)).wf = false := by decide +kernel

/-! Results that the spec's text and worked examples give -/

/-- What a command answers, where a test holds of the next state. -/
def after (i : Instr) (s : State) (f : State → Bool) : Bool :=
  match exec i s with
  | .next t => f t
  | _ => false

/-- 02_arithmetic, "Stochastic rounding to BF16": the word decides between 0x3F81 and 0x3F80; to nearest even it is 0x3F80. -/
theorem test_readout_bf16 :
    readAcc 1 0x0001008000000000 (-48) (some 0x3FFFFFFF) = (0x3F81, false) ∧ readAcc 1 0x0001008000000000 (-48) (some 0x40000000) = (0x3F80, false)
      ∧ readAcc 1 0x0001008000000000 (-48) none = (0x3F80, false) := by decide +kernel

/-- Table 2.5: one contribution at two anchors. -/
theorem test_contribution_anchors : anchored 5000 (-16) (-64) = 5000 * 2 ^ 48 ∧ anchored 5000 (-16) (-12) = 312 ∧ anchored (-5000) (-16) (-12) = -313 := by decide +kernel

/-- The generator's published vector for a key and counter of zeros (R43). -/
theorem test_philox_zero : philox (0, 0, 0, 0) 0 0 = (0x6627E8D5, 0xE169C58D, 0xBC57AC4C, 0x9B00DBD8) := by decide +kernel

/-- CRC-32C of the nine digits, the polynomial's published check value. -/
theorem test_crc32c : crc32c [0x31, 0x32, 0x33, 0x34, 0x35, 0x36, 0x37, 0x38, 0x39] = 0xE3069283 := by decide +kernel

/-- Table 3.4: the code lengths of its proportions, and its codes. -/
theorem test_code_lengths : codeLengths [8, 64, 32, 16, 8, 2, 1, 1, 0, 64, 32, 16, 8, 2, 1, 1] = [5, 2, 3, 4, 5, 7, 8, 8, 0, 2, 3, 4, 5, 7, 8, 8] := by decide +kernel

/-- 03_weft_format: −0.5, +0.5, +1.0 and −2.0 code as 01, 00, 100, 11110. -/
theorem test_codes :
    [9, 1, 2, 12].filterMap (fun s => ((canonCodes [5, 2, 3, 4, 5, 7, 8, 8, 0, 2, 3, 4, 5, 7, 8, 8]).find? (fun t => t.1 = s)).map (·.2))
      = [(1, 2), (0, 2), (4, 3), (30, 5)] := by decide +kernel

/-- 11_command_interface, "A step's entry and its completion": the entry's fields and the completion entry. -/
theorem test_step_entry :
    packArgs [(16, 17), (18, 256), (20, 0), (22, 0), (24, 66), (32, 100000), (40, 0x003000000000), (48, 0)]
        = BitVec.ofNat 384 (0x11 + 0x100 * 2 ^ 16 + 0x42 * 2 ^ 64 + 0x186A0 * 2 ^ 128 + 0x003000000000 * 2 ^ 192)
      ∧ cqEntry ⟨2, 0x0125, 0x40, false, false, true, 0, 0, 0, 0, 5⟩ 0 true 38 100000 256 0
        = [0x25, 1, 0, 1, 38, 0, 0x40, 0, 0xA0, 0x86, 1, 0, 0, 0, 0, 0, 0, 1, 0, 0, 0, 0, 0, 0, 0, 0, 0, 0, 0, 0, 0, 0] := by decide +kernel

/-- 17_address_map, "Reading a window counter from the host": CORE_WIN_STATE of window 3 of core 5. -/
theorem test_window_state :
    ((State.modCore live 5 (fun k => { k with wins := k.wins.set 3 { opened := true, base := 4096, len := 48, gen := 17 } })).setReg (blkCore 5) 0x0A50 3).view 0x15 0x0A58
      = 0x00000888000C1000 := by decide +kernel

/-- R225: SET writes the whole 64-bit immediate, and the engine goes on to the next instruction. -/
theorem test_set_imm64 : after (.set 0 .exec (ins 5 [(15, 16), (2 ^ 64 - 1, 64)]) .ok) (atInsn .exec (ins 5 [(15, 16), (2 ^ 64 - 1, 64)])) (fun t =>
    decide (t.cores[0].exe.rd 15 = 0xFFFFFFFFFFFFFFFF) && decide (t.cores[0].exe.pc = 1)) = true := by decide +kernel

/-- Table 14.1: a scratchpad slot that fails parity under SLOAD is class K with cause 0x100E, and the load is not made. -/
theorem test_spad_parity : after (.sload 0 .exec (ins 7 [(3, 16)]) .spad) (atInsn .exec (ins 7 [(3, 16)])) (fun t =>
    t.ctxs.any (fun x => decide (x.2.cause = 0x100E)) && t.cores[0].run.isNone) = true := by decide +kernel

/-- R216: S0 reads as 0, and a write of it is dropped. -/
theorem test_s0 : after (.set 0 .exec (ins 5 [(7, 64)]) .ok) (atInsn .exec (ins 5 [(7, 64)])) (fun t => decide (t.cores[0].exe.rd 0 = 0)) = true := by decide +kernel

/-- R300: a doorbell of the ring's size puts the pair in the error state. -/
theorem test_doorbell : after (.sqDoorbell 0 16) (ringAt .active) (fun t => decide (t.rings[0].st = .error) && decide (t.rings[0].err = 1)) = true
    ∧ after (.sqDoorbell 0 15) (ringAt .active) (fun t => decide (t.rings[0].sqTail = 15)) = true := by decide +kernel

/-- R306: a NOP completes with OK at the CQ's first entry. -/
theorem test_nop_completes : after (.cmdNop ⟨0, 1, .ok⟩) (asked (ringAt .active) 0x01 []) (fun t => t.taken.isEmpty && decide (t.rings[0].cqTail = 1)) = true := by decide +kernel

/-- R247: a link that trains goes on to HELLO. -/
theorem test_link_trains : after (.linkTrainDone 3) (linked .train) (fun t => decide (t.links[3].st = .hello)) = true := by decide +kernel

/-- R175: a PUT packet's line stands in the window, and the window counts it. -/
theorem test_put_packet :
    after (.putPacketRx { pkt 1 (BitVec.ofNat 32 (15 * 16 + 200 * 256)) (List.replicate 64 0xAB) with dst := 7, pseq := 0 })
      (onCore { wins := (Vector.replicate 16 {}).set 15 { opened := true, base := 12287, len := 1, gen := 200 } })
      (fun t => decide (t.cores[0].spadRd (64 * 12287) 64 = List.replicate 64 0xAB) && decide ((t.cores[0].win 15).count = 1)) = true := by decide +kernel

/-- R432: a main reset leaves the fuses. -/
theorem test_main_reset : after .mainResetEffect { live with fuses := { live.fuses with minSvn := 9 }, pwr := { live.pwr with entering := some (.pwrReset, 0) } }
    (fun t => decide (t.fuses.minSvn = 9) && decide (t.sec.boot = 0) && decide (t.vcl.st = .down)) = true := by decide +kernel

/-- R439's examples: VCL_TX_P[0] is at M2, its N ball at N2, VCL_TX_P[5] at AH2, and FAB13 lane 2 transmits on CK9 and CK10. -/
theorem test_ball_examples :
    columnCode 12 = ['M'] ∧ columnCode 27 = ['A', 'H'] ∧ columnCode 67 = ['C', 'K'] ∧
      ballUse ⟨12, 2⟩ = .laneP ⟨.vcl, 0, true⟩ ∧ ballUse ⟨13, 2⟩ = .laneN ⟨.vcl, 0, true⟩ ∧ ballUse ⟨27, 2⟩ = .laneP ⟨.vcl, 5, true⟩ ∧
      ballUse ⟨67, 9⟩ = .laneP ⟨.fab 13, 2, true⟩ ∧ ballUse ⟨67, 10⟩ = .laneN ⟨.fab 13, 2, true⟩ := by decide +kernel

end Sys2Proof.Tests
end

section
/-! O21: how accumulator words add up whatever the order of the contributions (R31 to R34), and what one block's contribution does to its bank. -/

namespace Sys2Proof.Machine

/-! The window and the marks (R32, R33, Table 2.4) -/

theorem excursion_eq_zero_iff {k : Int} : excursion k = 0 ↔ -2 ^ 109 < k ∧ k < 2 ^ 109 := by
  unfold excursion
  split
  · omega
  · split <;> omega

theorem excursion_le (k : Int) : excursion k ≤ 3 := by
  unfold excursion
  split
  · decide
  · split <;> decide

theorem markOf_markWord {m : Nat} (hpos : m ≠ 0) (hle : m ≤ 3) : markOf (markWord m) = m := by
  obtain rfl | rfl | rfl : m = 1 ∨ m = 2 ∨ m = 3 := by omega
  · rfl
  · rfl
  · rfl

/-- The marks are 2^126, -2^126 and -2^127, so a word of lesser magnitude is none of them. -/
theorem markOf_of_natAbs_toInt_lt {w : BitVec 128} (h : w.toInt.natAbs < 2 ^ 126) : markOf w = 0 := by
  have hpos : w ≠ 0x40000000000000000000000000000000#128 := fun hw => absurd (hw ▸ h) (by decide)
  have hneg : w ≠ 0x80000000000000000000000000000000#128 := fun hw => absurd (hw ▸ h) (by decide)
  have hboth : w ≠ 0xC0000000000000000000000000000000#128 := fun hw => absurd (hw ▸ h) (by decide)
  unfold markOf
  rw [if_neg hpos, if_neg hneg, if_neg hboth]

theorem toInt_ofInt_of_natAbs_lt {n : Int} (h : n.natAbs < 2 ^ 126) : (BitVec.ofInt 128 n).toInt = n :=
  BitVec.toInt_ofInt_eq_self (by decide) (by omega) (by omega)

theorem markOf_ofInt {n : Int} (h : n.natAbs < 2 ^ 126) : markOf (BitVec.ofInt 128 n) = 0 :=
  markOf_of_natAbs_toInt_lt ((toInt_ofInt_of_natAbs_lt h).symm ▸ h)

/-! One contribution -/

/-- The word that marks `m` and a sum `n` leave: the sum while nothing is marked, else the mark. -/
def wordOf (m : Nat) (n : Int) : BitVec 128 := if m = 0 then BitVec.ofInt 128 n else markWord m

/-- What a contribution (partial, exponent, non-finite) marks under the anchor `a`. -/
def markIn (a : Int) (k : Int × Int × Bool) : Nat := if k.2.2 then 3 else excursion (anchored k.1 k.2.1 a)

theorem markIn_le (a : Int) (k : Int × Int × Bool) : markIn a k ≤ 3 := by
  unfold markIn
  split
  · exact Nat.le_refl 3
  · exact excursion_le _

theorem markIn_eq_zero_iff {a : Int} {k : Int × Int × Bool} : markIn a k = 0 ↔ k.2.2 = false ∧ excursion (anchored k.1 k.2.1 a) = 0 := by
  unfold markIn
  cases k.2.2 with
  | true =>
    rw [if_pos rfl]
    exact ⟨fun h => absurd h (by decide), fun h => absurd h.1.symm Bool.false_ne_true⟩
  | false =>
    rw [if_neg Bool.false_ne_true]
    exact ⟨fun h => ⟨rfl, h⟩, fun h => h.2⟩

/-- A contribution that marks nothing has magnitude below 2^109. -/
theorem natAbs_anchored_lt {a : Int} {k : Int × Int × Bool} (h : markIn a k = 0) : (anchored k.1 k.2.1 a).natAbs < 2 ^ 109 := by
  have := excursion_eq_zero_iff.mp (markIn_eq_zero_iff.mp h).2
  omega

theorem wordOf_zero (n : Int) : wordOf 0 n = BitVec.ofInt 128 n := rfl

theorem wordOf_marked {m : Nat} (h : m ≠ 0) (n : Int) : wordOf m n = markWord m := if_neg h

theorem markOf_wordOf {m : Nat} {n : Int} (hm : m ≤ 3) (hn : m = 0 → n.natAbs < 2 ^ 126) : markOf (wordOf m n) = m := by
  by_cases h : m = 0
  · subst h
    rw [wordOf_zero, markOf_ofInt (hn rfl)]
  · rw [wordOf_marked h, markOf_markWord h hm]

theorem or_le_three {m x : Nat} (hm : m ≤ 3) (hx : x ≤ 3) : m ||| x ≤ 3 :=
  Nat.le_of_lt_succ (Nat.or_lt_two_pow (n := 2) (Nat.lt_succ_of_le hm) (Nat.lt_succ_of_le hx))

theorem or_three {m : Nat} (hm : m ≤ 3) : m ||| 3 = 3 := by
  obtain rfl | rfl | rfl | rfl : m = 0 ∨ m = 1 ∨ m = 2 ∨ m = 3 := by omega
  all_goals rfl

/-- A contribution joins its mark to the marks and its value to the sum (R33): what it leaves depends on no order. -/
theorem contribute_wordOf {m : Nat} {n a : Int} (k : Int × Int × Bool) (hm : m ≤ 3) (hn : m = 0 → n.natAbs < 2 ^ 126) :
    contribute (wordOf m n) k.1 k.2.1 a k.2.2 = wordOf (m ||| markIn a k) (n + anchored k.1 k.2.1 a) := by
  unfold contribute markIn
  simp only [markOf_wordOf hm hn]
  cases k.2.2 with
  | true =>
    rw [if_pos rfl, if_pos rfl, or_three hm, wordOf_marked (by decide)]
  | false =>
    rw [if_neg Bool.false_ne_true, if_neg Bool.false_ne_true]
    by_cases hx : excursion (anchored k.1 k.2.1 a) = 0
    · rw [if_pos hx, hx, Nat.or_zero]
      by_cases h0 : m = 0
      · rw [if_pos h0, h0, wordOf_zero, wordOf_zero, BitVec.ofInt_add]
      · rw [if_neg h0, wordOf_marked h0, wordOf_marked h0]
    · rw [if_neg hx, wordOf_marked (fun h => hx (Nat.or_eq_zero_iff.mp h).2)]

/-! A list of contributions -/

/-- The marks of a list of contributions joined to `m`. -/
def marksIn (a : Int) (m : Nat) (l : List (Int × Int × Bool)) : Nat := (l.map (markIn a)).foldl (· ||| ·) m

/-- The sum of a list of contributions. -/
def sumIn (a : Int) (l : List (Int × Int × Bool)) : Int := (l.map (fun k => anchored k.1 k.2.1 a)).sum

theorem marksIn_nil (a : Int) (m : Nat) : marksIn a m [] = m := rfl

theorem marksIn_cons (a : Int) (m : Nat) (k : Int × Int × Bool) (l : List (Int × Int × Bool)) :
    marksIn a m (k :: l) = marksIn a (m ||| markIn a k) l := rfl

theorem sumIn_nil (a : Int) : sumIn a [] = 0 := rfl

theorem sumIn_cons (a : Int) (k : Int × Int × Bool) (l : List (Int × Int × Bool)) :
    sumIn a (k :: l) = anchored k.1 k.2.1 a + sumIn a l := rfl

/-- Contributions added one after another leave the word of their marks and their sum, while the bound on the count keeps an unmarked
sum from reaching a mark: 131,072 values of magnitude below 2^109 stay below 2^126 (R34). -/
theorem foldl_contribute {a : Int} (l : List (Int × Int × Bool)) {m : Nat} {n : Int} (hm : m ≤ 3)
    (hn : m = 0 → n.natAbs + l.length * (2 ^ 109 - 1) < 2 ^ 126) :
    l.foldl (fun w k => contribute w k.1 k.2.1 a k.2.2) (wordOf m n) = wordOf (marksIn a m l) (n + sumIn a l) := by
  induction l generalizing m n with
  | nil => rw [List.foldl_nil, marksIn_nil, sumIn_nil, Int.add_zero]
  | cons k l ih =>
    rw [List.length_cons] at hn
    have hroom : m = 0 → n.natAbs < 2 ^ 126 := fun h0 => by have := hn h0; omega
    have hstep : m ||| markIn a k = 0 → (n + anchored k.1 k.2.1 a).natAbs + l.length * (2 ^ 109 - 1) < 2 ^ 126 := fun h => by
      obtain ⟨h0, hk⟩ := Nat.or_eq_zero_iff.mp h
      have := hn h0
      have := natAbs_anchored_lt hk
      have := Int.natAbs_add_le n (anchored k.1 k.2.1 a)
      omega
    rw [List.foldl_cons, contribute_wordOf k hm hroom, ih (or_le_three hm (markIn_le a k)) hstep, marksIn_cons, sumIn_cons, Int.add_assoc]

theorem foldl_contribute_zero {a : Int} {l : List (Int × Int × Bool)} (hl : l.length ≤ 131072) :
    l.foldl (fun w k => contribute w k.1 k.2.1 a k.2.2) 0 = wordOf (marksIn a 0 l) (sumIn a l) := by
  have hbound : (0 : Int).natAbs + l.length * (2 ^ 109 - 1) < 2 ^ 126 := by omega
  have h := foldl_contribute (a := a) l (Nat.zero_le 3) (fun _ => hbound)
  rwa [Int.zero_add] at h

theorem marksIn_perm {a : Int} {m : Nat} {l l' : List (Int × Int × Bool)} (hp : l.Perm l') : marksIn a m l = marksIn a m l' :=
  (hp.map _).foldl_eq' (fun x _ y _ z => by rw [Nat.or_assoc, Nat.or_comm x y, ← Nat.or_assoc]) m

theorem sumIn_perm {a : Int} {l l' : List (Int × Int × Bool)} (hp : l.Perm l') : sumIn a l = sumIn a l' :=
  (hp.map _).foldr_eq' (fun x _ y _ z => Int.add_left_comm y x z) 0

/-- The same word in whatever order the contributions are added (R34). -/
theorem foldl_contribute_perm {a : Int} {l m : List (Int × Int × Bool)} (hl : l.length ≤ 131072) (hp : l.Perm m) :
    l.foldl (fun w k => contribute w k.1 k.2.1 a k.2.2) 0 = m.foldl (fun w k => contribute w k.1 k.2.1 a k.2.2) 0 := by
  rw [foldl_contribute_zero hl, foldl_contribute_zero (hp.length_eq ▸ hl), marksIn_perm hp, sumIn_perm hp]

theorem marksIn_eq_zero {a : Int} {l : List (Int × Int × Bool)} (h : ∀ k ∈ l, markIn a k = 0) : marksIn a 0 l = 0 := by
  induction l with
  | nil => rfl
  | cons k l ih =>
    obtain ⟨hk, hl⟩ := List.forall_mem_cons.mp h
    rw [marksIn_cons, hk]
    exact ih hl

theorem natAbs_sumIn_le {a : Int} {l : List (Int × Int × Bool)} (h : ∀ k ∈ l, markIn a k = 0) :
    (sumIn a l).natAbs ≤ l.length * (2 ^ 109 - 1) := by
  induction l with
  | nil => exact Nat.zero_le _
  | cons k l ih =>
    obtain ⟨hk, hl⟩ := List.forall_mem_cons.mp h
    have hrest := ih hl
    have hone := natAbs_anchored_lt hk
    have htri := Int.natAbs_add_le (anchored k.1 k.2.1 a) (sumIn a l)
    rw [sumIn_cons, List.length_cons]
    omega

/-- Contributions that mark nothing leave their exact sum, unmarked. -/
theorem foldl_contribute_unmarked {a : Int} {l : List (Int × Int × Bool)} (hl : l.length ≤ 131072)
    (h : ∀ k ∈ l, k.2.2 = false ∧ excursion (anchored k.1 k.2.1 a) = 0) :
    (l.foldl (fun w k => contribute w k.1 k.2.1 a k.2.2) 0).toInt = (l.map (fun k => anchored k.1 k.2.1 a)).sum ∧
      markOf (l.foldl (fun w k => contribute w k.1 k.2.1 a k.2.2) 0) = 0 := by
  have hz : ∀ k ∈ l, markIn a k = 0 := fun k hk => markIn_eq_zero_iff.mpr (h k hk)
  have hsum : (sumIn a l).natAbs < 2 ^ 126 := by
    have := natAbs_sumIn_le hz
    omega
  rw [foldl_contribute_zero hl, marksIn_eq_zero hz, wordOf_zero]
  exact ⟨toInt_ofInt_of_natAbs_lt hsum, markOf_ofInt hsum⟩

/-! The readout of a mark (R32, R40) -/

/-- The largest finite value of its sign for one excursion, the canonical NaN for both. -/
theorem readAcc_markWord {ofmt : Nat} (hf : ofmt ≠ 4) (a : Int) (u : Option Nat) :
    readAcc ofmt (markWord 1) a u = ((outFmt ofmt).maxBits, false) ∧
      readAcc ofmt (markWord 2) a u = (withSign (outFmt ofmt) true (outFmt ofmt).maxBits, false) ∧
      readAcc ofmt (markWord 3) a u = ((outFmt ofmt).qnan, false) := by
  unfold readAcc
  rw [if_neg hf, if_neg hf, if_neg hf]
  exact ⟨rfl, rfl, rfl⟩

/-! A bank's count (R34, R35) -/

theorem initBank_count (k : Core) (j : Job) : (initBank k j).1.count = if j.biasEn then 1 else 0 := by
  unfold initBank
  cases j.biasEn <;> rfl

/-! Reading a staged half block leaves the banks -/

theorem slotRead_banks {k k' : Core} {mode n : Nat} (h : k.slotRead mode n = some k') : k'.banks = k.banks := by
  unfold Core.slotRead at h
  split at h
  · cases h; rfl
  · split at h
    · cases h
    · cases h
      split <;> rfl

theorem readOn_go_banks (mode off n fuel : Nat) (k : Core) (buf : Bytes) : (Core.readOn.go mode off n fuel k buf).1.banks = k.banks := by
  induction fuel generalizing k buf with
  | zero => rfl
  | succ fuel ih =>
    unfold Core.readOn.go
    split
    · rfl
    · dsimp only
      split
      · rename_i k' hk
        exact (ih k' _).trans (slotRead_banks hk)
      · rfl

theorem readOn_banks (k : Core) (mode off n : Nat) (buf : Bytes) : (k.readOn mode off n buf).1.banks = k.banks := readOn_go_banks ..

theorem readHalf_banks (k : Core) (j : Job) (t : Staging) (block : Nat) : (k.readHalf j t block).1.banks = k.banks := by
  unfold Core.readHalf
  dsimp only
  split
  · exact readOn_banks ..
  · exact (readOn_banks ..).trans (readOn_banks ..)

theorem feedHalf_banks (k : Core) (j : Job) (block : Nat) : (k.feedHalf j block).1.banks = k.banks := by
  unfold Core.feedHalf
  split
  · split
    · exact readHalf_banks ..
    · rfl
  · rfl

theorem feedHalf_diag (k : Core) (j : Job) (block : Nat) : (k.feedHalf j block).2.diag = j.diag := by
  unfold Core.feedHalf
  split
  · split <;> rfl
  · rfl

/-! One block's contribution -/

theorem actReady_of_slots {k : Core} {j : Job} {block : Nat} (hact : (actSlotsOf j.afmt j.actSlot block j.m).all k.isFull = true)
    (hdiag : j.diag = true → (actSlotsOf 0 j.ySlot block j.m).all k.isFull = true) : k.actReady j block = true := by
  unfold Core.actReady
  cases hd : j.diag with
  | true => rw [hact, hdiag hd]; rfl
  | false => rw [hact]; rfl

theorem exec_blockContribution (c : Fin 16) (bank : Fin 2) (block : Nat) (pass : Fin 2) (chk : Check) (s : State) :
    exec (.blockContribution c bank block pass chk) s = execBlockContribution c bank block pass chk s := rfl

/-- A pass of a block whose operands are there is added and counted, or, where the bank has its 131,072 contributions, is not added: KLIMIT
is set and the context faults (R34). -/
theorem blockContribution_counts_or_faults {c : Fin 16} {bank : Fin 2} {s : State} {j : Job} {block : Nat} {pass : Fin 2}
    (hrun : s.stopped = false) (hsave : s.saving c = false)
    (hjob : s.cores[c].arrayQ.find? (fun j => j.started && j.bank = bank && j.feeds) = some j)
    (hgate : s.cores[c].gate = .enabled) (hpass : pass.val < j.passes) (hblock : block < j.k / 32)
    (hdone : j.done.contains (block, pass.val) = false) (hact : (actSlotsOf j.afmt j.actSlot block j.m).all s.cores[c].isFull = true)
    (hops : if j.diag then (actSlotsOf 0 j.ySlot block j.m).all s.cores[c].isFull = true
      else ((s.cores[c].feedHalf j block).2.weights block).isSome = true) :
    (s.cores[c].banks[bank].count < 131072 → ∃ u n exc bad, exec (.blockContribution c bank block pass .ok) s = .next (State.accFlags u c n exc bad) ∧
      u.cores[c].banks[bank].count = s.cores[c].banks[bank].count + 1) ∧
    (131072 ≤ s.cores[c].banks[bank].count → ∃ u, exec (.blockContribution c bank block pass .ok) s =
      .next ((State.stick u (blkCore c) 0x0810 16).faultOn c (blkCore c) 0x1015) ∧ u.cores[c].banks = s.cores[c].banks) := by
  have hready : s.cores[c].actReady j block = true := actReady_of_slots hact (fun hd => by rwa [if_pos hd] at hops)
  have hcol : ∃ col, (if j.diag then some (fun _ => mxBlk 0 []) else (s.cores[c].feedHalf j block).2.weights block) = some col := by
    cases hd : j.diag with
    | true => exact ⟨_, if_pos rfl⟩
    | false =>
      rw [hd] at hops
      exact Option.isSome_iff_exists.mp hops
  obtain ⟨col, hcol⟩ := hcol
  rw [← feedHalf_diag s.cores[c] j block] at hcol
  have hgo : (s.stopped || decide (s.cores[c].gate ≠ .enabled) || decide (j.passes ≤ pass.val) || decide (j.k / 32 ≤ block)
      || j.done.contains (block, pass.val) || !s.cores[c].actReady j block || (s.saving c && !s.cores[c].blockBegun j block)) = false := by
    simp only [hrun, hgate, hready, hsave, hdone, Nat.not_le.mpr hpass, Nat.not_le.mpr hblock, ne_eq, not_true_eq_false, decide_false,
      Bool.not_true, Bool.false_and, Bool.or_false]
  have hbanks := feedHalf_banks s.cores[c] j block
  rw [exec_blockContribution]
  unfold execBlockContribution
  dsimp only
  rw [hjob]
  dsimp only
  rw [hgo]
  generalize s.cores[c].feedHalf j block = kj at *
  simp only [ne_eq, not_true_eq_false, if_false, Bool.false_eq_true, hcol]
  refine ⟨fun hlt => ?_, fun hge => ?_⟩
  · rw [if_neg (by omega)]
    refine ⟨_, _, _, _, rfl, ?_⟩
    simp only [Fin.getElem_fin, State.modCore_self, Vector.getElem_set_self]
  · rw [if_pos hge]
    refine ⟨_, rfl, ?_⟩
    split
    · simp only [Fin.getElem_fin, State.count_cores, State.modCore_self] at hbanks ⊢
      exact hbanks
    · simp only [Fin.getElem_fin, State.modCore_self] at hbanks ⊢
      exact hbanks

end Sys2Proof.Machine

open Sys2Proof Sys2Proof.Machine

/-- Settles O21: an accumulator word is a function of the contributions' joined marks and of their sum, and neither depends on the order. -/
theorem accumulationIsOrderFree : Obligations.AccumulationIsOrderFree := by
  unfold Obligations.AccumulationIsOrderFree
  refine ⟨fun a l m => foldl_contribute_perm, fun a l => foldl_contribute_unmarked, initBank_count, ?_, ?_, ?_⟩
  · intro c bank s j block pass
    exact blockContribution_counts_or_faults
  · intro ofmt a u hf big nan sign hfmt
    obtain ⟨hpos, hneg, hboth⟩ := readAcc_markWord (Nat.ne_of_lt hf) a u
    rw [hpos, hneg, hboth]
    obtain rfl | rfl | rfl | rfl : ofmt = 0 ∨ ofmt = 1 ∨ ofmt = 2 ∨ ofmt = 3 := by omega
    all_goals
      cases hfmt
      exact ⟨rfl, rfl, rfl⟩
  · exact fun n hlo hhi => markOf_ofInt (by omega)

end

section
/-! O25: what a PUT packet accepted by a live window does (R175), and the saved contexts that the sync unit notes as able to go on when it is accepted (R345). -/

namespace Sys2Proof.Machine

variable {s t : State}

/-! What an arrival serves -/

@[simp] theorem State.noteMet_syn (s : State) : s.noteMet.syn = s.syn := rfl

/-- Where no engine has registered a wait, serving the waits only notes the saved contexts. -/
theorem State.serveWaits_of_no_waits (h : s.syn.waits = []) : s.serveWaits = s.noteMet := by
  have hsyn : { s.syn with waits := [] } = s.syn := by rw [← h]
  simp only [State.serveWaits, State.noteMet_syn, h, List.filter_nil, forAll_nil, serveTakes, hsyn]
  rfl

/-- An empty table of held signals fires nothing. -/
theorem State.fireHeld_of_no_held (h : s.syn.held = []) : s.fireHeld = s := by
  have hsyn : { s.syn with held := [] } = s.syn := by rw [← h]
  simp only [State.fireHeld, h, List.length_nil, State.fireHeld.go, List.map_nil, hsyn]

/-! Saved contexts that can go on (R345) -/

/-- What a saved context's waits need lies in the sync unit. -/
theorem State.savedMet_congr (h : t.syn = s.syn) (id : Nat) (x : Ctx) (w : SyncWait) : t.savedMet id x w = s.savedMet id x w := by
  unfold State.savedMet
  generalize w.shift x _ = v
  obtain ⟨c, e, kind⟩ := v
  cases kind <;> simp only [State.waitMet, State.obj, h]

/-- A saved context with a wait that holds, and not noted so far, is noted. -/
theorem State.noteMet_ctxs_ne {id : Nat} {x : Ctx} {m : Image} {w : SyncWait} (hx : (id, x) ∈ s.ctxs) (himg : x.img = some m)
    (hmet : x.met = false) (hw : w ∈ m.waits) (hsaved : s.savedMet id x w = true) : s.noteMet.ctxs ≠ s.ctxs := by
  intro heq
  have hsame := List.map_inj_left.mp (heq.trans (List.map_id s.ctxs).symm) (id, x) hx
  have hany : m.waits.any (s.savedMet id x) = true := List.any_eq_true.mpr ⟨w, hw, hsaved⟩
  simp only [himg, hmet, hany, Option.isNone_some, Bool.false_or, Bool.true_or, Bool.false_eq_true, if_false, Option.map_some, Option.getD_some,
    id_eq, Prod.mk.injEq, true_and] at hsame
  have hnoted : true = x.met := congrArg Ctx.met hsame
  cases hnoted.trans hmet

/-! A PUT packet at a live window (R175) -/

/-- The state in which a live window's core has stored and counted a PUT packet. -/
def State.putStored (s : State) (p : Packet) : State :=
  let c : Fin 16 := Fin.ofNat 16 (fld p.word 0 4)
  let v := s.cores[c].win (fld p.word 4 4)
  let lines := p.payload.length / 64
  (s.modCore c (fun k => (k.putLines (v.base.toNat + fld p.word 16 14) p.payload).setWin (fld p.word 4 4)
    { v with count := v.count + BitVec.ofNat 32 lines })).count (blkCore c) 0x0A38 lines

theorem State.putStored_syn (s : State) (p : Packet) : (s.putStored p).syn = s.syn := by
  simp only [State.putStored, State.count_syn, State.modCore_syn]

theorem State.putStored_ctxs (s : State) (p : Packet) : (s.putStored p).ctxs = s.ctxs := by
  simp only [State.putStored, State.count_ctxs, State.modCore_ctxs]

section
variable {p : Packet} {x : Nat}
  (hwin : s.winAt (Fin.ofNat 16 (fld p.word 0 4)) (fld p.word 4 4) (BitVec.ofNat 8 (fld p.word 8 8)) = .live x)
  (hfit : fld p.word 16 14 + p.payload.length / 64 ≤ (s.cores[Fin.ofNat 16 (fld p.word 0 4)].win (fld p.word 4 4)).len.toNat)
include hwin hfit

/-- An accepted packet is stored and counted, and the waits and held signals that it may satisfy are served. -/
theorem State.putArrives_live : s.putArrives p = (0, (s.putStored p).serveWaits.fireHeld) := by
  simp only [State.putArrives, hwin, if_neg (Nat.not_lt.mpr hfit), State.putStored]

variable (hwaits : s.syn.waits = []) (hheld : s.syn.held = [])
include hwaits hheld

/-- Where nothing that runs waits, an accepted packet leaves the contexts as the sync unit notes them. -/
theorem State.putArrives_live_ctxs : (s.putArrives p).2.ctxs = (s.putStored p).noteMet.ctxs := by
  have hsyn := s.putStored_syn p
  rw [State.putArrives_live hwin hfit, State.serveWaits_of_no_waits (hsyn ▸ hwaits),
    State.fireHeld_of_no_held ((State.noteMet_syn _).trans hsyn ▸ hheld)]

/-- An accepted packet changes the record of a saved context that could go on before it and was not noted so far. -/
theorem State.putArrives_notes_saved {id : Nat} {y : Ctx} {m : Image} {w : SyncWait} (hy : (id, y) ∈ s.ctxs) (himg : y.img = some m)
    (hmet : y.met = false) (hw : w ∈ m.waits) (hsaved : s.savedMet id y w = true) : (s.putArrives p).2.ctxs ≠ s.ctxs := by
  rw [State.putArrives_live_ctxs hwin hfit hwaits hheld, ← s.putStored_ctxs p]
  exact State.noteMet_ctxs_ne ((s.putStored_ctxs p).symm ▸ hy) himg hmet hw ((State.savedMet_congr (s.putStored_syn p) id y w).trans hsaved)

end

/-! The refuting state -/

/-- A context of partition 0 with objects of its own, resident and without work. -/
def residentCtx : Ctx :=
  { st := .resident, part := 0, be := false, model := 0xFFFF, epoch := 0, oldEpoch := none, pinUntil := 0, attr := 0, seed := 0, startStep := 0
    nextStep := 0, armed := none, regions := [(0x300000000, 4096)], prog := some ⟨[], [], [], 16, 16, [], 0, []⟩, queue := [], imgAt := .none
    img := none, cslot := 0, cflagBase := 0, ctrBase := 0, barBase := 0, ghqs := [], interval := 0, since := 0, partner := none, replay := none
    pwrCfg := none, cause := 0 }

/-- Context 8's image: core 0's execute engine waits until the context's counter 0 has reached 1. -/
def counterImage : Image := { cores := [({ exe := { st := .lull } }, [])], waits := [⟨0, .exec, .counter 8960 1⟩] }

/-- Context 8, saved in HBM; its counters are bound from counter 16 of the device on. -/
def counterCtx : Ctx := { residentCtx with imgAt := .hbm, img := some counterImage, imgBase := imagesBase, cslot := 1, cflagBase := 16, ctrBase := 16 }

/-- Context 7 runs on core 0, its window 15 open in generation 200, while context 8 is resident and its counter 0 stands at 1: its saved wait
holds, and no event since it became resident has had the sync unit note it. -/
def unnotedState : State := { State.reset with
  cores := State.reset.cores.set 0 { run := some ⟨7, none⟩, wins := (Vector.replicate 16 {}).set 15 { opened := true, len := 1, gen := 200 } }
  syn := { objs := [(8976, BitVec.ofNat 64 (objHead 0 1 2 + 1))] }
  ctxs := [(7, { residentCtx with st := .running }), (8, counterCtx)]
  parts := State.reset.parts.set 0 { cores := 16, ringMib := 2048, running := some 7 } }

/-- A PUT packet of one line for window 15 of core 0, generation 200. -/
def onePut : Packet := ⟨7, 8, 0, 0, 1, 0, 0, BitVec.ofNat 32 (15 * 16 + 200 * 256), List.replicate 64 0⟩

end Sys2Proof.Machine

open Sys2Proof Sys2Proof.Machine

/-- Refutes O25: a packet accepted for a running context's window marks another context, saved with a wait that held before, as able to go on
(R345), so the contexts do not all stay as they were. -/
theorem not_putStoresInItsWindow : ¬ Obligations.PutStoresInItsWindow := by
  unfold Obligations.PutStoresInItsWindow
  intro h
  have hwin : unnotedState.winAt (Fin.ofNat 16 (fld onePut.word 0 4)) (fld onePut.word 4 4) (BitVec.ofNat 8 (fld onePut.word 8 8)) = .live 7 := by
    decide +kernel
  have hfit : fld onePut.word 16 14 + onePut.payload.length / 64
      ≤ (unnotedState.cores[Fin.ofNat 16 (fld onePut.word 0 4)].win (fld onePut.word 4 4)).len.toNat := by decide +kernel
  have hsaved : unnotedState.savedMet 8 counterCtx ⟨0, .exec, .counter 8960 1⟩ = true := by decide +kernel
  obtain ⟨-, -, hlive, -, -⟩ := h unnotedState onePut _ _ _ _ rfl rfl rfl rfl
  obtain ⟨-, -, -, -, -, -, hctxs, -⟩ := hlive 7 hwin rfl rfl hfit
  exact State.putArrives_notes_saved hwin hfit rfl rfl (List.mem_cons_of_mem _ List.mem_cons_self) rfl rfl List.mem_cons_self hsaved hctxs

end

section
/-! O14: the physical object that a program index names (R188), and what a sync instruction does where the index names one and where it names none
(R192 to R204, R230, R231, R456). -/

namespace Sys2Proof.Machine

/-! The kinds by program index (Table 7.1) -/

theorem objKind_pipe {i : Nat} (h : i < 768) : objKind i = .pipe := if_pos h

theorem objKind_flag {n : Nat} (h : n < 8192) : objKind (768 + n) = .flag := by
  rw [objKind, if_neg (by omega), if_pos (by omega)]

theorem objKind_counter {n : Nat} (h : n < 7168) : objKind (8960 + n) = .counter := by
  rw [objKind, if_neg (by omega), if_neg (by omega), if_pos (by omega)]

theorem objKind_barrier (n : Nat) : objKind (16128 + n) = .barrier := by
  rw [objKind, if_neg (by omega), if_neg (by omega), if_neg (by omega)]

/-! R188's table -/

section
variable {x : Ctx} {g : Program} (f p : Nat)

theorem translate_pipe {i : Nat} (h : i < 768) : translate x f p i = if i / 48 < p then some (48 * (f + i / 48) + i % 48) else none := by
  rw [translate, objKind_pipe h]

theorem translate_flag {n : Nat} (hg : x.prog = some g) (h : n < 8192) :
    translate x f p (768 + n) = if n < g.cflags then some (768 + x.cflagBase + n) else none := by
  simp only [translate, objKind_flag h, hg, Nat.add_sub_cancel_left]

theorem translate_counter {n : Nat} (hg : x.prog = some g) (h : n < 7168) :
    translate x f p (8960 + n) = if n < g.ctrs then some (8960 + x.ctrBase + n) else none := by
  simp only [translate, objKind_counter h, hg, Nat.add_sub_cancel_left]

theorem translate_barrier {n : Nat} (hg : x.prog = some g) (h : n < 256) :
    translate x f p (16128 + n) = if n < g.bars.length then some (16128 + x.barBase + n) else none := by
  have hi : decide (16128 + n < 16384) = true := decide_eq_true (by omega)
  simp only [translate, objKind_barrier, hg, Nat.add_sub_cancel_left, hi, Bool.true_and, decide_eq_true_eq]

end

section
variable {s : State} {c : Fin 16} {i : Nat}

/-- A side task's indices are those of its own core, a rim step's those of its partition. -/
theorem State.translateOn_of_run {r : CoreRun} {x : Ctx} (hrun : s.cores[c].run = some r) (hctx : s.ctx? r.ctx = some x) :
    s.translateOn c i = if r.task.isSome then translate x c.val 1 i else translate x s.parts[x.part].first s.parts[x.part].cores i := by
  simp only [State.translateOn, hrun, hctx]

theorem State.ctxOn_of_run {r : CoreRun} (hrun : s.cores[c].run = some r) : s.ctxOn c = some r.ctx := congrArg (Option.map CoreRun.ctx) hrun

/-- A descriptor's completion on an index out of range faults its context when it takes effect. -/
theorem State.setFlagOn_of_untranslated (h : s.translateOn c i = none) : s.setFlagOn c i = s.syncFault (s.ctxOn c) 1 0x0203 := by
  simp only [State.setFlagOn, h]

end

/-! The kinds that an instruction may name (R198) -/

/-- FSET and FCLR name every kind but a barrier. -/
theorem kindOk_fset_fclr {k : ObjKind} (h : k ≠ .barrier) : kindOk 0x20 k = true ∧ kindOk 0x21 k = true := by
  cases k with
  | barrier => exact absurd rfl h
  | pipe | flag | counter => exact ⟨rfl, rfl⟩

theorem kindOk_fwait {k : ObjKind} (h : k = .pipe ∨ k = .flag) : kindOk 0x22 k = true := by
  obtain rfl | rfl := h <;> rfl

/-! The object of a sync instruction -/

theorem within_natCast {n : Nat} {hi : Int} (h : (n : Int) ≤ hi) : within n 0 hi = true := by
  rw [within, decide_eq_true (Int.natCast_nonneg n), decide_eq_true h, Bool.and_self]

section
variable {s : State} {c : Fin 16} {e : Eng} {w : Insn} {n : Nat} (hn : (s.eng c e).sum w 16 14 30 = (n : Int)) (hlt : n < 16384)
include hn hlt

theorem State.syncInsn_of_untranslated (body : Nat → State → State) (ht : s.translateOn c n = none) :
    s.syncInsn c e w body = s.syncFault (s.ctxOn c) 1 0x0203 := by
  have hin : within (n : Int) 0 16383 = true := within_natCast (by omega)
  simp only [State.syncInsn, hn, hin, Bool.not_true, Bool.false_eq_true, if_false, Int.toNat_natCast, ht]

theorem State.syncInsn_of_translated (body : Nat → State → State) {i : Nat} (ht : s.translateOn c n = some i)
    (hk : kindOk (opcodeOf w) (objKind i) = true) : s.syncInsn c e w body = body i s := by
  have hin : within (n : Int) 0 16383 = true := within_natCast (by omega)
  simp only [State.syncInsn, hn, hin, Bool.not_true, Bool.false_eq_true, if_false, Int.toNat_natCast, ht, hk, if_true]

end

/-! What each instruction does in the state in which it acts -/

section
variable {c : Fin 16} {w : Insn} {chk : Check} {s u : State}

theorem exec_fset {e : Eng} (h : s.actsAt c e w 0x20 chk = some u) :
    exec (.fset c e w chk) s = .next (u.syncInsn c e w (fun i t => (t.doneNow c e w).post c e .set i)) :=
  congrArg Host.Outcome.next (issue_actsAt _ h)

theorem exec_fclr {e : Eng} (h : s.actsAt c e w 0x21 chk = some u) :
    exec (.fclr c e w chk) s = .next (u.syncInsn c e w (fun i t => (t.doneNow c e w).post c e .clear i)) :=
  congrArg Host.Outcome.next (issue_actsAt _ h)

theorem exec_fwait {e : Eng} (h : s.actsAt c e w 0x22 chk = some u) :
    exec (.fwait c e w chk) s = .next (u.syncInsn c e w (fun i t =>
      if e = .exec && !t.cores[c].posted.isEmpty then t else t.register c e (if bit w 34 then .flagTest i else .flagTake i))) :=
  congrArg Host.Outcome.next (issue_actsAt _ h)

theorem exec_cwait_counter (h : s.actsAt c .fetch w 0x23 chk = some u) (hw : bit w 34 = false) :
    exec (.cwait c w chk) s = .next (u.syncInsn c .fetch w (fun i t =>
      t.register c .fetch (.counter i (BitVec.ofInt 32 ((u.eng c .fetch).sum w 64 32 35))))) := by
  refine congrArg Host.Outcome.next ((issue_actsAt _ h).trans ?_)
  rw [hw]
  rfl

theorem exec_cwait_window (h : s.actsAt c .fetch w 0x23 chk = some u) (hw : bit w 34 = true) {n : Nat}
    (hn : (u.eng c .fetch).sum w 16 14 30 = (n : Int)) (hlt : n < 16) :
    exec (.cwait c w chk) s = .next (u.register c .fetch (.window (Fin.ofNat 16 n) (BitVec.ofInt 32 ((u.eng c .fetch).sum w 64 32 35)))) := by
  have hin : within (n : Int) 0 15 = true := within_natCast (by omega)
  refine congrArg Host.Outcome.next ((issue_actsAt _ h).trans ?_)
  simp only [hw, hn, hin, Bool.not_true, Bool.false_eq_true, if_true, if_false, Int.toNat_natCast]

theorem exec_consume (h : s.actsAt c .fetch w 0x24 chk = some u) :
    exec (.consume c w chk) s = .next (u.syncInsn c .fetch w (fun i t =>
      if fld (t.obj i) 0 32 < fld w 64 16 then t.syncFault (t.ctxOn c) 0 0x0202
      else ((t.setObj i (withFld (t.obj i) 0 32 (fld (t.obj i) 0 32 - fld w 64 16))).serveWaits).advance c .fetch)) :=
  congrArg Host.Outcome.next (issue_actsAt _ h)

theorem exec_barrier (h : s.actsAt c .fetch w 0x26 chk = some u) :
    exec (.barrier c w chk) s = .next (u.syncInsn c .fetch w (fun i t =>
      if bit w 34 then
        if ((t.barArrive i (t.ctxOn c)).cores[c].run).isNone then t.barArrive i (t.ctxOn c)
        else (t.barArrive i (t.ctxOn c)).register c .fetch (.barrier i (bit (t.obj i) 35))
      else (t.advance c .fetch).post c .fetch .arrive i)) :=
  congrArg Host.Outcome.next (issue_actsAt _ h)

end

/-! A sync instruction on an index that names no object (R188) -/

section
variable {c : Fin 16} {e : Eng} {w : Insn} {chk : Check} {s u : State} {n : Nat} (hn : (u.eng c e).sum w 16 14 30 = (n : Int)) (hlt : n < 16384)
  (ht : u.translateOn c n = none)
include hn hlt ht

/-- FSET, FCLR and FWAIT of either engine. -/
theorem flagInsns_of_untranslated :
    (s.actsAt c e w 0x20 chk = some u → exec (.fset c e w chk) s = .next (u.syncFault (u.ctxOn c) 1 0x0203)) ∧
    (s.actsAt c e w 0x21 chk = some u → exec (.fclr c e w chk) s = .next (u.syncFault (u.ctxOn c) 1 0x0203)) ∧
    (s.actsAt c e w 0x22 chk = some u → exec (.fwait c e w chk) s = .next (u.syncFault (u.ctxOn c) 1 0x0203)) := by
  refine ⟨fun h => ?_, fun h => ?_, fun h => ?_⟩
  · rw [exec_fset h, State.syncInsn_of_untranslated hn hlt _ ht]
  · rw [exec_fclr h, State.syncInsn_of_untranslated hn hlt _ ht]
  · rw [exec_fwait h, State.syncInsn_of_untranslated hn hlt _ ht]

/-- CWAIT on a counter, CONSUME and BARRIER, which are the fetch engine's. -/
theorem fetchSyncInsns_of_untranslated (he : e = .fetch) :
    (bit w 34 = false → s.actsAt c e w 0x23 chk = some u → exec (.cwait c w chk) s = .next (u.syncFault (u.ctxOn c) 1 0x0203)) ∧
    (s.actsAt c e w 0x24 chk = some u → exec (.consume c w chk) s = .next (u.syncFault (u.ctxOn c) 1 0x0203)) ∧
    (s.actsAt c e w 0x26 chk = some u → exec (.barrier c w chk) s = .next (u.syncFault (u.ctxOn c) 1 0x0203)) := by
  subst he
  refine ⟨fun hw h => ?_, fun h => ?_, fun h => ?_⟩
  · rw [exec_cwait_counter h hw, State.syncInsn_of_untranslated hn hlt _ ht]
  · rw [exec_consume h, State.syncInsn_of_untranslated hn hlt _ ht]
  · rw [exec_barrier h, State.syncInsn_of_untranslated hn hlt _ ht]

end

/-! A sync instruction on an object of its kind -/

section
variable {c : Fin 16} {w : Insn} {chk : Check} {s u : State} {n i : Nat}

section
variable {e : Eng} (hn : (u.eng c e).sum w 16 14 30 = (n : Int)) (hlt : n < 16384) (ht : u.translateOn c n = some i)
include hn hlt ht

theorem exec_fset_of_translated (h : s.actsAt c e w 0x20 chk = some u) (hk : objKind i ≠ .barrier) :
    exec (.fset c e w chk) s = .next ((u.doneNow c e w).post c e .set i) := by
  obtain ⟨-, hop, -⟩ := actsAt_ready h
  rw [exec_fset h, State.syncInsn_of_translated hn hlt _ ht (hop ▸ (kindOk_fset_fclr hk).1)]

theorem exec_fclr_of_translated (h : s.actsAt c e w 0x21 chk = some u) (hk : objKind i ≠ .barrier) :
    exec (.fclr c e w chk) s = .next ((u.doneNow c e w).post c e .clear i) := by
  obtain ⟨-, hop, -⟩ := actsAt_ready h
  rw [exec_fclr h, State.syncInsn_of_translated hn hlt _ ht (hop ▸ (kindOk_fset_fclr hk).2)]

/-- The execute engine's wait is registered once nothing that it posted is outstanding (R191). -/
theorem exec_fwait_of_translated (h : s.actsAt c e w 0x22 chk = some u) (hk : objKind i = .pipe ∨ objKind i = .flag)
    (hposted : e = .exec → u.cores[c].posted = []) :
    exec (.fwait c e w chk) s = .next (u.register c e (if bit w 34 then .flagTest i else .flagTake i)) := by
  obtain ⟨-, hop, -⟩ := actsAt_ready h
  rw [exec_fwait h, State.syncInsn_of_translated hn hlt _ ht (hop ▸ kindOk_fwait hk)]
  cases e with
  | fetch => rfl
  | exec => rw [hposted rfl]; rfl

end

section
variable (hn : (u.eng c .fetch).sum w 16 14 30 = (n : Int)) (hlt : n < 16384) (ht : u.translateOn c n = some i)
include hn hlt ht

theorem exec_cwait_of_translated (h : s.actsAt c .fetch w 0x23 chk = some u) (hw : bit w 34 = false) (hk : objKind i = .counter) :
    exec (.cwait c w chk) s = .next (u.register c .fetch (.counter i (BitVec.ofInt 32 ((u.eng c .fetch).sum w 64 32 35)))) := by
  obtain ⟨-, hop, -⟩ := actsAt_ready h
  rw [exec_cwait_counter h hw, State.syncInsn_of_translated hn hlt _ ht (by rw [hop, hk]; rfl)]

theorem exec_consume_of_translated (h : s.actsAt c .fetch w 0x24 chk = some u) (hk : objKind i = .counter)
    (hle : fld w 64 16 ≤ fld (u.obj i) 0 32) :
    exec (.consume c w chk) s
      = .next (((u.setObj i (withFld (u.obj i) 0 32 (fld (u.obj i) 0 32 - fld w 64 16))).serveWaits).advance c .fetch) := by
  obtain ⟨-, hop, -⟩ := actsAt_ready h
  rw [exec_consume h, State.syncInsn_of_translated hn hlt _ ht (by rw [hop, hk]; rfl), if_neg (Nat.not_lt.mpr hle)]

theorem exec_barrier_arrive (h : s.actsAt c .fetch w 0x26 chk = some u) (hk : objKind i = .barrier) (hw : bit w 34 = false) :
    exec (.barrier c w chk) s = .next ((u.advance c .fetch).post c .fetch .arrive i) := by
  obtain ⟨-, hop, -⟩ := actsAt_ready h
  rw [exec_barrier h, State.syncInsn_of_translated hn hlt _ ht (by rw [hop, hk]; rfl), hw]
  rfl

/-- The wait is for the phase to change from the one before the arrival. -/
theorem exec_barrier_arriveWait (h : s.actsAt c .fetch w 0x26 chk = some u) (hk : objKind i = .barrier) (hw : bit w 34 = true)
    (hrun : ((u.barArrive i (u.ctxOn c)).cores[c].run).isSome = true) :
    exec (.barrier c w chk) s = .next ((u.barArrive i (u.ctxOn c)).register c .fetch (.barrier i (bit (u.obj i) 35))) := by
  obtain ⟨-, hop, -⟩ := actsAt_ready h
  rw [exec_barrier h, State.syncInsn_of_translated hn hlt _ ht (by rw [hop, hk]; rfl), if_pos hw,
    if_neg (Bool.eq_false_iff.mp (Option.isNone_eq_false_iff.mpr hrun))]

end

end

end Sys2Proof.Machine

open Sys2Proof Sys2Proof.Machine

/-- Settles O14: each sync instruction is its body on the object that R188's table names, and the fault of range where the table names none. -/
theorem syncInstructionsComplete : Obligations.SyncInstructionsComplete := by
  unfold Obligations.SyncInstructionsComplete
  refine ⟨?_, ?_, fun _ _ => rfl, ?_, ?_, ?_⟩
  · intro x g f p i hg
    exact ⟨translate_pipe f p, fun _ => translate_flag f p hg, fun _ => translate_counter f p hg, fun _ => translate_barrier f p hg⟩
  · intro s c r x i hrun hctx
    exact ⟨State.translateOn_of_run hrun hctx, State.setFlagOn_of_untranslated, State.ctxOn_of_run hrun⟩
  · intro c e w chk s u n hn hlt ht
    obtain ⟨hset, hclr, hwait⟩ := flagInsns_of_untranslated (chk := chk) (s := s) hn hlt ht
    have hfetch := fetchSyncInsns_of_untranslated (chk := chk) (s := s) hn hlt ht
    exact ⟨hset, hclr, hwait, fun he => (hfetch he).1, fun he => (hfetch he).2.1, fun he => (hfetch he).2.2⟩
  · intro c e w chk s u
    refine ⟨fun n i hn hlt ht => ⟨?_, ?_, ?_⟩, fun n i hn hlt ht => ⟨?_, ?_, ?_, ?_⟩, fun n h hw hn hlt => ?_⟩
    · exact exec_fset_of_translated hn hlt ht
    · exact exec_fclr_of_translated hn hlt ht
    · exact exec_fwait_of_translated hn hlt ht
    · exact exec_cwait_of_translated hn hlt ht
    · exact exec_consume_of_translated hn hlt ht
    · exact exec_barrier_arrive hn hlt ht
    · exact exec_barrier_arriveWait hn hlt ht
    · exact exec_cwait_window h hw hn hlt
  · intro c w chk s u h
    exact congrArg Host.Outcome.next (issue_actsAt _ h)

end

section
/-! O3: NOP, SET, SADD and SLOAD of either engine (R225), and an SLOAD that the tag of its slot holds until the engine enters lull (R152, R199). -/

namespace Sys2Proof.Machine

/-! The slot that an SLOAD reads (R152) -/

theorem slotsOf_word {n i : Nat} (h : i < 8) : slotsOf (64 * n + 8 * i) 8 = [n] := by
  have hlo : (64 * n + 8 * i) / 64 = n := by omega
  have hhi : (64 * n + 8 * i + 8 - 1) / 64 = n := by omega
  rw [slotsOf, if_neg (by decide), hlo, hhi, Nat.sub_self]
  rfl

/-- TEST and TAKE hold an access to a slot that is not full (Table 6.1). -/
theorem Core.tagRead_of_not_full {k : Core} {mode n : Nat} (hmode : mode ≠ 0) (hfull : k.isFull n = false) : k.tagRead mode [n] = none := by
  simp [Core.tagRead, hmode, hfull]

theorem Core.tagged_word_of_not_full {k : Core} {mode n i : Nat} (hi : i < 8) (hmode : mode ≠ 0) (hfull : k.isFull n = false) :
    k.tagged mode (64 * n + 8 * i) 8 = none := by
  rw [Core.tagged, slotsOf_word hi, Core.tagRead_of_not_full hmode hfull, Option.map_none]

theorem Core.tagHolds_sload {k : Core} {e : Eng} {w : Insn} {n : Nat} (hw : k.insnAt e = w) (hlegal : legalInsn e w = true)
    (hop : opcodeOf w = 0x07) (hn : (k.eng e).sum w 20 14 34 = (n : Int)) (hlt : n < 12288) (hmode : fld w 41 2 ≠ 0)
    (hfull : k.isFull n = false) : k.tagHolds e = true := by
  have hin : within (n : Int) 0 12287 = true := within_natCast (by omega)
  simp [Core.tagHolds, hw, hlegal, hop, hn, hin, hmode, hfull]

/-! The state in which an instruction acts -/

/-- The checks of what an instruction reads may record a reloaded entry, which changes no core. -/
theorem State.passes_frame {s v : State} {c : Fin 16} {chk : Check} (h : s.passes c chk = some v) : v.stopped = s.stopped ∧ v.cores = s.cores := by
  unfold State.passes at h
  split at h
  · cases h
    exact ⟨rfl, rfl⟩
  · cases h
    exact ⟨State.record_stopped .., State.record_cores ..⟩
  · cases h

/-- The state after an execute instruction has popped its queue (R220): the handle `h` popped, and the slots `r` that stay. -/
def State.afterPop (s : State) (c : Fin 16) (w : Insn) (h : Word) (r : List QSlot) : State :=
  (s.modCore c (fun k => k.setQ (fld w 8 3) { k.q (fld w 8 3) with slots := r })).modCore c
    (fun k => { k with exe := { (k.exe.wr 14 h).wr 15 (BitVec.ofNat 64 (fld h 0 14)) with popped := some h, st := .running } })

@[simp] theorem State.afterPop_stopped (s : State) (c : Fin 16) (w : Insn) (h : Word) (r : List QSlot) :
    (s.afterPop c w h r).stopped = s.stopped := by
  simp only [State.afterPop, State.modCore_stopped]

@[simp] theorem Engine.wr_pc (g : Engine) (r : Nat) (v : Word) : (g.wr r v).pc = g.pc := by
  unfold Engine.wr
  split <;> rfl

theorem State.afterPop_insnAt (s : State) (c : Fin 16) (w : Insn) (h : Word) (r : List QSlot) :
    (s.afterPop c w h r).cores[c].insnAt .exec = s.cores[c].insnAt .exec := by
  simp only [State.afterPop, Fin.getElem_fin, State.modCore_self]
  simp only [Core.insnAt, Core.setQ, Engine.wr_pc]

/-- An instruction acts in the state that its checks leave, or, for an execute instruction that pops its queue, in the one after the pop. -/
theorem actsAt_cases {c : Fin 16} {e : Eng} {w : Insn} {op : Nat} {chk : Check} {s u : State} (h : s.actsAt c e w op chk = some u) :
    ∃ v, s.passes c chk = some v ∧ (u = v ∨ e = .exec ∧ ∃ hd r, u = v.afterPop c w hd r) := by
  unfold State.actsAt at h
  split at h
  case isFalse => cases h
  case isTrue =>
    obtain ⟨v, hv, h⟩ := Option.bind_eq_some_iff.mp h
    refine ⟨v, hv, ?_⟩
    cases e with
    | fetch => exact .inl (Option.some.inj h).symm
    | exec =>
      dsimp only at h
      split at h
      case isTrue => cases h
      case isFalse =>
        split at h
        case isFalse => exact .inl (Option.some.inj h).symm
        case isTrue =>
          split at h
          next hd f _ r _ =>
            split at h
            case isTrue => cases h
            case isFalse => exact .inr ⟨rfl, hd, r, (Option.some.inj h).symm⟩
          next => cases h

/-- Where an instruction acts, the device runs and the engine is still at that instruction. -/
theorem actsAt_running {c : Fin 16} {e : Eng} {w : Insn} {op : Nat} {chk : Check} {s u : State} (h : s.actsAt c e w op chk = some u) :
    u.stopped = false ∧ u.cores[c].insnAt e = w := by
  obtain ⟨hready, -, -⟩ := actsAt_ready h
  simp only [State.ready, Bool.and_eq_true, Bool.not_eq_true', decide_eq_true_eq] at hready
  obtain ⟨⟨⟨⟨⟨⟨hrun, -⟩, -⟩, -⟩, -⟩, -⟩, hat⟩ := hready
  obtain ⟨v, hv, hu⟩ := actsAt_cases h
  obtain ⟨hstop, hcores⟩ := State.passes_frame hv
  rw [← hstop] at hrun
  rw [← hcores] at hat
  obtain rfl | ⟨rfl, hd, r, rfl⟩ := hu
  · exact ⟨hrun, hat⟩
  · exact ⟨(State.afterPop_stopped ..).trans hrun, (State.afterPop_insnAt ..).trans hat⟩

/-! What each instruction does in the state in which it acts (R225) -/

section
variable {c : Fin 16} {e : Eng} {w : Insn} {chk : Check} {s u : State}

theorem exec_nop (h : s.actsAt c e w 0x01 chk = some u) : exec (.nop c e w chk) s = .next (u.doneNow c e w) := by
  obtain ⟨-, hop, -⟩ := actsAt_ready h
  have hin : inColumn e (opcodeOf w) = true := by rw [hop]; cases e <;> rfl
  refine congrArg Host.Outcome.next ?_
  rw [hin, Bool.not_true, Bool.and_false, if_neg Bool.false_ne_true, issue_actsAt _ h]

theorem exec_set (h : s.actsAt c e w 0x05 chk = some u) :
    exec (.set c e w chk) s = .next ((u.modEng c e (fun g => g.wr (fld w 16 4) (BitVec.ofNat 64 (fld w 64 64)))).doneNow c e w) :=
  congrArg Host.Outcome.next (issue_actsAt _ h)

theorem exec_sadd (h : s.actsAt c e w 0x06 chk = some u) :
    exec (.sadd c e w chk) s = .next ((u.modEng c e (fun g => g.wr (fld w 16 4) (saddValue g w))).doneNow c e w) :=
  congrArg Host.Outcome.next (issue_actsAt _ h)

section
variable {n : Nat} (h : s.actsAt c e w 0x07 chk = some u) (hn : (u.eng c e).sum w 20 14 34 = (n : Int)) (hlt : n < 12288)
include h hn hlt

/-- An SLOAD of a slot in range reads it under its tag mode, and keeps its place where the tag holds it. -/
theorem exec_sload : exec (.sload c e w chk) s = .next (
    match u.cores[c].tagged (fld w 41 2) (64 * n + 8 * fld w 38 3) 8 with
    | some (k, bs) => ((u.modCore c (fun _ => k)).modEng c e (fun g => g.wr (fld w 16 4) (BitVec.ofNat 64 (leNat bs)))).doneNow c e w
    | none => u) := by
  have hin : within (n : Int) 0 12287 = true := within_natCast (by omega)
  have hrange : ¬ (!within ((u.eng c e).sum w 20 14 34) 0 12287) = true := by rw [hn, hin]; decide
  obtain rfl : n = ((u.eng c e).sum w 20 14 34).toNat := by rw [hn, Int.toNat_natCast]
  exact congrArg Host.Outcome.next ((issue_actsAt _ h).trans (if_neg hrange))

/-- An SLOAD that the tag holds keeps its place. -/
theorem exec_sload_of_not_full (hmode : fld w 41 2 ≠ 0) (hfull : u.cores[c].isFull n = false) : exec (.sload c e w chk) s = .next u := by
  have hword : fld w 38 3 < 8 := Nat.mod_lt _ (by decide)
  rw [exec_sload h hn hlt, Core.tagged_word_of_not_full hword hmode hfull]

/-- An engine held at an SLOAD is one that may enter lull. -/
theorem actsAt_tagHolds_sload (hmode : fld w 41 2 ≠ 0) (hfull : u.cores[c].isFull n = false) : u.cores[c].tagHolds e = true := by
  obtain ⟨-, hop, hlegal⟩ := actsAt_ready h
  exact Core.tagHolds_sload (actsAt_running h).2 hlegal hop hn hlt hmode hfull

end
end

/-! The entry into lull (R152, R199) -/

theorem State.modEng_run (s : State) (c : Fin 16) (e : Eng) (f : Engine → Engine) : (s.modEng c e f).cores[c].run = s.cores[c].run := by
  simp only [State.modEng, Fin.getElem_fin, State.modCore_self]
  cases e <;> rfl

theorem exec_lullEntry_of_tagHolds {c : Fin 16} {e : Eng} {s : State} {r : CoreRun} (hstop : s.stopped = false) (hrun : s.cores[c].run = some r)
    (hheld : s.cores[c].tagHolds e = true) (hst : (s.eng c e).st ≠ .lull) :
    exec (.lullEntry c e) s
      = .next ((s.modEng c e (fun g => { g with st := .lull })).modCtx r.ctx (fun x => { x with since := s.podTime })) := by
  refine congrArg Host.Outcome.next ((if_pos ?_).trans ?_)
  · simp [-Fin.getElem_fin, hstop, hrun, hheld, hst]
  · have hctx := State.ctxOn_of_run ((State.modEng_run s c e (fun g => { g with st := .lull })).trans hrun)
    simp only [hctx, State.modEng_podTime]

end Sys2Proof.Machine

open Sys2Proof Sys2Proof.Machine

/-- Settles O3: each instruction has its body's effect in the state in which it acts, and an SLOAD whose slot is not full is held by the tag,
which is what the entry into lull asks for. -/
theorem scalarInstructionsComplete : Obligations.ScalarInstructionsComplete := by
  unfold Obligations.ScalarInstructionsComplete
  intro c e w chk s u
  refine ⟨exec_nop, exec_set, exec_sadd, fun n k bs h hn hlt hread => ?_, fun n h hn hlt hmode hfull => ⟨?_, fun r hrun hst => ?_⟩⟩
  · rw [exec_sload h hn hlt, hread]
  · exact exec_sload_of_not_full h hn hlt hmode hfull
  · exact exec_lullEntry_of_tagHolds (actsAt_running h).1 hrun (actsAt_tagHolds_sload h hn hlt hmode hfull) hst

end

section
/-! O50: the host's accesses through its windows (R286 to R290), those refused (R289), the answers to its reads, and register writes as commands
(R10, R11, R292). -/

namespace Sys2Proof.Machine

/-! Registers after a count, a sticky bit and a record (R380, R396) -/

section
variable (s : State) {blk off idx blk' off' idx' : Nat}

@[simp] theorem State.count_reg_self (n : Nat) : (s.count blk off n idx).reg blk off idx = satAdd (s.reg blk off idx) n := State.setReg_reg_self ..

@[simp] theorem State.stick_reg_self (bits : Nat) :
    (s.stick blk off bits idx).reg blk off idx = s.reg blk off idx ||| BitVec.ofNat 64 bits := State.setReg_reg_self ..

theorem State.count_reg_ne (n : Nat) (h : rkey blk' off' idx' ≠ rkey blk off idx) :
    (s.count blk off n idx).reg blk' off' idx' = s.reg blk' off' idx' := State.setReg_reg_ne _ _ _ _ _ _ _ _ h

theorem State.stick_reg_ne (bits : Nat) (h : rkey blk' off' idx' ≠ rkey blk off idx) :
    (s.stick blk off bits idx).reg blk' off' idx' = s.reg blk' off' idx' := State.setReg_reg_ne _ _ _ _ _ _ _ _ h

/-- A recorded error changes the block's four error registers and the device-wide count of its class. -/
theorem State.record_reg_ne {cls : EClass} {cause : Nat} {x : Option (Nat × Nat)}
    (hblk : ∀ o ∈ [0x0100, 0x0108, 0x0110, 0x0118], rkey blk' off' idx' ≠ rkey blk o 0)
    (hcls : rkey blk' off' idx' ≠ rkey blkHKP 0xF000 cls.code) : (s.record blk cls cause x).reg blk' off' idx' = s.reg blk' off' idx' := by
  simp only [List.forall_mem_cons] at hblk
  obtain ⟨hsum, hfirst, hcount, htime, -⟩ := hblk
  have hcounted : (((s.stick blk 0x0100 (2 ^ cls.code)).count blk 0x0110).count blkHKP 0xF000 1 cls.code).reg blk' off' idx' = s.reg blk' off' idx' := by
    rw [State.count_reg_ne _ _ hcls, State.count_reg_ne _ _ hcount, State.stick_reg_ne _ _ hsum]
  unfold State.record
  dsimp only
  split
  · exact hcounted
  · rw [State.setReg_reg_ne _ _ _ _ _ _ _ _ htime, State.setReg_reg_ne _ _ _ _ _ _ _ _ hfirst, hcounted]

end

/-! The forms of an access and the aperture's ranges (R287 to R289) -/

section
variable {s : State} {win : Fin 3} {o log2 : Nat} {w : Bool}

/-- The form and the closed windows come before the aperture filter. -/
theorem State.denied_eq : s.denied win o log2 w =
    if o % 2 ^ log2 ≠ 0 ∨ (win ≠ 2 ∧ log2 ≠ 3) then some .form
    else if s.vcl.boot = true ∧ win ≠ 0 then some .form
    else if win = 2 ∧ (s.aperture o (2 ^ log2) = 0 ∨ (w = true ∧ s.aperture o (2 ^ log2) ≠ 2)) then some .filter else none := by
  simp only [State.denied, Bool.or_eq_true, Bool.and_eq_true, decide_eq_true_eq]

theorem State.denied_form_iff : s.denied win o log2 w = some .form ↔ o % 2 ^ log2 ≠ 0 ∨ (win ≠ 2 ∧ log2 ≠ 3) ∨ (s.vcl.boot = true ∧ win ≠ 0) := by
  rw [State.denied_eq, ← or_assoc]
  split
  next hform => exact iff_of_true rfl (.inl hform)
  next hform =>
    split
    next hclosed => exact iff_of_true rfl (.inr hclosed)
    next hclosed =>
      refine iff_of_false ?_ (fun h => h.elim hform hclosed)
      split
      · decide
      · decide

theorem State.denied_filter_iff : s.denied win o log2 w = some .filter ↔ o % 2 ^ log2 = 0 ∧ s.vcl.boot = false ∧ win = 2 ∧
    (s.aperture o (2 ^ log2) = 0 ∨ (w = true ∧ s.aperture o (2 ^ log2) ≠ 2)) := by
  have hne : ¬ some Denial.form = some Denial.filter := by decide
  have hwin : ¬ (2 : Fin 3) = 0 := by decide
  rw [State.denied_eq]
  split
  next hform =>
    refine iff_of_false hne ?_
    rintro ⟨halign, -, rfl, -⟩
    exact hform.elim (fun h => h halign) (fun h => h.1 rfl)
  next hform =>
    split
    next hclosed =>
      refine iff_of_false hne ?_
      rintro ⟨-, hboot, -⟩
      exact Bool.false_ne_true (hboot.symm.trans hclosed.1)
    next hclosed =>
      rw [Option.ite_none_right_eq_some]
      refine ⟨fun hf => ⟨?_, ?_, hf.1⟩, fun hf => ⟨hf.2.2, rfl⟩⟩
      · exact Decidable.byContradiction (fun h => hform (.inl h))
      · exact Bool.eq_false_iff.mpr (fun hboot => hclosed ⟨hboot, fun h => hwin (hf.1.1.symm.trans h)⟩)

/-- No open range holds the bytes whole. -/
theorem State.aperture_eq_zero_iff {a n : Nat} : s.aperture a n = 0 ↔ ∀ r ∈ s.vcl.apt.toList, fld r 62 2 ≠ 0 → 2 ^ 20 * fld r 0 18 ≤ a →
    2 ^ 20 * (fld r 0 18 + fld r 32 18) < a + n := by
  unfold State.aperture
  cases hf : s.vcl.apt.toList.find? (fun w => fld w 62 2 ≠ 0 && decide (2 ^ 20 * fld w 0 18 ≤ a) && decide (a + n ≤ 2 ^ 20 * (fld w 0 18 + fld w 32 18))) with
  | none =>
    refine iff_of_true rfl (fun r hr hopen hlo => ?_)
    have := List.find?_eq_none.mp hf r hr
    simp only [Bool.and_eq_true, decide_eq_true_eq] at this
    exact Nat.lt_of_not_le (fun hhi => this ⟨⟨hopen, hlo⟩, hhi⟩)
  | some r =>
    have hr := List.find?_some hf
    simp only [Bool.and_eq_true, decide_eq_true_eq] at hr
    obtain ⟨⟨hopen, hlo⟩, hhi⟩ := hr
    exact iff_of_false hopen (fun h => Nat.not_le_of_lt (h r (List.mem_of_find?_eq_some hf) hopen hlo) hhi)

end

/-! A refused access recorded (R289, Table 10.9) -/

theorem bit_ofNat {v i : Nat} (hi : i < 64) : bit (BitVec.ofNat 64 v) i = decide (v / 2 ^ i % 2 = 1) := by
  rw [bit, BitVec.getLsbD_ofNat, decide_eq_true hi, Bool.true_and, Nat.testBit_eq_decide_div_mod_eq]

theorem bit_or (a b : Word) (i : Nat) : bit (a ||| b) i = (bit a i || bit b i) := BitVec.getLsbD_or

theorem bit_and (a b : Word) (i : Nat) : bit (a &&& b) i = (bit a i && bit b i) := BitVec.getLsbD_and

theorem b2n_lt_two (b : Bool) : b2n b < 2 := by cases b <;> decide

theorem decide_b2n_eq_one (b : Bool) : decide (b2n b = 1) = b := by cases b <;> rfl

theorem put_eq_mul {v lo len : Nat} (h : v < 2 ^ len) : put v lo len = v * 2 ^ lo := by
  rw [put, Nat.mod_eq_of_lt h, Nat.shiftLeft_eq]

/-- VCL_MMIO_FAULT for an access: window, whether a write, whether filtered, size and offset. -/
def faultWord (win : Nat) (w f : Bool) (log2 o : Nat) : Word :=
  BitVec.ofNat 64 (put win 62 2 + put (b2n w) 61 1 + put (b2n f) 60 1 + put log2 53 3 + put o 0 38)

section
variable {win log2 o : Nat} (w f : Bool) (hwin : win < 4) (hlog2 : log2 < 8) (ho : o < 2 ^ 38)
include hwin hlog2 ho

theorem faultWord_fields : fld (faultWord win w f log2 o) 0 38 = o ∧ fld (faultWord win w f log2 o) 53 3 = log2 ∧
    bit (faultWord win w f log2 o) 60 = f ∧ bit (faultWord win w f log2 o) 61 = w ∧ fld (faultWord win w f log2 o) 62 2 = win := by
  have hw := b2n_lt_two w
  have hf := b2n_lt_two f
  rw [faultWord, put_eq_mul hwin, put_eq_mul hw, put_eq_mul hf, put_eq_mul hlog2, put_eq_mul ho]
  simp only [fld, bit_ofNat (show 60 < 64 by decide), bit_ofNat (show 61 < 64 by decide), BitVec.toNat_ofNat, Nat.shiftRight_eq_div_pow]
  refine ⟨by omega, by omega, ?_, ?_, by omega⟩
  · exact (decide_eq_decide.mpr (by omega)).trans (decide_b2n_eq_one f)
  · exact (decide_eq_decide.mpr (by omega)).trans (decide_b2n_eq_one w)

end

section
variable (s : State) (d : Denial) (win : Fin 3) (w : Bool) (o log2 : Nat)

theorem State.deny_eq : s.deny d win w o log2 =
    (((s.stick blkVCL 0x0208 (if d = .filter then 16 else 8)).count blkVCL 0x0278).setReg blkVCL 0x0210
      (faultWord win.val w (decide (d = .filter)) log2 o)).record blkVCL .none 0x0805 := by
  cases d <;> rfl

theorem State.deny_frame : { s.deny d win w o log2 with regs := s.regs } = s := by
  simp [State.deny]

theorem State.deny_reg_fault : (s.deny d win w o log2).reg blkVCL 0x0210 = faultWord win.val w (decide (d = .filter)) log2 o := by
  rw [State.deny_eq, State.record_reg_ne _ (by decide) (by decide), State.setReg_reg_self]

theorem State.deny_reg_denied : (s.deny d win w o log2).reg blkVCL 0x0278 = satAdd (s.reg blkVCL 0x0278) 1 := by
  rw [State.deny_eq, State.record_reg_ne _ (by decide) (by decide), State.setReg_reg_ne _ _ _ _ _ _ _ _ (by decide), State.count_reg_self,
    State.stick_reg_ne _ _ (by decide)]

theorem State.deny_reg_sticky :
    (s.deny d win w o log2).reg blkVCL 0x0208 = s.reg blkVCL 0x0208 ||| BitVec.ofNat 64 (if d = .filter then 16 else 8) := by
  rw [State.deny_eq, State.record_reg_ne _ (by decide) (by decide), State.setReg_reg_ne _ _ _ _ _ _ _ _ (by decide),
    State.count_reg_ne _ _ (by decide), State.stick_reg_self]

theorem State.deny_sticky_bit : bit ((s.deny d win w o log2).reg blkVCL 0x0208) (if d = .filter then 4 else 3) = true := by
  rw [State.deny_reg_sticky, bit_or, Bool.or_eq_true]
  right
  cases d <;> decide

end

/-! MMIO_RD and MMIO_WR (R286 to R290) -/

section
variable {s : State} {win : Fin 3} {o : BitVec 38} {log2 : Fin 7} (hup : s.vcl.st = .up)
include hup

section
variable {tag : BitVec 12} (hroom : s.readsOut < 256)
include hroom

/-- A refused read is recorded and answered with zeros. -/
theorem exec_mmioRd_of_denied {d : Denial} (hd : s.denied win o.toNat log2.val false = some d) :
    exec (.mmioRd win o log2 tag) s = .next ((s.deny d win false o.toNat log2.val).mmioData tag (List.replicate (2 ^ log2.val) 0)) := by
  have htaken : ¬ (decide (s.vcl.st ≠ .up) || decide (256 ≤ s.readsOut)) = true := by simp [hup, hroom]
  refine congrArg Host.Outcome.next ((if_neg htaken).trans ?_)
  rw [hd]

/-- Any other read is answered from its window; the doorbell page reads as zeros. -/
theorem exec_mmioRd_of_not_denied (hd : s.denied win o.toNat log2.val false = none) :
    exec (.mmioRd win o log2 tag) s = .next (
      if win = 0 then s.mmioData tag (toLe 8 (s.hostRead o.toNat).toNat)
      else if win = 1 then s.mmioData tag (List.replicate (2 ^ log2.val) 0)
      else State.mmioData (s.apertureRead o.toNat (2 ^ log2.val)).2 tag (s.apertureRead o.toNat (2 ^ log2.val)).1) := by
  have htaken : ¬ (decide (s.vcl.st ≠ .up) || decide (256 ≤ s.readsOut)) = true := by simp [hup, hroom]
  refine congrArg Host.Outcome.next ((if_neg htaken).trans ?_)
  rw [hd]

end

section
variable {data : Bytes} (hlen : data.length = 2 ^ log2.val)
include hlen

/-- A refused write is recorded, once its buffers are counted as free. -/
theorem exec_mmioWr_of_denied {d : Denial} (hd : s.denied win o.toNat log2.val true = some d) :
    exec (.mmioWr win o log2 data) s = .next ((s.vclHeard 2 (1 + (data.length + 15) / 16)).deny d win true o.toNat log2.val).returnCredits := by
  have htaken : ¬ (decide (s.vcl.st ≠ .up) || decide (data.length ≠ 2 ^ log2.val)) = true := by simp [hup, hlen]
  have hsame : (s.vclHeard 2 (1 + (data.length + 15) / 16)).denied win o.toNat log2.val true = some d := hd
  refine congrArg Host.Outcome.next ((if_neg htaken).trans ?_)
  dsimp only
  rw [hsame]

/-- Any other write acts in its window, once its buffers are counted as free. -/
theorem exec_mmioWr_of_not_denied (hd : s.denied win o.toNat log2.val true = none) {u : State} (hu : u = s.vclHeard 2 (1 + (data.length + 15) / 16)) :
    exec (.mmioWr win o log2 data) s = .next (State.returnCredits (
      if win = 0 then
        if o.toNat < 0x200000 && s.answers (o.toNat / 65536) then u.regWrite (o.toNat / 65536) (o.toNat % 65536) (BitVec.ofNat 64 (leNat data)) else u
      else if win = 1 then u.doorbell o.toNat (BitVec.ofNat 64 (leNat data))
      else u.apertureWrite o.toNat data)) := by
  have htaken : ¬ (decide (s.vcl.st ≠ .up) || decide (data.length ≠ 2 ^ log2.val)) = true := by simp [hup, hlen]
  have hsame : (s.vclHeard 2 (1 + (data.length + 15) / 16)).denied win o.toNat log2.val true = none := hd
  subst hu
  refine congrArg Host.Outcome.next ((if_neg htaken).trans ?_)
  dsimp only
  rw [hsame]
  rfl

end
end

/-! HBM read through the aperture (R290) -/

theorem State.errsAt_nil {s : State} (h : s.bad = []) (a n : Nat) : s.errsAt [] a n = [] := by
  simp [State.errsAt, h]

theorem State.apertureRead_of_no_bad {s : State} (h : s.bad = []) (a n : Nat) :
    (s.apertureRead a n).1 = s.peekN a n ∧ (s.apertureRead a n).2.mem = s.mem := by
  simp [State.apertureRead, State.readHbm, State.errsAt_nil h]

/-! An answer on an idle link (R278 to R280) -/

theorem State.returnCredits_of_none_owed {s : State} (h : s.vcl.owed = Vector.replicate 3 0) : s.returnCredits = s := by
  refine if_pos ?_
  rw [h]
  decide

theorem State.sendNumbered_sent (s : State) (kind first : Nat) (slots : Bytes) :
    (s.sendNumbered kind first slots).out = s.out ++ [.vclFlit (s.formFlit kind first slots)] ∧
      (s.sendNumbered kind first slots).vcl.owed = Vector.replicate 3 0 := by
  simp [State.sendNumbered]

/-- One message of at most 15 slots leaves in one flit, which returns all credits owed. -/
theorem State.emit_one {s : State} {m : VclMsg} (hq : s.vcl.outQ = [m]) (hpos : 0 < m.slots.length) (hle : m.slots.length ≤ 240) :
    (∃ g, s.emit.out = s.out ++ [.vcl m.name m.args m.bytes, .vclFlit g]) ∧ s.emit.vcl.owed = Vector.replicate 3 0 := by
  have hone : (m.slots.length + 239) / 240 = 1 := by omega
  have hemit : s.emit = (({ s with vcl := { s.vcl with outQ := [] } } : State).send (.vcl m.name m.args m.bytes)).sendNumbered 0 0 m.slots := by
    unfold State.emit
    simp only [hq, List.flatMap_cons, List.flatMap_nil, List.append_nil, hone, List.range_one, forAll_cons, forAll_nil, Nat.mul_zero, List.drop_zero,
      List.take_of_length_le hle]
    rfl
  obtain ⟨hout, howed⟩ := State.sendNumbered_sent (({ s with vcl := { s.vcl with outQ := [] } } : State).send (.vcl m.name m.args m.bytes)) 0 0 m.slots
  rw [State.send_out, List.append_assoc] at hout
  rw [hemit]
  exact ⟨⟨_, hout⟩, howed⟩

theorem inSlots_length (bs : Bytes) : (inSlots bs).length = (bs.length + 15) / 16 * 16 := by
  simp only [inSlots, padTo, List.length_append, List.length_replicate]
  omega

theorem vclHdr_length (op status tag word addr : Nat) : (vclHdr op status tag word addr).length = 16 := by
  simp only [vclHdr, toLe, List.length_append, List.length_cons, List.length_nil]

/-- On an idle link an answer of a header and at most 64 B leaves at once, in one flit. -/
theorem State.answer_of_linkIdle {s : State} {name : String} {args : List Nat} {bs hdr : Bytes} (hidle : s.linkIdle = true)
    (hcred : 2 ≤ s.vcl.credits[1]) (hlen : bs.length ≤ 64) (hhdr : hdr.length = 16) :
    (∃ g, (s.answer name args bs hdr).out = s.out ++ [.vcl name args bs, .vclFlit g]) ∧
      (s.answer name args bs hdr).vcl.owed = Vector.replicate 3 0 := by
  simp only [State.linkIdle, Bool.and_eq_true, decide_eq_true_eq, List.isEmpty_iff] at hidle
  obtain ⟨⟨⟨⟨⟨⟨⟨⟨hup, -⟩, hout⟩, hrsp⟩, -⟩, -⟩, -⟩, -⟩, hreplay⟩ := hidle
  have hslots : (inSlots (hdr ++ bs)).length = (bs.length + 31) / 16 * 16 := by
    rw [inSlots_length, List.length_append, hhdr]
    omega
  have hmay : (s.maySend ⟨1, name, args, bs, inSlots (hdr ++ bs)⟩ && s.vcl.rspQ.isEmpty) = true := by
    have hbuf : buffersOf ((bs.length + 31) / 16 * 16 / 16) ≤ s.vcl.credits[1] := by
      unfold buffersOf
      omega
    simp only [State.maySend, State.outSlots, hup, hrsp, hout, hslots, List.map_nil, List.sum_nil, List.isEmpty_nil, Bool.and_true, Bool.and_eq_true,
      decide_eq_true_eq]
    exact ⟨⟨trivial, hbuf⟩, by omega⟩
  have hans : s.answer name args bs hdr = (s.vclPost ⟨1, name, args, bs, inSlots (hdr ++ bs)⟩).emit := if_pos hmay
  rw [hans]
  have hq : (s.vclPost ⟨1, name, args, bs, inSlots (hdr ++ bs)⟩).vcl.outQ = [⟨1, name, args, bs, inSlots (hdr ++ bs)⟩] := by
    simp only [State.vclPost, hout, List.nil_append]
  exact State.emit_one hq (hslots ▸ by omega) (hslots ▸ by omega)

theorem State.mmioData_of_linkIdle {s : State} {tag : BitVec 12} {bs : Bytes} (hidle : s.linkIdle = true) (hcred : 2 ≤ s.vcl.credits[1])
    (hlen : bs.length ≤ 64) : ∃ g, (s.mmioData tag bs).out = s.out ++ [.vcl "MMIO_DATA" [tag.toNat, 0] bs, .vclFlit g] := by
  have hidle' : (s.vclHeard 2 1).linkIdle = true := hidle
  obtain ⟨hsent, howed⟩ := State.answer_of_linkIdle (name := "MMIO_DATA") (args := [tag.toNat, 0]) hidle' hcred hlen
    (vclHdr_length 0x33 0 tag.toNat (put (Nat.log2 bs.length) 2 3) 0)
  rw [State.mmioData, State.returnCredits_of_none_owed howed]
  exact hsent

/-! Register writes (R10, R11) -/

theorem State.regWrite_of_no_register {s : State} {blk off : Nat} {v : Word} (h : off % 8 ≠ 0 ∨ (13 ≤ blk ∧ blk < 16)) : s.regWrite blk off v = s := by
  refine if_pos ?_
  obtain h | ⟨hlo, hhi⟩ := h
  · simp [h]
  · simp [hlo, hhi]

/-- The registers of a core have no rule of their own but their access types. -/
theorem State.regWrite_core {s : State} {blk off : Nat} {v : Word} (halign : off % 8 = 0) (hoff : off < 0x10000) (hlo : 16 ≤ blk) (hhi : blk < 32) :
    s.regWrite blk off v = s.plainWrite blk off v := by
  have hin : ¬ (decide (off % 8 ≠ 0) || decide (0x10000 ≤ off) || decide (32 ≤ blk) || (decide (13 ≤ blk) && decide (blk < 16))) = true := by
    simp [halign, hoff, hhi, hlo]
  have hsec : ¬ (decide (blk = blkSEC) && decide (0x1000 ≤ off)) = true := by
    simp [blkSEC, show blk ≠ 1 by omega]
  unfold State.regWrite
  dsimp only
  rw [if_neg hin, if_neg hsec]
  split
  case h_11 => rfl
  all_goals omega

/-! What the host link's transmitter leaves unchanged (R278 to R280, R291) -/

/-- `t` is `s` after messages have been queued, posted or sent: the link's own state, host memory, what is sent or held, and the counts of flits
and of written bytes are all that may differ. -/
structure State.SendsOnly (s t : State) : Prop where
  rest : { s with vcl := t.vcl, regs := t.regs, mem := t.mem, out := t.out, heldOut := t.heldOut } = t
  regs : ∀ k, k ≠ rkey blkVCL 0x0240 0 → k ≠ rkey blkVCL 0x0268 0 → mget regReset t.regs k = mget regReset s.regs k

namespace State.SendsOnly

theorem refl (s : State) : s.SendsOnly s := ⟨rfl, fun _ _ _ => rfl⟩

theorem trans {s t u : State} (h : s.SendsOnly t) (h' : t.SendsOnly u) : s.SendsOnly u where
  rest := (congrArg (fun x : State => { x with vcl := u.vcl, regs := u.regs, mem := u.mem, out := u.out, heldOut := u.heldOut }) h.rest).trans h'.rest
  regs k hf hb := (h'.regs k hf hb).trans (h.regs k hf hb)

theorem cores {s t : State} (h : s.SendsOnly t) : t.cores = s.cores := (congrArg State.cores h.rest).symm

theorem ctxs {s t : State} (h : s.SendsOnly t) : t.ctxs = s.ctxs := (congrArg State.ctxs h.rest).symm

theorem forAll_of_each {α : Type} {l : List α} {f : α → State → State} (h : ∀ (a : α) (t : State), t.SendsOnly (f a t)) (s : State) :
    s.SendsOnly (forAll l f s) :=
  forAll_keeps s.SendsOnly l f s (fun a _ ht => ht.trans (h a _)) (refl s)

theorem vcl (s : State) (v : Vcl) : s.SendsOnly { s with vcl := v } := ⟨rfl, fun _ _ _ => rfl⟩

theorem held (s : State) (l : List OutMsg) : s.SendsOnly { s with heldOut := l } := ⟨rfl, fun _ _ _ => rfl⟩

theorem send (s : State) (m : OutMsg) : s.SendsOnly (s.send m) := ⟨rfl, fun _ _ _ => rfl⟩

theorem pokeN (s : State) (a : Nat) (bs : Bytes) : s.SendsOnly (s.pokeN a bs) := ⟨rfl, fun _ _ _ => rfl⟩

theorem vclPost (s : State) (m : VclMsg) : s.SendsOnly (s.vclPost m) := ⟨rfl, fun _ _ _ => rfl⟩

theorem countFlit (s : State) : s.SendsOnly (s.count blkVCL 0x0240) := ⟨rfl, fun _ hf _ => mget_mset_ne _ _ _ _ _ hf⟩

theorem countBytes (s : State) (n : Nat) : s.SendsOnly (s.count blkVCL 0x0268 n) := ⟨rfl, fun _ _ hb => mget_mset_ne _ _ _ _ _ hb⟩

theorem sendNumbered (s : State) (kind first : Nat) (slots : Bytes) : s.SendsOnly (s.sendNumbered kind first slots) :=
  ((vcl s _).trans (countFlit _)).trans (send _ _)

theorem emit (s : State) : s.SendsOnly s.emit :=
  ((vcl s _).trans (forAll_of_each (fun _ t => send t _) _)).trans (forAll_of_each (fun _ t => sendNumbered t _ _ _) _)

theorem pumpAnswers (s : State) : s.SendsOnly s.pumpAnswers := by
  have h : ∀ n (t : State), t.SendsOnly (State.pumpAnswers.go n t) := by
    intro n
    induction n with
    | zero => exact refl
    | succ n ih =>
      intro t
      unfold State.pumpAnswers.go
      split
      · split
        · exact ((vcl t _).trans (vclPost _ _)).trans (ih _)
        · exact refl t
      · exact refl t
  exact h _ _

/-! Requests -/

theorem postReq1 (s : State) (q : VclReq) : s.SendsOnly (s.postReq1 q) := by
  unfold State.postReq1
  dsimp only
  split
  · exact ((vclPost s _).trans (vcl _ _)).trans (countBytes _ _)
  · exact (vclPost s _).trans (vcl _ _)

theorem postBulk {s t : State} {rank : Nat} (h : s.postBulk rank = some t) : s.SendsOnly t := by
  unfold State.postBulk at h
  split at h
  · obtain ⟨-, h⟩ := Option.ite_none_right_eq_some.mp h
    cases h
    exact (vcl s _).trans (postReq1 _ _)
  · cases h

theorem ingestTurn (s : State) : s.SendsOnly s.ingestTurn := by
  unfold State.ingestTurn
  split
  · exact vcl s _
  · split
    · exact vcl s _
    · split
      next h => exact postBulk h
      next => exact refl s

theorem postReq (s : State) (q : VclReq) : s.SendsOnly (s.postReq q) := (postReq1 s q).trans (ingestTurn _)

theorem tryReq {s t : State} {who : ReqWho} {w : Bool} {a n : Nat} (h : s.tryReq who w a n = some t) : s.SendsOnly t := by
  obtain ⟨-, h⟩ := Option.ite_none_right_eq_some.mp h
  cases h
  exact postReq s _

theorem pumpObinha (s : State) : s.SendsOnly s.pumpObinha := by
  have h : ∀ n (t : State), t.SendsOnly (State.pumpObinha.go n t) := by
    intro n
    induction n with
    | zero => exact refl
    | succ n ih =>
      intro t
      unfold State.pumpObinha.go
      split
      · dsimp only
        split
        · exact ((vcl t _).trans (postReq _ _)).trans (ih _)
        · exact refl t
      · exact refl t
  exact h _ _

theorem pumpAgain (s : State) (b : Bool) : s.SendsOnly (s.pumpAgain b) :=
  forAll_of_each (fun q t => by
    split
    · exact postReq t q
    · exact refl t) s

/-! Completion entries and interrupts -/

theorem putOut {s t : State} {m : OutMsg} (h : s.putOut m = some t) : s.SendsOnly t := by
  unfold State.putOut at h
  split at h
  · exact ((send s _).trans (pokeN _ _ _)).trans (tryReq h)
  · obtain ⟨-, h⟩ := Option.ite_none_right_eq_some.mp h
    cases h
    exact (send s _).trans (vclPost _ _)
  · cases h
    exact send s _

theorem flushOut (s : State) : s.SendsOnly s.flushOut := by
  have h : ∀ n (t : State), t.SendsOnly (State.flushOut.go n t) := by
    intro n
    induction n with
    | zero => exact refl
    | succ n ih =>
      intro t
      unfold State.flushOut.go
      split
      · split
        · split
          next hu => exact ((held t _).trans (putOut hu)).trans (ih _)
          next => exact refl t
        · exact refl t
      · exact refl t
  exact ((((pumpAnswers s).trans (pumpAgain _ _)).trans (pumpObinha _)).trans (h _ _)).trans (emit _)

theorem sendMsi (s : State) (v : Nat) : s.SendsOnly (s.sendMsi v) := (held s _).trans (flushOut _)

end State.SendsOnly

/-! An interrupt vector's control register written (R292) -/

theorem State.sendMsi_reg_msiCtl (s : State) (v n : Nat) : (s.sendMsi v).reg blkVCL 0x0228 n = s.reg blkVCL 0x0228 n :=
  (State.SendsOnly.sendMsi s v).regs _ (by simp only [rkey, blkVCL]; omega) (by simp only [rkey, blkVCL]; omega)

/-- What a write leaves in VCL_MSI_CTL: MASK and DATA as written, PENDING as it stood. -/
def msiCtl (ctl old : Word) : Word := (ctl &&& 0x1FFFFFFFF) ||| (old &&& 0x200000000)

theorem msiCtl_pending (ctl old : Word) : bit (msiCtl ctl old) 33 = bit old 33 := by
  rw [msiCtl, bit_or, bit_and, bit_and, show bit (0x1FFFFFFFF : Word) 33 = false by decide, show bit (0x200000000 : Word) 33 = true by decide,
    Bool.and_false, Bool.false_or, Bool.and_true]

theorem msiCtl_mask (ctl old : Word) : bit (msiCtl ctl old) 32 = bit ctl 32 := by
  rw [msiCtl, bit_or, bit_and, bit_and, show bit (0x1FFFFFFFF : Word) 32 = true by decide, show bit (0x200000000 : Word) 32 = false by decide,
    Bool.and_false, Bool.or_false, Bool.and_true]

theorem msiCtl_without_pending (ctl old : Word) : msiCtl ctl old &&& 0x1FFFFFFFF = ctl &&& 0x1FFFFFFFF := by
  have hapart : (0x200000000 : Word) &&& 0x1FFFFFFFF = 0#64 := by decide
  rw [msiCtl, BitVec.and_or_distrib_right, BitVec.and_assoc, BitVec.and_self, BitVec.and_assoc, hapart, BitVec.and_zero, BitVec.or_zero]

/-- Clearing MASK while PENDING sends one interrupt and clears PENDING; any other write keeps PENDING. -/
theorem State.writeMsi_eq (s : State) (v : Nat) (ctl : Word) : s.writeMsi v ctl =
    if bit (s.reg blkVCL 0x0228 v) 33 = true ∧ bit ctl 32 = false then (s.setReg blkVCL 0x0228 (ctl &&& 0x1FFFFFFFF) v).sendMsi v
    else s.setReg blkVCL 0x0228 (msiCtl ctl (s.reg blkVCL 0x0228 v)) v := by
  have hdef : s.writeMsi v ctl =
      if bit (msiCtl ctl (s.reg blkVCL 0x0228 v)) 33 && !bit (msiCtl ctl (s.reg blkVCL 0x0228 v)) 32 then
        (s.setReg blkVCL 0x0228 (msiCtl ctl (s.reg blkVCL 0x0228 v) &&& 0x1FFFFFFFF) v).sendMsi v
      else s.setReg blkVCL 0x0228 (msiCtl ctl (s.reg blkVCL 0x0228 v)) v := rfl
  rw [hdef, msiCtl_pending, msiCtl_mask, msiCtl_without_pending]
  simp only [Bool.and_eq_true, Bool.not_eq_true']

theorem State.writeMsi_effect (s : State) (v : Nat) (ctl : Word) : (s.writeMsi v ctl).cores = s.cores ∧ (s.writeMsi v ctl).ctxs = s.ctxs ∧
    (s.writeMsi v ctl).reg blkVCL 0x0228 v = (if bit (s.reg blkVCL 0x0228 v) 33 = true ∧ bit ctl 32 = false then ctl &&& 0x1FFFFFFFF
      else msiCtl ctl (s.reg blkVCL 0x0228 v)) := by
  rw [State.writeMsi_eq]
  split
  · have hsent := State.SendsOnly.sendMsi (s.setReg blkVCL 0x0228 (ctl &&& 0x1FFFFFFFF) v) v
    rw [hsent.cores, hsent.ctxs, State.sendMsi_reg_msiCtl]
    exact ⟨State.setReg_cores .., State.setReg_ctxs .., State.setReg_reg_self ..⟩
  · exact ⟨State.setReg_cores .., State.setReg_ctxs .., State.setReg_reg_self ..⟩

end Sys2Proof.Machine

open Sys2Proof Sys2Proof.Machine

/-- Settles O50: a refused access is only recorded, an accepted one acts in its window, and an answer leaves an idle link in one flit; sending changes
no register but the link's own counts, so MSI_UNMASK leaves its vector's register as written. -/
theorem hostAccessesComplete : Obligations.HostAccessesComplete := by
  unfold Obligations.HostAccessesComplete
  intro s win o log2 hup
  refine ⟨fun tag d hroom hd => exec_mmioRd_of_denied hup hroom hd, fun data d hd hlen => exec_mmioWr_of_denied hup hlen hd,
    fun w => ⟨State.denied_form_iff, State.denied_filter_iff⟩, fun a n => State.aperture_eq_zero_iff, fun d w => ?_, fun tag hroom hd => ?_,
    fun data u hd hlen hu => ?_, fun a n hbad => State.apertureRead_of_no_bad hbad a n, fun tag bs => State.mmioData_of_linkIdle, fun b off v => ?_,
    fun n v => ?_⟩
  · rw [State.deny_reg_fault]
    exact ⟨State.deny_frame .., State.deny_sticky_bit .., State.deny_reg_denied .., faultWord_fields w _ (by omega) (by omega) o.isLt⟩
  · rw [exec_mmioRd_of_not_denied hup hroom hd]
    refine ⟨fun hw => ?_, fun hw => ?_, fun hw => ?_⟩
    · rw [if_pos hw]
    · rw [if_neg (by rw [hw]; decide), if_pos hw]
    · rw [if_neg (by rw [hw]; decide), if_neg (by rw [hw]; decide)]
  · rw [exec_mmioWr_of_not_denied hup hlen hd hu]
    refine ⟨fun hw ho hblk => ?_, fun hw => ?_, fun hw => ?_⟩
    · rw [if_pos hw, if_pos (by rw [hblk, decide_eq_true ho]; rfl)]
    · rw [if_neg (by rw [hw]; decide), if_pos hw]
    · rw [if_neg (by rw [hw]; decide), if_neg (by rw [hw]; decide)]
  · exact ⟨_, rfl, State.regWrite_of_no_register, fun halign hcore => State.regWrite_core halign off.isLt hcore b.isLt⟩
  · exact ⟨_, rfl, State.writeMsi_effect s n.val v⟩

end

section
/-! O52: samples of the sensors and the thermal trip (R404 to R407), PWR_CFG (R408), and the background tasks: snapshots, ageing, the almanac's writes
and scrub (R401, R409 to R415). -/

namespace Sys2Proof.Machine

/-! The promise of exact timing lost (R344): contexts' queues only -/

theorem State.losePromise_frame (s : State) (hit : Ctx → Bool) : { s.losePromise hit with ctxs := s.ctxs } = s := by
  unfold State.losePromise
  refine forAll_keeps (fun t : State => { t with ctxs := s.ctxs } = s) _ _ _ (fun p t ht => ?_) rfl
  split
  · unfold State.modCtx
    split
    · exact ht
    · exact ht
  · exact ht

@[simp] theorem State.losePromise_mem (s : State) (hit : Ctx → Bool) : (s.losePromise hit).mem = s.mem :=
  (congrArg State.mem (s.losePromise_frame hit) :)

@[simp] theorem State.losePromise_cores (s : State) (hit : Ctx → Bool) : (s.losePromise hit).cores = s.cores :=
  (congrArg State.cores (s.losePromise_frame hit) :)

@[simp] theorem State.losePromise_hkp (s : State) (hit : Ctx → Bool) : (s.losePromise hit).hkp = s.hkp :=
  (congrArg State.hkp (s.losePromise_frame hit) :)

@[simp] theorem State.losePromise_reg (s : State) (hit : Ctx → Bool) (blk off idx : Nat) : (s.losePromise hit).reg blk off idx = s.reg blk off idx :=
  (congrArg (fun t : State => t.reg blk off idx) (s.losePromise_frame hit) :)

/-! PWR_CFG (R408) -/

/-- The settings of a written word, put together again without the management port's bit, are its low half. -/
theorem pwrCfg_word (v : Word) : BitVec.ofNat 64 (fld v 0 16 + put (fld v 16 16) 16 16 + put (b2n false) 32 1) = v &&& 0xFFFFFFFF := by
  have hcap : fld v 0 16 = v.toNat % 65536 := rfl
  have hmhz : fld v 16 16 = v.toNat / 65536 % 65536 := congrArg (· % 65536) (Nat.shiftRight_eq_div_pow v.toNat 16)
  have hlow : (v &&& 0xFFFFFFFF).toNat = v.toNat % 4294967296 := by
    rw [BitVec.toNat_and]
    exact Nat.and_two_pow_sub_one_eq_mod v.toNat 32
  refine BitVec.eq_of_toNat_eq ?_
  rw [hlow, put_eq_mul (by omega), put_eq_mul (b2n_lt_two false), BitVec.toNat_ofNat, hcap, hmhz, show b2n false = 0 from rfl]
  omega

/-- A setting is taken whole, or not at all with CFG_BAD. -/
theorem State.setPwrCfg_cases (s : State) (capW mhz : Nat) (mgt : Bool) :
    (∃ hit, (s.setPwrCfg capW mhz mgt).2 =
      (s.setReg blkPWR 0x0200 (BitVec.ofNat 64 (capW + put mhz 16 16 + put (b2n mgt) 32 1))).losePromise hit) ∨
    (s.setPwrCfg capW mhz mgt).2 = s.stick blkPWR 0x0210 8 := by
  unfold State.setPwrCfg
  dsimp only
  split
  · exact .inl ⟨_, rfl⟩
  · exact .inr rfl

theorem exec_pwrCfgWrite (s : State) (v : Word) : exec (.pwrCfgWrite v) s = .next (s.setPwrCfg (fld v 0 16) (fld v 16 16) false).2 := rfl

theorem exec_pwrCfgWrite_whole_or_bad (s : State) (v : Word) : ∃ t, exec (.pwrCfgWrite v) s = .next t ∧ t.mem = s.mem ∧ t.cores = s.cores ∧
    (t.reg blkPWR 0x0200 = v &&& 0xFFFFFFFF ∨ (t.reg blkPWR 0x0200 = s.reg blkPWR 0x0200 ∧ bit (t.reg blkPWR 0x0210) 3 = true)) := by
  refine ⟨_, exec_pwrCfgWrite s v, ?_⟩
  obtain ⟨hit, heq⟩ | heq := s.setPwrCfg_cases (fld v 0 16) (fld v 16 16) false
  · rw [heq, pwrCfg_word]
    exact ⟨by simp, by simp, .inl (by simp)⟩
  · rw [heq]
    refine ⟨State.stick_mem .., State.stick_cores .., .inr ⟨State.stick_reg_ne _ _ (by decide), ?_⟩⟩
    rw [State.stick_reg_self, bit_or, show bit (BitVec.ofNat 64 8) 3 = true by decide, Bool.or_true]

/-! What a sample leaves, and what no error, interrupt or message changes of it -/

/-- `t` still has what a sample left in `s`: the readings, the throttle level, THERM_N, PWR_RAILS, and whether THERM_TRIP stands. -/
structure State.SampleStands (s t : State) : Prop where
  temps : t.hkp.temps = s.hkp.temps
  powerW : t.hkp.powerW = s.hkp.powerW
  level : t.hkp.level = s.hkp.level
  therm : t.hkp.therm = s.hkp.therm
  rails : t.reg blkPWR 0x0238 = s.reg blkPWR 0x0238
  trip : bit (t.reg blkPWR 0x0210) 1 = bit (s.reg blkPWR 0x0210) 1

namespace State.SampleStands

theorem refl (s : State) : s.SampleStands s := ⟨rfl, rfl, rfl, rfl, rfl, rfl⟩

theorem trans {s t u : State} (h : s.SampleStands t) (h' : t.SampleStands u) : s.SampleStands u where
  temps := h'.temps.trans h.temps
  powerW := h'.powerW.trans h.powerW
  level := h'.level.trans h.level
  therm := h'.therm.trans h.therm
  rails := h'.rails.trans h.rails
  trip := h'.trip.trans h.trip

theorem of_hkp_eq {s t : State} (hkp : t.hkp = s.hkp) (rails : t.reg blkPWR 0x0238 = s.reg blkPWR 0x0238)
    (status : t.reg blkPWR 0x0210 = s.reg blkPWR 0x0210) : s.SampleStands t :=
  ⟨by rw [hkp], by rw [hkp], by rw [hkp], by rw [hkp], rails, by rw [status]⟩

theorem forAll_of_each {α : Type} {l : List α} {f : α → State → State} (h : ∀ (a : α) (t : State), t.SampleStands (f a t)) (s : State) :
    s.SampleStands (forAll l f s) :=
  forAll_keeps s.SampleStands l f s (fun a _ ht => ht.trans (h a _)) (refl s)

section
variable (s : State) {blk off idx : Nat}

theorem setReg (v : Word) (hrails : rkey blkPWR 0x0238 0 ≠ rkey blk off idx) (hstatus : rkey blkPWR 0x0210 0 ≠ rkey blk off idx) :
    s.SampleStands (s.setReg blk off v idx) :=
  of_hkp_eq (State.setReg_hkp ..) (State.setReg_reg_ne _ _ _ _ _ _ _ _ hrails) (State.setReg_reg_ne _ _ _ _ _ _ _ _ hstatus)

theorem count (n : Nat) (hrails : rkey blkPWR 0x0238 0 ≠ rkey blk off idx) (hstatus : rkey blkPWR 0x0210 0 ≠ rkey blk off idx) :
    s.SampleStands (s.count blk off n idx) := setReg s _ hrails hstatus

theorem stick (bits : Nat) (hrails : rkey blkPWR 0x0238 0 ≠ rkey blk off idx) (hstatus : rkey blkPWR 0x0210 0 ≠ rkey blk off idx) :
    s.SampleStands (s.stick blk off bits idx) := setReg s _ hrails hstatus

/-- Another sticky bit of PWR_STATUS. -/
theorem stickStatus (bits : Nat) (h : bit (BitVec.ofNat 64 bits) 1 = false) : s.SampleStands (s.stick blkPWR 0x0210 bits) where
  temps := rfl
  powerW := rfl
  level := rfl
  therm := rfl
  rails := State.stick_reg_ne _ _ (by decide)
  trip := by rw [State.stick_reg_self, bit_or, h, Bool.or_false]

theorem record (cls : EClass) (cause : Nat) : s.SampleStands (s.record blkPWR cls cause) :=
  of_hkp_eq (State.record_hkp ..) (State.record_reg_ne _ (by decide) (by cases cls <;> decide))
    (State.record_reg_ne _ (by decide) (by cases cls <;> decide))

theorem losePromise (hit : Ctx → Bool) : s.SampleStands (s.losePromise hit) :=
  of_hkp_eq (State.losePromise_hkp ..) (State.losePromise_reg ..) (State.losePromise_reg ..)

theorem almBegin (reason : Nat) : s.SampleStands (s.almBegin reason) := ⟨rfl, rfl, rfl, rfl, rfl, rfl⟩

theorem almEvent (reason : Nat) : s.SampleStands (s.almEvent reason) := by
  unfold State.almEvent
  split
  · exact ⟨rfl, rfl, rfl, rfl, rfl, rfl⟩
  · exact almBegin s reason

theorem noteD (cause : Nat) : s.SampleStands (s.noteD blkPWR cause) := by
  refine ((record s .d cause).trans ?_).trans (almEvent _ 2)
  exact ⟨rfl, rfl, rfl, rfl, rfl, rfl⟩

end

/-! Interrupts and messages -/

theorem of_sendsOnly {s t : State} (h : s.SendsOnly t) : s.SampleStands t :=
  of_hkp_eq (congrArg State.hkp h.rest).symm (h.regs _ (by decide) (by decide)) (h.regs _ (by decide) (by decide))

theorem raiseVec (s : State) (n : Nat) : s.SampleStands (s.raiseVec n) := by
  unfold State.raiseVec
  split
  · exact setReg s _ (by simp only [rkey, blkPWR, blkVCL]; omega) (by simp only [rkey, blkPWR, blkVCL]; omega)
  · exact of_sendsOnly (State.SendsOnly.sendMsi s n)

theorem send (s : State) (m : OutMsg) : s.SampleStands (s.send m) := of_hkp_eq rfl rfl rfl

theorem modLink (s : State) (l : Fin 20) (f : Link → Link) : s.SampleStands (s.modLink l f) := of_hkp_eq rfl rfl rfl

/-- A link's counter (FAB). -/
theorem countLink (s : State) (l : Fin 20) {off : Nat} (hoff : off < 2 ^ 16) : s.SampleStands (s.count blkFAB off 1 l.val) :=
  count s 1 (by simp only [rkey, blkPWR, blkFAB]; omega) (by simp only [rkey, blkPWR, blkFAB]; omega)

theorem sendFlit (s : State) (l : Fin 20) (kind : Nat) (start : Option Nat) (payload : Bytes) (m : Nat) :
    s.SampleStands (s.sendFlit l kind start payload m) :=
  ((modLink s l _).trans (countLink _ l (by decide))).trans (send _ _)

theorem sendControl (s : State) (l : Fin 20) (retry : Bool) (b : Option Bytes) : s.SampleStands (s.sendControl l retry b) := by
  cases b with
  | some b => exact (modLink s l _).trans (sendFlit _ l _ _ _ _)
  | none => exact ((((modLink s l _).trans (modLink _ l _)).trans (countLink _ l (by decide))).trans (send _ _)).trans (sendFlit _ l _ _ _ _)

theorem idleLink (s : State) (l : Fin 20) : s.SampleStands (s.idleLink l) := by
  unfold State.idleLink
  dsimp only
  split
  · exact (modLink s l _).trans (send _ _)
  · exact refl s

theorem pumpLink (s : State) (l : Fin 20) (tails : Bool) : s.SampleStands (s.pumpLink l tails) := by
  have hgo : ∀ n (t : State), t.SampleStands (State.pumpLink.go l tails n t) := by
    intro n
    induction n with
    | zero => exact refl
    | succ n ih =>
      intro t
      have hrekey : t.SampleStands (if t.links[l].keyOld then t.modLink l Link.rekeyFirst else t) := by
        split
        · exact modLink t l _
        · exact refl t
      unfold State.pumpLink.go
      dsimp only
      refine hrekey.trans ?_
      generalize (if t.links[l].keyOld then t.modLink l Link.rekeyFirst else t) = u
      split
      · exact refl u
      · exact (sendControl u l _ _).trans (ih _)
      · split
        · exact (sendControl u l _ _).trans (ih _)
        · exact ((modLink u l _).trans (sendFlit _ l _ _ _ _)).trans (ih _)
  unfold State.pumpLink
  split
  · exact (hgo _ s).trans (idleLink _ l)
  · exact refl s

theorem sendMsg (s : State) (l : Fin 20) (first : Bool) (parts : List Bytes) : s.SampleStands (s.sendMsg l first parts) := by
  unfold State.sendMsg
  split
  · exact (modLink s l _).trans (pumpLink _ l _)
  · exact forAll_of_each (fun _ t => send t _) s

theorem sendCtl (s : State) (l : Fin 20) (name : String) (args : List Nat) : s.SampleStands (s.sendCtl l name args) := by
  exact (send s (.ctl l.val name args)).trans (sendMsg _ l _ _)

theorem sendDeparture (s : State) : s.SampleStands s.sendDeparture :=
  forAll_of_each (fun l t => by
    split
    · exact sendCtl t l _ _
    · exact refl t) s

theorem stateEvent (s : State) : s.SampleStands s.stateEvent := by
  unfold State.stateEvent
  dsimp only
  split
  · exact refl s
  · split
    · split
      · exact of_hkp_eq rfl rfl rfl
      · exact of_hkp_eq rfl rfl rfl
    · exact of_hkp_eq rfl rfl rfl

theorem silence (s : State) : s.SampleStands s.silence := of_hkp_eq rfl rfl rfl

theorem halt (s : State) : s.SampleStands { s.eraseKeys with stopped := true, taken := [] } := of_hkp_eq rfl rfl rfl

/-- The stop of the device (R379). -/
theorem stopDevice (s : State) (cause : Nat) : s.SampleStands (s.stopDevice blkPWR cause) :=
  (((((noteD s cause).trans (raiseVec _ 64)).trans (silence _)).trans (sendDeparture _)).trans (halt _)).trans (stateEvent _)

/-- A change of the throttle level (R406). -/
theorem throttleTo (s : State) (l : Nat) : ({ s with hkp := { s.hkp with level := l } } : State).SampleStands (s.throttleTo l) := by
  have hnoted := (((raiseVec { s with hkp := { s.hkp with level := l } } 66).trans (stickStatus _ 1 (by decide))).trans
    (count _ 1 (blk := blkPWR) (off := 0x0218) (idx := 0) (by decide) (by decide))).trans (losePromise _ (fun _ => true))
  unfold State.throttleTo
  dsimp only
  split
  · exact hnoted.trans (almEvent _ 1)
  · exact hnoted

end State.SampleStands

@[simp] theorem State.stateEvent_stopped (s : State) : s.stateEvent.stopped = s.stopped := by
  unfold State.stateEvent
  dsimp only
  split
  · rfl
  · split
    · split
      · rfl
      · rfl
    · rfl

theorem State.stopDevice_stopped (s : State) (blk cause : Nat) : (s.stopDevice blk cause).stopped = true := State.stateEvent_stopped _

/-! A sample of the sensors, in the order of its effects (R404 to R407, R413, R428) -/

/-- The readings as they count. -/
def readingsOf (x : Sample) : List Int := (x.temps.map readingOf).map (·.1)

theorem readingsOf_eq (x : Sample) : readingsOf x = x.temps.map (fun r => (readingOf r).1) := List.map_map

/-- A failing sensor recorded (R404). -/
def State.noteFailures (s : State) (x : Sample) : State :=
  if (x.temps.map readingOf).any (·.2) then (s.stick blkPWR 0x0210 4).record blkPWR .none 0x0C01 else s

/-- The housekeeping island with a sample's readings, sums, totals and THERM_N; `top` is the hottest sensor with its reading. -/
def Hkp.sampled (h : Hkp) (now : List Int) (power : Nat) (top : Nat × Int) : Hkp :=
  let hot := h.wasHot || decide (850 < now.foldl max (-400))
  let cycle := hot && decide (now.foldl max (-400) < 450)
  { h with
    temps := now, hottest := top.1, hotC := top.2, powerW := power, wasHot := hot && !cycle
    sumW := h.sumW + power, nW := h.nW + 1, maxT := if h.nW = 0 then now else h.maxT.zipWith max now
    sumT := if h.nT = 0 then now else h.sumT.zipWith (· + ·) now, nT := h.nT + 1
    totals := { h.totals with peak := clamp8 (max h.totals.peak top.2), cycles := if cycle then h.totals.cycles + 1 else h.totals.cycles }
    therm := if now.any (fun v => decide (950 ≤ v)) then true else if now.all (fun v => decide (v < 900)) then false else h.therm }

/-- The sample taken into the island and PWR_RAILS, and the time at a throttle level counted. -/
def State.takeSample (s : State) (x : Sample) : State :=
  let u : State := { s.draw.2 with hkp := s.draw.2.hkp.sampled (readingsOf x) x.powerW.toNat (hottestOf (readingsOf x) s.draw.1) }
  let u := u.setReg blkPWR 0x0238 (x.rails.setWidth 64)
  if u.hkp.level = 0 then u else u.count blkPWR 0x0220 10

/-- Samples in a row above the cap, with this one (R406). -/
def State.aboveCap (s : State) (x : Sample) : Nat := if s.cap < x.powerW.toNat then s.hkp.overCap + 1 else 0

/-- Whether this sample raises the throttle level (R406). -/
def State.levelRises (s : State) (x : Sample) : Bool :=
  ((readingsOf x).any (fun v => decide (920 ≤ v)) || decide (3 ≤ s.aboveCap x)) && decide (s.hkp.level < 7) && decide (s.hkp.riseWait - 1 = 0)

/-- The throttle level after a sample. -/
def State.adjustLevel (s : State) (x : Sample) : State :=
  let calm := if (readingsOf x).all (fun v => decide (v < 880)) && decide (x.powerW.toNat * 100 ≤ 95 * s.cap) then s.hkp.calm + 1 else 0
  let u : State := { s with hkp := { s.hkp with
    overCap := s.aboveCap x, riseWait := if s.levelRises x then 10 else s.hkp.riseWait - 1, calm := calm } }
  if s.levelRises x then u.throttleTo (u.hkp.level + 1) else u

/-- A supply out of its range in two consecutive samples stops the device (R428). -/
def State.checkRails (s : State) (rails : BitVec 11) : State :=
  let bad := ~~~ rails &&& 0x1FF#11
  let u : State := { s with hkp := { s.hkp with railBad := if s.pwr.pwrOk then bad else 0 } }
  if s.pwr.pwrOk && decide (bad &&& s.hkp.railBad ≠ 0) then (u.stick blkPWR 0x0230 2).stopDevice blkPWR 0x0C04 else u

/-- Whether a sensor read 105 °C or above in two consecutive samples (R407). -/
def tripHeld (now before : List Int) : Bool := (now.zip before).any (fun v => decide (1050 ≤ v.1) && decide (1050 ≤ v.2))

/-- The thermal trip (R407). -/
def State.checkTrip (s : State) (now before : List Int) : State :=
  if tripHeld now before && !bit (s.reg blkPWR 0x0210) 1 then (s.stick blkPWR 0x0210 2).stopDevice blkPWR 0x0C02 else s

/-- The row's stages in order. Each is put in place of what the model computes there before the next is compared, so that no comparison meets more than
one stage. -/
theorem exec_sensorSample {s : State} (x : Sample) (h : s.stbyOn = true) : exec (.sensorSample x) s =
    .next (((((s.noteFailures x).takeSample x).adjustLevel x).checkRails x.rails).checkTrip (readingsOf x) s.hkp.temps) := by
  have hon : ¬ (!s.stbyOn) = true := by simp [h]
  have harm : exec (.sensorSample x) s = execSensorSample x s := rfl
  rw [harm, execSensorSample, if_neg hon]
  refine congrArg Host.Outcome.next ?_
  extract_lets rd temps before noted hottest power bad trip
  have hnoted : s.noteFailures x = noted := rfl
  clear_value noted
  rw [hnoted]
  rcases hdraw : noted.draw with ⟨v, drawn⟩
  dsimp -zeta only
  extract_lets _ _ _ _ _ _ taken _ _ _ _ _ _ adjusted
  have htaken : noted.takeSample x = taken := by
    unfold State.takeSample
    rw [hdraw]
    rfl
  clear_value taken
  rw [htaken]
  have hadjusted : taken.adjustLevel x = adjusted := rfl
  clear_value adjusted
  rw [hadjusted]
  rfl

/-! What each stage of a sample leaves -/

theorem State.cap_congr {s t : State} (hfuses : t.fuses = s.fuses) (hcfg : t.reg blkPWR 0x0200 = s.reg blkPWR 0x0200) : t.cap = s.cap := by
  unfold State.cap State.binCap
  rw [hfuses, hcfg]

section
variable (s : State) (x : Sample)

theorem State.noteFailures_hkp : (s.noteFailures x).hkp = s.hkp := by
  unfold State.noteFailures
  split
  · simp
  · rfl

theorem State.noteFailures_cap : (s.noteFailures x).cap = s.cap := by
  unfold State.noteFailures
  split
  · exact State.cap_congr (by simp) ((State.record_reg_ne _ (by decide) (by decide)).trans (State.stick_reg_ne _ _ (by decide)))
  · rfl

theorem State.noteFailures_trip : bit ((s.noteFailures x).reg blkPWR 0x0210) 1 = bit (s.reg blkPWR 0x0210) 1 := by
  unfold State.noteFailures
  split
  · exact ((State.SampleStands.stickStatus s 4 (by decide)).trans (State.SampleStands.record _ .none _)).trip
  · rfl

theorem State.takeSample_hkp : (s.takeSample x).hkp = s.hkp.sampled (readingsOf x) x.powerW.toNat (hottestOf (readingsOf x) s.draw.1) := by
  unfold State.takeSample
  dsimp only
  split
  · rfl
  · rfl

/-- A sample writes PWR_RAILS and PWR_THROTTLED_US, and no other register. -/
theorem State.takeSample_reg {off : Nat} (hrails : rkey blkPWR off 0 ≠ rkey blkPWR 0x0238 0) (htime : rkey blkPWR off 0 ≠ rkey blkPWR 0x0220 0) :
    (s.takeSample x).reg blkPWR off = s.reg blkPWR off := by
  unfold State.takeSample
  dsimp only
  split
  · exact State.setReg_reg_ne _ _ _ _ _ _ _ _ hrails
  · exact (State.count_reg_ne _ _ htime).trans (State.setReg_reg_ne _ _ _ _ _ _ _ _ hrails)

theorem State.takeSample_rails : (s.takeSample x).reg blkPWR 0x0238 = x.rails.setWidth 64 := by
  unfold State.takeSample
  dsimp only
  split
  · exact State.setReg_reg_self ..
  · exact (State.count_reg_ne _ _ (by decide)).trans (State.setReg_reg_self ..)

theorem State.takeSample_fuses : (s.takeSample x).fuses = s.fuses := by
  unfold State.takeSample
  dsimp only
  split
  · rfl
  · rfl

theorem State.takeSample_cap : (s.takeSample x).cap = s.cap :=
  State.cap_congr (s.takeSample_fuses x) (s.takeSample_reg x (by decide) (by decide))

/-- The level rises by one step at a time, below 7, and no sooner than ten samples after the last rise; the third sample in a row above the cap
counts. -/
theorem State.levelRises_eq : s.levelRises x =
    (((readingsOf x).any (fun v => decide (920 ≤ v)) || decide (s.cap < x.powerW.toNat ∧ 2 ≤ s.hkp.overCap)) &&
      decide (s.hkp.level < 7) && decide (s.hkp.riseWait ≤ 1)) := by
  have habove : (3 ≤ s.aboveCap x) ↔ (s.cap < x.powerW.toNat ∧ 2 ≤ s.hkp.overCap) := by
    unfold State.aboveCap
    split
    · omega
    · omega
  have hwait : s.hkp.riseWait - 1 = 0 ↔ s.hkp.riseWait ≤ 1 := by omega
  rw [State.levelRises, decide_eq_decide.mpr habove, decide_eq_decide.mpr hwait]

theorem State.adjustLevel_stands :
    ({ s with hkp := { s.hkp with level := if s.levelRises x then s.hkp.level + 1 else s.hkp.level } } : State).SampleStands (s.adjustLevel x) := by
  unfold State.adjustLevel
  dsimp only
  split
  · refine State.SampleStands.trans ?_ (State.SampleStands.throttleTo _ _)
    exact ⟨rfl, rfl, rfl, rfl, rfl, rfl⟩
  · exact ⟨rfl, rfl, rfl, rfl, rfl, rfl⟩

theorem State.checkRails_stands (rails : BitVec 11) : s.SampleStands (s.checkRails rails) := by
  have hnoted (r : BitVec 11) : s.SampleStands { s with hkp := { s.hkp with railBad := r } } := ⟨rfl, rfl, rfl, rfl, rfl, rfl⟩
  unfold State.checkRails
  dsimp only
  split
  · exact ((hnoted _).trans (State.SampleStands.stick _ 2 (by decide) (by decide))).trans (State.SampleStands.stopDevice _ _)
  · exact hnoted _

theorem State.checkTrip_stands (now before : List Int) :
    ∃ u : State, u.hkp = s.hkp ∧ u.reg blkPWR 0x0238 = s.reg blkPWR 0x0238 ∧ u.SampleStands (s.checkTrip now before) := by
  unfold State.checkTrip
  split
  · exact ⟨s.stick blkPWR 0x0210 2, State.stick_hkp .., State.stick_reg_ne _ _ (by decide), State.SampleStands.stopDevice _ _⟩
  · exact ⟨s, rfl, rfl, State.SampleStands.refl s⟩

theorem State.checkTrip_of_held {now before : List Int} (hheld : tripHeld now before = true) (hclear : bit (s.reg blkPWR 0x0210) 1 = false) :
    s.checkTrip now before = (s.stick blkPWR 0x0210 2).stopDevice blkPWR 0x0C02 :=
  if_pos (by rw [hheld, hclear]; rfl)

end

/-- The sample as a whole: its stages change the throttle level only by a rise, and only the last one looks for the trip. -/
theorem exec_sensorSample_effect {s : State} (x : Sample) (h : s.stbyOn = true) : ∃ t, exec (.sensorSample x) s = .next t ∧
    t.hkp.temps = readingsOf x ∧ t.hkp.powerW = x.powerW.toNat ∧ t.reg blkPWR 0x0238 = x.rails.setWidth 64 ∧
    t.hkp.therm = (if (readingsOf x).any (fun v => decide (950 ≤ v)) then true
      else if (readingsOf x).all (fun v => decide (v < 900)) then false else s.hkp.therm) ∧
    t.hkp.level = (if s.levelRises x then s.hkp.level + 1 else s.hkp.level) ∧
    (tripHeld (readingsOf x) s.hkp.temps = true → bit (s.reg blkPWR 0x0210) 1 = false →
      ∃ u : State, t = State.stopDevice (u.stick blkPWR 0x0210 2) blkPWR 0x0C02) := by
  refine ⟨_, exec_sensorSample x h, ?_⟩
  have hhkp := (s.noteFailures x).takeSample_hkp x
  have hrails := (s.noteFailures x).takeSample_rails x
  have htrip : bit (((s.noteFailures x).takeSample x).reg blkPWR 0x0210) 1 = bit (s.reg blkPWR 0x0210) 1 := by
    rw [State.takeSample_reg _ _ (by decide) (by decide), State.noteFailures_trip]
  have hrises : ((s.noteFailures x).takeSample x).levelRises x = s.levelRises x := by
    rw [State.levelRises_eq, State.levelRises_eq, State.takeSample_cap, State.noteFailures_cap, hhkp, State.noteFailures_hkp]
    rfl
  rw [State.noteFailures_hkp] at hhkp
  generalize (s.noteFailures x).takeSample x = taken at hhkp hrails htrip hrises ⊢
  have hlevel := (taken.adjustLevel_stands x).trans ((taken.adjustLevel x).checkRails_stands x.rails)
  rw [hrises, hhkp] at hlevel
  generalize (taken.adjustLevel x).checkRails x.rails = checked at hlevel ⊢
  obtain ⟨u, huhkp, hurails, hu⟩ := checked.checkTrip_stands (readingsOf x) s.hkp.temps
  refine ⟨?_, ?_, ?_, ?_, ?_, fun hheld hclear => ⟨checked, checked.checkTrip_of_held hheld (hlevel.trip.trans (htrip.trans hclear))⟩⟩
  · rw [hu.temps, huhkp, hlevel.temps]
    rfl
  · rw [hu.powerW, huhkp, hlevel.powerW]
    rfl
  · rw [hu.rails, hurails, hlevel.rails]
    exact hrails
  · rw [hu.therm, huhkp, hlevel.therm]
    rfl
  · rw [hu.level, huhkp, hlevel.level]
    rfl

/-! The level's fall (R406) -/

theorem exec_throttleFall {s : State} (hlevel : s.hkp.level ≠ 0) (hcalm : 100 ≤ s.hkp.calm) :
    exec .throttleFall s = .next (({ s with hkp := { s.hkp with calm := 0 } } : State).throttleTo (s.hkp.level - 1)) :=
  congrArg Host.Outcome.next (if_neg (by simp [hlevel, hcalm]))

/-- From a level above 0 no almanac record is due, so a change of level leaves the island as it was but for the level. -/
theorem State.throttleTo_of_throttled {s : State} (h : s.hkp.level ≠ 0) (l : Nat) :
    (s.throttleTo l).hkp = { s.hkp with level := l } ∧ bit ((s.throttleTo l).reg blkPWR 0x0210) 0 = true := by
  have hraised : (State.raiseVec { s with hkp := { s.hkp with level := l } } 66).hkp = { s.hkp with level := l } := by
    unfold State.raiseVec
    split
    · rfl
    · exact (congrArg State.hkp (State.SendsOnly.sendMsi _ 66).rest).symm
  unfold State.throttleTo
  dsimp only
  rw [if_neg h, State.losePromise_hkp, State.losePromise_reg, State.count_reg_ne _ _ (by decide), State.stick_reg_self, bit_or,
    show bit (BitVec.ofNat 64 1) 0 = true by decide, Bool.or_true]
  exact ⟨hraised, rfl⟩

/-! Barometer snapshots (R409 to R411) -/

theorem State.gathered_of_no_sample {s : State} (h : s.hkp.nW = 0) (mw : BitVec 32) (temps : List Int) : s.gathered mw temps = (mw, temps, s) := if_pos h

theorem State.gathered_of_samples {s : State} (h : s.hkp.nW ≠ 0) (mw : BitVec 32) (temps : List Int) :
    (s.gathered mw temps).1 = BitVec.ofNat 32 (1000 * s.hkp.sumW / s.hkp.nW) ∧ (s.gathered mw temps).2.1.length = s.hkp.maxT.length := by
  rw [State.gathered, if_neg h]
  exact ⟨rfl, List.length_map _⟩

theorem State.gathered_keeps (s : State) (mw : BitVec 32) (temps : List Int) :
    (s.gathered mw temps).2.2.hkp.snaps = s.hkp.snaps ∧ (s.gathered mw temps).2.2.hkp.seq = s.hkp.seq := by
  unfold State.gathered
  split
  · exact ⟨rfl, rfl⟩
  · exact ⟨rfl, rfl⟩

/-- A snapshot kept among the last 16, and its number in HKP_BARO_SEQ. -/
def State.latch (s : State) (bs : Bytes) : State :=
  let u := s.setReg blkHKP 0x0218 (BitVec.ofNat 64 s.hkp.seq)
  { u with hkp := { u.hkp with snaps := (bs :: s.hkp.snaps).take 16, seq := s.hkp.seq + 1, latched := u.latchList.map (·.2) } }

/-- Every `period`-th snapshot goes to the ring, where there is one (R411). -/
def State.copyDue (s : State) (bs : Bytes) : State :=
  match s.hkp.ring with
  | none => s
  | some r =>
    let due := decide (r.period ≤ r.since + 1)
    let u : State := { s with hkp := { s.hkp with ring := some { r with since := if due then 0 else r.since + 1 } } }
    if due then u.baroCopy r bs else u

theorem exec_barometerLatch {s u : State} {mw m : BitVec 32} {temps l : List Int} (hstage : 2 ≤ s.pwr.stage) (h : s.gathered mw temps = (m, l, u)) :
    exec (.barometerLatch mw temps) s = .next ((u.latch (u.snapshot m l)).copyDue (u.snapshot m l)) := by
  have harm : exec (.barometerLatch mw temps) s = execBarometerLatch mw temps s := rfl
  rw [harm, execBarometerLatch, if_neg (Nat.not_lt.mpr hstage), h]
  rfl

/-- `t` has the snapshots of `s`, and the numbers of the last and the next one. -/
structure State.SnapshotsStand (s t : State) : Prop where
  snaps : t.hkp.snaps = s.hkp.snaps
  seq : t.hkp.seq = s.hkp.seq
  number : t.reg blkHKP 0x0218 = s.reg blkHKP 0x0218

theorem State.SnapshotsStand.trans {s t u : State} (h : s.SnapshotsStand t) (h' : t.SnapshotsStand u) : s.SnapshotsStand u where
  snaps := h'.snaps.trans h.snaps
  seq := h'.seq.trans h.seq
  number := h'.number.trans h.number

theorem State.SnapshotsStand.of_sendsOnly {s t : State} (h : s.SendsOnly t) : s.SnapshotsStand t where
  snaps := (congrArg (fun u : State => u.hkp.snaps) h.rest).symm
  seq := (congrArg (fun u : State => u.hkp.seq) h.rest).symm
  number := h.regs _ (by decide) (by decide)

theorem State.obinhaReq_stands (s : State) (who : ReqWho) (write own : Bool) (a n : Nat) : s.SnapshotsStand (s.obinhaReq who write own a n) :=
  .of_sendsOnly ((State.SendsOnly.vcl s _).trans (State.SendsOnly.flushOut _))

theorem State.baroLost_stands (s : State) : s.SnapshotsStand s.baroLost where
  snaps := rfl
  seq := rfl
  number := (State.stick_reg_ne _ _ (by decide)).trans (State.count_reg_ne _ _ (by decide))

theorem State.baroCopy_stands (s : State) (r : BaroRing) (bs : Bytes) : s.SnapshotsStand (s.baroCopy r bs) := by
  unfold State.baroCopy
  split
  · exact ⟨rfl, rfl, rfl⟩
  · split
    · refine State.SnapshotsStand.trans ?_ (State.obinhaReq_stands _ _ _ _ _ _)
      exact ⟨rfl, rfl, rfl⟩
    · exact s.baroLost_stands

theorem State.copyDue_stands (s : State) (bs : Bytes) : s.SnapshotsStand (s.copyDue bs) := by
  unfold State.copyDue
  split
  · exact ⟨rfl, rfl, rfl⟩
  · dsimp only
    split
    · refine State.SnapshotsStand.trans ?_ (State.baroCopy_stands _ _ _)
      exact ⟨rfl, rfl, rfl⟩
    · exact ⟨rfl, rfl, rfl⟩

theorem exec_barometerLatch_effect {s u : State} {mw m : BitVec 32} {temps l : List Int} (hstage : 2 ≤ s.pwr.stage)
    (h : s.gathered mw temps = (m, l, u)) : ∃ t, exec (.barometerLatch mw temps) s = .next t ∧
      t.hkp.snaps = (u.snapshot m l :: s.hkp.snaps).take 16 ∧ t.hkp.seq = s.hkp.seq + 1 ∧ t.reg blkHKP 0x0218 = BitVec.ofNat 64 s.hkp.seq := by
  obtain ⟨hsnaps, hseq⟩ := s.gathered_keeps mw temps
  rw [h] at hsnaps hseq
  have hstand := (u.latch (u.snapshot m l)).copyDue_stands (u.snapshot m l)
  refine ⟨_, exec_barometerLatch hstage h, ?_, ?_, ?_⟩
  · rw [← hsnaps]
    exact hstand.snaps
  · rw [← hseq]
    exact hstand.seq
  · rw [← hseq]
    exact hstand.number.trans (State.setReg_reg_self u blkHKP 0x0218 _ 0)

/-! The almanac's writes (R415) -/

/-- Nothing waits to be written. -/
theorem State.almServe_of_none_waiting {s : State} (hheld : s.hkp.almHeld = none) (hnow : s.hkp.almNow = false) : s.almServe = s := by
  unfold State.almServe
  split
  · rfl
  · rw [hnow, hheld]
    rfl

theorem State.almServe_of_held {s : State} {r : Nat} (hheld : s.hkp.almHeld = some r) (hnow : s.hkp.almNow = false) (hwrite : s.hkp.almWrite = none)
    (hhot : s.hkp.almHot = false) : s.almServe = State.almBegin { s with hkp := { s.hkp with almHeld := none } } r := by
  unfold State.almServe
  rw [hwrite, hnow, hheld, hhot]
  rfl

theorem exec_almanacHourly {s : State} (h : s.stbyOn = true) : exec .almanacHourly s = .next (s.almEvent 0) := congrArg Host.Outcome.next (if_pos h)

theorem exec_almanacHoldExpiry {s : State} (h : s.hkp.almHot = true) :
    exec .almanacHoldExpiry s = .next (State.almServe { s with hkp := { s.hkp with almHot := false } }) :=
  congrArg Host.Outcome.next (if_neg (by simp [h]))

/-- The island after a write that was read back as written. -/
def Hkp.almWritten (h : Hkp) (w : AlmWrite) : Hkp :=
  { h with
    alm := insertAt (almErased (w.tried ++ [w.pos]) h.alm) w.pos w.record, almPos := w.pos
    almSeq := leAt w.record 8 8, almUtc := leAt w.record 16 8, almWrite := none }

/-- The island after the third failed position. -/
def Hkp.almGivenUp (h : Hkp) (w : AlmWrite) : Hkp :=
  { h with almWrite := none, almPos := w.pos, alm := almErased (w.tried ++ [w.pos]) h.alm }

/-- The island with the write at its next position. -/
def Hkp.almRetried (h : Hkp) (w : AlmWrite) : Hkp :=
  { h with almWrite := some { w with pos := almNext w.pos, fails := w.fails + 1, tried := w.tried ++ [w.pos] } }

section
variable {s : State} {w : AlmWrite} (hw : s.hkp.almWrite = some w) (hheld : s.hkp.almHeld = none) (hnow : s.hkp.almNow = false)
include hw hheld hnow

theorem exec_almanacWriteDone_written : exec (.almanacWriteDone true) s = .next { s with hkp := s.hkp.almWritten w } := by
  have harm : exec (.almanacWriteDone true) s = execAlmanacWriteDone true s := rfl
  rw [harm, execAlmanacWriteDone, hw]
  exact congrArg Host.Outcome.next (State.almServe_of_none_waiting (s := { s with hkp := s.hkp.almWritten w }) hheld hnow)

theorem exec_almanacWriteDone_givenUp (hfails : w.fails = 2) : exec (.almanacWriteDone false) s =
    .next ((State.stick { s with hkp := s.hkp.almGivenUp w } blkHKP 0x0240 1).record blkHKP .none 0x0A01) := by
  have harm : exec (.almanacWriteDone false) s = execAlmanacWriteDone false s := rfl
  rw [harm, execAlmanacWriteDone, hw]
  dsimp only
  rw [if_neg Bool.false_ne_true, if_pos hfails]
  refine congrArg Host.Outcome.next (State.almServe_of_none_waiting ?_ ?_)
  · rw [State.record_hkp, State.stick_hkp]
    exact hheld
  · rw [State.record_hkp, State.stick_hkp]
    exact hnow

theorem exec_almanacWriteDone_retried (hfails : w.fails ≠ 2) : exec (.almanacWriteDone false) s = .next { s with hkp := s.hkp.almRetried w } := by
  have harm : exec (.almanacWriteDone false) s = execAlmanacWriteDone false s := rfl
  rw [harm, execAlmanacWriteDone, hw]
  dsimp only
  rw [if_neg Bool.false_ne_true, if_neg hfails]
  exact congrArg Host.Outcome.next (State.almServe_of_none_waiting (s := { s with hkp := s.hkp.almRetried w }) hheld hnow)

end

/-! Ageing (R412, R413) and patrol scrub (R401) -/

theorem exec_ageingTick {s : State} (temps : List Int) (volts : List Nat) (h : s.stbyOn = true) : exec (.ageingTick temps volts) s = .next
    { s with hkp := { s.hkp with
      age := Vector.ofFn (fun (i : Fin 28) =>
        min (2 ^ 96 - 1) (s.hkp.age[i] + ageFactor (s.meanTemp temps i.val) (volts.getD i.val 0) (nominalMv i.val)))
      sumT := [], nT := 0
      totals := { s.hkp.totals with powerOnS := if s.pwr.pwrOk then s.hkp.totals.powerOnS + 1 else s.hkp.totals.powerOnS } } } :=
  congrArg Host.Outcome.next (if_neg (by simp [h]))

/-- The lines of the next block that fail, handled. -/
def State.scrubLines (s : State) (errs : List LineErr) : State :=
  forAll (s.errsAt errs (512 * s.hkp.scrub) 512) (fun e s => s.lineErr e true) s

theorem State.scrubLines_of_no_error {s : State} (h : s.bad = []) : s.scrubLines [] = s := by
  rw [State.scrubLines, State.errsAt_nil h]
  rfl

/-- The scrub's place moved past a block; past the last one it begins again and a pass is counted. -/
def State.scrubbed (s : State) (block : Nat) : State :=
  let wraps := decide (hbmEnd / 512 ≤ block + 1)
  let u : State := { s with hkp := { s.hkp with scrub := if wraps then 0 else block + 1 } }
  if wraps then u.count blkHKP 0x0210 else u

theorem State.scrubbed_effect (s : State) (block : Nat) :
    (s.scrubbed block).hkp.scrub = (if hbmEnd / 512 ≤ block + 1 then 0 else block + 1) ∧ (s.scrubbed block).mem = s.mem ∧
    (s.scrubbed block).bad = s.bad := by
  unfold State.scrubbed
  by_cases hwraps : hbmEnd / 512 ≤ block + 1
  · simp [hwraps]
  · simp [hwraps]

theorem exec_scrubBlock {s : State} (errs : List LineErr) (hrun : s.stopped = false) (hstage : 6 ≤ s.pwr.stage) :
    exec (.scrubBlock errs) s = .next ((s.scrubLines errs).scrubbed s.hkp.scrub) :=
  congrArg Host.Outcome.next (if_neg (by simp [hrun, hstage]))

end Sys2Proof.Machine

open Sys2Proof Sys2Proof.Machine

/-- Settles O52: a sample's stages after its readings change the throttle level only by a rise and none but the last looks for the trip; the
background tasks change their own part of the housekeeping island. -/
theorem housekeepingCompletes : Obligations.HousekeepingCompletes := by
  unfold Obligations.HousekeepingCompletes
  intro s
  refine ⟨fun x h => ?_, exec_pwrCfgWrite_whole_or_bad s, fun hlevel hcalm => ?_, fun mw m temps l u hstage h => ?_, fun temps volts h => ?_,
    exec_almanacHourly, fun hhot hnow => ⟨fun hheld => ?_, fun r hheld hwrite => ?_⟩, fun w hw hheld hnow => ⟨?_, fun hfails => ?_, fun hfails => ?_⟩,
    fun errs hrun hstage => ?_⟩
  · obtain ⟨t, hexec, htemps, hpower, hrails, htherm, hlevel, htrip⟩ := exec_sensorSample_effect x h
    rw [State.levelRises_eq, ← htemps] at hlevel
    rw [← htemps] at htherm htrip
    refine ⟨t, hexec, htemps.trans (readingsOf_eq x), hpower, hrails, htherm, hlevel, fun hheld hclear => ?_⟩
    obtain ⟨u, rfl⟩ := htrip hheld hclear
    exact ⟨State.stopDevice_stopped .., u, rfl⟩
  · obtain ⟨hhkp, hbit⟩ := State.throttleTo_of_throttled (s := { s with hkp := { s.hkp with calm := 0 } }) hlevel (s.hkp.level - 1)
    exact ⟨_, exec_throttleFall hlevel hcalm, congrArg Hkp.level hhkp, congrArg Hkp.calm hhkp, hbit⟩
  · refine ⟨fun hn => ?_, fun hn => ?_, exec_barometerLatch_effect hstage h⟩
    · rw [State.gathered_of_no_sample hn] at h
      cases h
      exact ⟨rfl, rfl, rfl⟩
    · have hgathered := State.gathered_of_samples hn mw temps
      rw [h] at hgathered
      exact hgathered
  · exact ⟨_, exec_ageingTick temps volts h, fun i => Vector.getElem_ofFn .., rfl, rfl⟩
  · rw [exec_almanacHoldExpiry hhot, State.almServe_of_none_waiting]
    · exact hheld
    · exact hnow
  · rw [exec_almanacHoldExpiry hhot, State.almServe_of_held (r := r)]
    · exact hheld
    · exact hnow
    · exact hwrite
    · rfl
  · exact ⟨_, exec_almanacWriteDone_written hw hheld hnow, rfl, rfl, rfl, rfl⟩
  · refine ⟨_, exec_almanacWriteDone_givenUp hw hheld hnow hfails, ?_, ?_, ?_⟩
    · rw [State.record_hkp, State.stick_hkp]
      rfl
    · rw [State.record_reg_ne _ (by decide) (by decide), State.stick_reg_self, bit_or, show bit (BitVec.ofNat 64 1) 0 = true by decide, Bool.or_true]
    · rw [State.record_hkp, State.stick_hkp]
      rfl
  · exact ⟨_, exec_almanacWriteDone_retried hw hheld hnow hfails, rfl, rfl⟩
  · obtain ⟨hscrub, hmem, hbad⟩ := (s.scrubLines errs).scrubbed_effect s.hkp.scrub
    refine ⟨_, exec_scrubBlock errs hrun hstage, hscrub, ?_⟩
    rintro hnone rfl
    rw [State.scrubLines_of_no_error hnone] at hmem hbad ⊢
    exact ⟨hmem, hbad⟩

end
